-- ==== Sys2Proof/Word.lean ====
section
/-! DEFINITION. The plain data types every other file uses: bytes, words and the bounded numbers of the module's units
(the names of 00_scope.md, "Names"). -/
namespace Sys2Proof

/-- One byte. Multi-byte values are little-endian (R3). -/
abbrev Byte := BitVec 8
/-- A 32-bit register word. -/
abbrev Word32 := BitVec 32
/-- A 64-bit register word. -/
abbrev Word64 := BitVec 64
/-- One 128-bit instruction word of a task block (R115). -/
abbrev IWord := BitVec 128
/-- A context tag ctx:gen, bits [17:12] the context number, bits [11:0] the generation (R9). -/
abbrev Tag := BitVec 18
/-- Piers P0 to P15, and with the same number their compute dies and stacks. -/
abbrev Pier := Fin 16
/-- Arrays MA0 to MA7 of one pier. -/
abbrev Arr := Fin 8
/-- Memory stacks MS0 to MS15. -/
abbrev Stk := Fin 16
/-- Links ZL0 to ZL23. -/
abbrev Lnk := Fin 24
/-- Abutment dies AD0 to AD3. -/
abbrev Die := Fin 4
/-- Contexts CTX0 to CTX63. -/
abbrev CtxId := Fin 64
/-- Mailboxes MB0 to MB255. -/
abbrev Mbx := Fin 256
/-- Transfer engines TE0 to TE3 of one pier. -/
abbrev Te := Fin 4
/-- Tally counters TC0 to TC63 of one pier. -/
abbrev Tc := Fin 64
/-- Reduction windows of one stack. -/
abbrev Win := Fin 64
/-- Collective descriptors of the module. -/
abbrev Coll := Fin 256
/-- The thirteen instruction queues of a pier by QSEL: 0 to 7 AQ0 to AQ7, 8 VQ, 9 to 12 TQ0 to TQ3 (R112). -/
abbrev QSel := Fin 13

end Sys2Proof
end

