-- ==== Sys2Proof/Syntax.lean ====
section
/-! DEFINITION. The commands of the block: one constructor of Instr for each row of spec/opcode_table.json, with the
operands the row's event carries from outside the module or from the unit that raises it. A row whose instruction is
first dispatched by the sequencer and later runs at the head of its queue carries a phase. -/
namespace Sys2Proof

/-- Where a queued control instruction stands: at dispatch, or at the head of the queue QSEL (R135, R148). -/
inductive QPhase where
  | dispatch
  | run (q : QSel)
deriving DecidableEq, Repr

/-- What the error check of an accessed word or atom finds: a physical fact from outside the model (R41, R170, R282). -/
inductive Ecc where
  | clean
  | corrected
  | uncorrectable
deriving DecidableEq, Repr

/-- What goes before the issue of a vector instruction and what the register file's check finds in its source registers:
corrected words, and the register with an uncorrected one (R170); array cycles in which VQ's head waited on a register,
and on a busy unit alone, and in which VQ was empty, since the issue before (R200). -/
structure VIssue where
  corrected : Nat
  bad : Option (BitVec 5)
  dep : Nat
  unit : Nat
  idle : Nat
deriving DecidableEq, Repr

/-- An issue at once, with nothing found. -/
def VIssue.clean : VIssue := { corrected := 0, bad := none, dep := 0, unit := 0, idle := 0 }

/-- A vector instruction is dispatched, or issues at the head of VQ. -/
inductive VPhase where
  | dispatch
  | run (v : VIssue)
deriving DecidableEq, Repr

/-- A transfer instruction is dispatched, or starts at the head of its engine's queue (R113). -/
inductive TPhase where
  | dispatch
  | run (te : Te)
deriving DecidableEq, Repr

/-- Where a parity error is found: a joint of an array, or its launch bus (R51, R67). -/
inductive Joint where
  | weight
  | launch
  | input
  | side
deriving DecidableEq, Repr

/-- What happens at an array between two of its events. A port is served for one row (R57, R58): the weight, streamed or
side feeder reads one, or the drain writer writes one. Or a parity error is found in the oldest row of a joint (R67). Or
one array cycle passes: `corrected` counts the corrected words of the accumulator rows read in it, and `bad` says that
one of them could not be corrected (R41). -/
inductive ArrayStep where
  | weight
  | stream
  | side
  | write
  | parity (j : Joint)
  | cycle (corrected : Nat) (bad : Bool)
deriving DecidableEq, Repr

/-- Who issues a request to a base die (R262). -/
structure MemReq where
  /-- local address (R249) -/
  addr : BitVec 48
  tag : Tag
  /-- the request comes from a peer module -/
  peer : Bool
  /-- the pier whose unit asks, if a unit of the module asks -/
  pier : Option Pier
  ecc : Ecc
deriving DecidableEq, Repr

/-- One chunk of an ordered contribution arriving at a base die (R274, R275, R308). -/
structure ChunkReq where
  tag : Tag
  /-- local address of the first DST atom, which names the window -/
  dst : BitVec 48
  rank : Nat
  round : BitVec 16
  epoch : BitVec 32
  seg : Nat
  last : Bool
  indexed : Bool
  /-- SFMT in bits [3:0], DFMT in bits [7:4] -/
  pair : Byte
  indices : List (BitVec 32)
  data : List Byte
  peer : Bool
  pier : Option Pier
  ecc : Ecc
deriving DecidableEq, Repr

/-- A window command from the keystone (R272, R437). -/
inductive WindowOp where
  | opn (descriptor : List Byte)
  | rearm (epoch : BitVec 32) (n : Nat)
  | close
deriving DecidableEq, Repr

/-- What the peer's TRAIN flits say in training step 3 (R296, R297). -/
structure TrainInfo where
  module : BitVec 13
  link : BitVec 5
  dim : BitVec 3
  sign : Bool
  /-- lanes that have trained, in step 1 (R296) -/
  lanes : BitVec 16
  firmware : BitVec 64
deriving DecidableEq, Repr

/-- What the FEC decoder makes of a codeword (R294). -/
inductive Codeword where
  | clean
  | corrected
  | uncorrectable
deriving DecidableEq, Repr

/-- A flit slot as it leaves the FEC decoder (R293, R294, R298). -/
structure Slot where
  /-- the codeword that ends with the slot's first message bits: the first of the pair at slot 0, the second at slot 2 -/
  codeword : Codeword
  sideband : Byte
  body : List Byte
deriving DecidableEq, Repr

/-- Where a header flit comes from: a link, or a unit of the module on the given source die (R557). -/
inductive FlitSrc where
  | link (l : Lnk)
  | unit (d : Die)
deriving DecidableEq, Repr

/-- The body of a TIME frame with its receive time t4, in units of 1/8 ns (R340). -/
structure TimeFrame where
  tx : Nat
  echo : Nat
  rx : Nat
  depth : Nat
  locked : Bool
  t4 : Nat
deriving DecidableEq, Repr

/-- Who writes a register: the host through BAR0, or the keystone firmware (R425). -/
inductive Writer where
  | host
  | keystone
deriving DecidableEq, Repr

/-- A row of an access dropped at BAR0: a read or a write of this many bytes. -/
structure Bar0Access where
  off : BitVec 26
  size : Nat
  write : Bool
deriving DecidableEq, Repr

/-- A sensor of R549 by kind, for trips and thresholds (R546). -/
inductive Sensor where
  | computeDie (p : Pier)
  | coreDie (n : Stk)
  | baseDie (n : Stk)
  | abutmentDie (k : Die)
  | lid (q : Fin 4)
  | power
  | voltage
  | score
  | ready (m : Fin 4)
deriving DecidableEq, Repr

/-- A TAP instruction (R540). -/
inductive TapInsn where
  | bypass
  | idcode
  | samplePreload
  | extest
  | clamp
deriving DecidableEq, Repr

/-- Why a warm reset is raised (R467, R472 CFG_RESET.CAUSE). -/
inductive WarmCause where
  | command
  | managementPort
  | keystoneError
deriving DecidableEq, Repr

/-- Why a host-port reset is raised (R467, R470). -/
inductive PortCause where
  | perst
  | hotReset
  | functionLevel
  | linkLoss
deriving DecidableEq, Repr

/-- What the boot ROM finds in one image slot at boot (R522): facts of the flash and of the cryptography. -/
structure SlotCheck where
  /-- the manifest verifies under R515 -/
  manifest : Bool
  /-- the image key unwraps and meets its commitment -/
  key : Bool
  /-- every piece of the keystone component passes -/
  pieces : Bool
deriving DecidableEq, Repr

/-- What reading one copy of the settings store gives (R457, R532). -/
structure StoreCopy where
  verifies : Bool
  seq : BitVec 64
  fmt : BitVec 16
  /-- the RWC words of the copy: BAR0 offset and value -/
  words : List (Nat × BitVec 32)
  routes : List (Nat × BitVec 32)
  fast : List (Nat × BitVec 64)
deriving DecidableEq, Repr

/-- The commands of the block, in the table's order. -/
inductive Instr where
  -- dispatch and queue steps of the pier sequencer
  | nop (p : Pier)
  | endTask (p : Pier)
  | setb (p : Pier)
  | addb (p : Pier)
  | loop (p : Pier)
  | br (p : Pier)
  | twait (p : Pier)
  | twaitRelease (p : Pier) (q : Fin 14)
  | tsig (p : Pier) (ph : QPhase)
  | tset (p : Pier)
  | mark (p : Pier) (ph : QPhase)
  | setx (p : Pier)
  | setl (p : Pier)
  | ldd (p : Pier)
  | lddDescriptorsArrive (p : Pier)
  | pass (p : Pier)
  | passAdmission (p : Pier) (a : Arr) (steps : List ArrayStep)
  | passEndMarker (p : Pier) (a : Arr) (steps : List ArrayStep)
  | drainComplete (p : Pier) (a : Arr) (steps : List ArrayStep)
  | overflowReissue (p : Pier) (a : Arr) (steps : List ArrayStep)
  | passCompletion (p : Pier) (a : Arr) (steps : List ArrayStep)
  | accZeroingDone (p : Pier) (a : Arr)
  | xfer (p : Pier) (ph : TPhase)
  | gather (p : Pier) (ph : TPhase)
  | reduce (p : Pier) (ph : TPhase)
  | taskSubmission (p : Pier) (len : Word32)
  | taskStart (p : Pier)
  | taskCompletion (p : Pier)
  | faultedEntry (p : Pier)
  | haltComplete (p : Pier)
  | tallyIncrementReceived (p : Pier) (src : Fin 36)
  -- vector engine
  | vfma (p : Pier) (ph : VPhase)
  | vadd (p : Pier) (ph : VPhase)
  | vmul (p : Pier) (ph : VPhase)
  | vcmp (p : Pier) (ph : VPhase)
  | vspec (p : Pier) (ph : VPhase)
  | vact (p : Pier) (ph : VPhase)
  | vshf (p : Pier) (ph : VPhase)
  | vred (p : Pier) (ph : VPhase)
  | vld (p : Pier) (ph : VPhase)
  | vst (p : Pier) (ph : VPhase)
  | vqst (p : Pier) (ph : VPhase)
  | vopt (p : Pier) (ph : VPhase)
  | vectorZeroingDone (p : Pier)
  | gaugeCheck (p : Pier)
  -- register rows
  | marCtrlEn (p : Pier) (a : Arr) (v : Bool)
  | marCtrlHalt (p : Pier) (a : Arr) (v : Bool)
  | marCtrlCntClr (p : Pier) (a : Arr)
  | psqCtrlArm (p : Pier) (v : Bool)
  | psqCtrlHalt (p : Pier) (v : Bool)
  | psqCtrlAbort (p : Pier)
  | psqCtrlClrFault (p : Pier)
  | psqCtrlCntClr (p : Pier)
  | psqCtxTag (p : Pier) (tag : Tag)
  | psqTcnWrite (p : Pier) (tc : Tc) (v : Word32)
  | vecCtrlCntClr (p : Pier)
  | dmcCtrlScrubEn (n : Stk) (v : Bool)
  | dmcCtrlCntClr (n : Stk)
  | dmcFenceTag (n : Stk) (tag : Tag)
  | dmcFenceQuiet (n : Stk)
  | zlCtrlEn (l : Lnk) (v : Bool)
  | zlCtrlRetrain (l : Lnk)
  | zlCtrlCntClr (l : Lnk)
  | zlSwFenceTag (k : Die) (tag : Tag)
  | switchFenceQuiet (k : Die)
  | tsCtrlCntClr
  | tsSetCount (v : Word64)
  | rshCtrlEn (k : Die) (v : Bool)
  | rshCtrlAbort (k : Die)
  | rshCtrlCntClr (k : Die)
  | rshSubmitAddr (k : Die) (addr : BitVec 48)
  | registerWrite (w : Writer) (off : BitVec 26) (data : List Byte)
  | counterSnapshotRead (off : BitVec 26)
  -- memory
  | read (r : MemReq)
  | write (r : MemReq) (data : BitVec 512) (mask : BitVec 64)
  | plain (r : MemReq) (pair : Byte) (wide : Bool) (data : List Byte)
  | chunk (c : ChunkReq)
  | zero (page : BitVec 27)
  | window (n : Stk) (w : Win) (op : WindowOp)
  | channelMapOut (n : Stk) (c : Fin 32)
  | zeroComplete (page : BitVec 27)
  | roundFinish (n : Stk) (w : Win)
  | chunkRepeat (p : Pier) (te : Te)
  | patrolScrub (n : Stk) (found : List (BitVec 36 × Ecc))
  | refreshBandSample (n : Stk) (core : BitVec 16) (base : BitVec 16)
  -- links
  | linkTrainingStep (l : Lnk) (t : TrainInfo)
  | trainingTimeout (l : Lnk)
  | trainingRetry (l : Lnk)
  | slotReceived (l : Lnk) (x : Slot)
  | replayTimeout (l : Lnk)
  | resync (l : Lnk) (frame : List Byte)
  | time (l : Lnk) (f : TimeFrame)
  | truss (l : Lnk) (frame : List Byte)
  | lockLoss (l : Lnk)
  | sideFrameSilence (l : Lnk)
  | headerFlit (src : FlitSrc) (header : List Byte) (payload : List Byte)
  | writePacket (k : Die)
  | landingCount (k : Die)
  | readPacket (k : Die)
  | chunkPacket (k : Die)
  | coll (k : Die)
  | msg (k : Die)
  | ack (k : Die)
  | rdata (k : Die)
  | refused (k : Die)
  | nack (k : Die)
  | farTimeout (k : Die) (txid : Word32)
  | collectiveRoundComplete (d : Coll)
  | collChunkRepeat (d : Coll)
  | spanTimeHoldover
  | ppsEdge
  | ppsMissing
  | replicaTrim
  -- shards, resharding, steps
  | shardRefetch (p : Pier) (te : Te)
  | shardTimeout (p : Pier) (te : Te)
  | shardSeal (c : CtxId) (idx : Nat)
  | reshardJobStart (k : Die)
  | reshardJobComplete (k : Die)
  | stepOpen (c : CtxId)
  | gateEvaluation (c : CtxId)
  | stepLocalCompletion (c : CtxId)
  | twinRootArrival (c : CtxId) (step : Word64) (root : List Byte)
  | voteResult (c : CtxId)
  -- serving
  | stepComposition (c : CtxId)
  | servingSubmit (c : CtxId)
  | servingStepApply (c : CtxId)
  | servingStepFail (c : CtxId)
  | creditReread (c : CtxId) (stream : BitVec 14)
  | streamRecords
  | recordResend
  -- mailboxes and the host port
  | mailboxOwnFlip (m : Mbx)
  | mailboxCancel (m : Mbx)
  | mailboxWriteWhileOwned (m : Mbx) (off : BitVec 12)
  | commandTake
  | progressUpdate (m : Mbx) (done : BitVec 48)
  | eventRecord
  | holdoffExpiry (v : BitVec 11)
  | badOffsetAccess (a : Bar0Access)
  | badWidthAccess (a : Bar0Access)
  | diagWindowWrite (off : BitVec 24)
  | bayApertureAccess (off : BitVec 36) (write : Bool) (data : List Byte)
  | bayReadTimeout (id : Nat)
  | bayMsg (k : Die)
  -- the Keystone command set
  | nopCommand (m : Mbx)
  | identify (m : Mbx)
  | bind (m : Mbx)
  | eventRing (m : Mbx)
  | aperture (m : Mbx)
  | resetCommand (m : Mbx)
  | cfgStage (m : Mbx)
  | cfgCommit (m : Mbx)
  | cfgDiscard (m : Mbx)
  | mapRange (m : Mbx)
  | map (m : Mbx)
  | unmap (m : Mbx)
  | translate (m : Mbx)
  | winOpen (m : Mbx)
  | winRearm (m : Mbx)
  | winClose (m : Mbx)
  | scrub (m : Mbx) (found : List (BitVec 48 × Ecc))
  | memtest (m : Mbx)
  | hostCopy (m : Mbx)
  | routeStage (m : Mbx)
  | fastStage (m : Mbx)
  | groupSet (m : Mbx)
  | collOpen (m : Mbx)
  | collRearm (m : Mbx)
  | collClose (m : Mbx)
  | linkCtrl (m : Mbx)
  | ctxCreate (m : Mbx)
  | ctxTeardown (m : Mbx)
  | piers (m : Mbx)
  | replace (m : Mbx)
  | tasks (m : Mbx)
  | step (m : Mbx)
  | seal (m : Mbx)
  | shardTable (m : Mbx)
  | serveShard (m : Mbx)
  | landing (m : Mbx)
  | reshard (m : Mbx)
  /-- flash: it erases and programs (R519, R535) -/
  | updManifest (m : Mbx) (flash : Bool)
  | updPiece (m : Mbx) (flash : Bool)
  | updActivate (m : Mbx)
  | processorSwitch
  | drainRequest (p : Pier)
  | recoveryLoad (m : Mbx) (flash : Bool)
  | recoveryWarmReset
  | attest (m : Mbx)
  | serveOpen (m : Mbx)
  | lane (m : Mbx)
  | admitStream (m : Mbx)
  | ring (m : Mbx)
  | cancel (m : Mbx)
  | adapterLoad (m : Mbx)
  | adapterRetire (m : Mbx)
  | weightSwap (m : Mbx)
  | membership (m : Mbx)
  | inspect (m : Mbx)
  | ltEnable (m : Mbx)
  | selftest (m : Mbx) (mismatches : List (Pier × BitVec 5)) (failures : List Pier)
  | ltExpiry
  | emulatedSag (p : Pier)
  -- faults, resets, bring-up, power
  | heartbeatSample (p : Pier)
  | pierReset (p : Pier)
  | generationHoldoffExpiry
  | fenceTimeout
  | keystoneReset
  | keystoneRestart
  | warmReset (cause : WarmCause)
  | powerOn (strap : BitVec 2)
  | powerLoss
  | inputUndervoltage (tenthVolts : BitVec 16)
  | overvoltage
  | keystoneImageAccept (puf : Bool) (slotA slotB : SlotCheck)
  | engineStart (componentFails : Bool)
  | settingsLoad (copyA copyB : StoreCopy)
  | stackBringup (n : Stk) (untrained : BitVec 32)
  | pierBringup (p : Pier)
  | perstDeassert (speed : BitVec 3) (width : BitVec 5) (flit : Bool)
  | hostPortReset (cause : PortCause)
  | droopSense (p : Pier)
  | droopSecondStep (p : Pier)
  | droopRecovery (p : Pier)
  | powerCapStep (watts : BitVec 16) (tenthVolts : BitVec 16)
  | pierPowerTransition (p : Pier)
  | thermalTrip (x : Sensor) (reading : BitVec 16)
  | lidOverMaximum (q : Fin 4) (temp : BitVec 16)
  | tripCooldownReset
  | neighbourSuspect (n : BitVec 13)
  | suspectRepeat (n : BitVec 13)
  | trussMessage (k : Die)
  | recordRequest (k : Die)
  | recordReply (k : Die)
  | membershipInstall
  | scoreCompute
  | scoreDecay
  | probationReport
  | probationSelftest (samples : Nat) (mismatches : List (BitVec 5)) (failures : Nat)
  | dieTemperatureExcursion (p : Pier) (temp : BitVec 16)
  | sensorThresholdCrossing (id : BitVec 6)
  | pldmEventRead
  | tapInstruction (insn : TapInsn)
  | hostMemoryAccessDone (m : BitVec 16) (data : Option (List Byte))
  | settingsCopyWritten
  | memtestComplete (m : Mbx) (failing : List (Stk × Nat))
  | undervoltageExcursionEnd (tenthVolts : BitVec 16)
deriving DecidableEq, Repr

end Sys2Proof
end

