-- ==== Sys2Proof/Machine/Bits.lean ====
section
/-! DEFINITION. Bit fields, sign extension, byte order and lists of bytes: the helpers every other operation uses. -/
namespace Sys2Proof.Machine
open Sys2Proof

/-- Bits [lo + n - 1 : lo] of a number (R2). -/
def fld (w lo n : Nat) : Nat := w / 2 ^ lo % 2 ^ n

/-- One bit of a number. -/
def bit (w i : Nat) : Bool := w / 2 ^ i % 2 == 1

/-- 1 for true. -/
def b2n (b : Bool) : Nat := if b then 1 else 0

/-- A number of n bits read as two's complement. -/
def sext (w n : Nat) : Int := if w % 2 ^ n < 2 ^ (n - 1) then (w % 2 ^ n : Nat) else (w % 2 ^ n : Nat) - (2 ^ n : Nat)

/-- An integer as the n-bit two's-complement number. -/
def wrap (i : Int) (n : Nat) : Nat := (i % (2 ^ n : Nat)).toNat

/-- A number with the n bits from lo replaced. -/
def setFld (w lo n v : Nat) : Nat := w - fld w lo n * 2 ^ lo + v % 2 ^ n * 2 ^ lo

/-- The number of bits of a magnitude: 0 for 0. -/
def bitLen (n : Nat) : Nat := if n = 0 then 0 else Nat.log2 n + 1

/-- The little-endian value of a byte string (R3). -/
def ofBytes : List Byte → Nat
  | [] => 0
  | b :: r => b.toNat + 256 * ofBytes r

/-- The n little-endian bytes of a value (R3). -/
def toBytes (v : Nat) : Nat → List Byte
  | 0 => []
  | n + 1 => BitVec.ofNat 8 v :: toBytes (v / 256) n

/-- n bytes from offset o, zero past the end. -/
def sliceBytes (l : List Byte) (o n : Nat) : List Byte :=
  let t := (l.drop o).take n
  t ++ List.replicate (n - t.length) 0

/-- The little-endian number in n bytes at offset o of a structure. -/
def leAt (l : List Byte) (o n : Nat) : Nat := ofBytes ((l.drop o).take n)

/-- Replace the bytes from offset o. -/
def spliceBytes (l : List Byte) (o : Nat) (v : List Byte) : List Byte :=
  l.take o ++ v ++ l.drop (o + v.length)

/-- A list cut into pieces of n elements; fuel bounds the number of pieces. -/
def pieces {α : Type} (n : Nat) : Nat → List α → List (List α)
  | 0, _ => []
  | _, [] => []
  | k + 1, l => l.take n :: pieces n k (l.drop n)

/-- The elements of w bits packed in a byte string, the first at the least significant bits (R76). -/
def unpack (w : Nat) (l : List Byte) : List Nat :=
  let v := ofBytes l
  (List.range (l.length * 8 / w)).map fun i => fld v (w * i) w

/-- Pack elements of w bits into bytes, the last byte filled with zeros (R76). -/
def packNat (w : Nat) : List Nat → Nat
  | [] => 0
  | x :: r => x % 2 ^ w + 2 ^ w * packNat w r

/-- Pack elements of w bits into bytes (R76). -/
def pack (w : Nat) (l : List Nat) : List Byte := toBytes (packNat w l) ((w * l.length + 7) / 8)

/-- The exclusive or of two byte strings, as long as the first. -/
def xorBytes : List Byte → List Byte → List Byte
  | [], _ => []
  | l, [] => l
  | a :: r, b :: t => (a ^^^ b) :: xorBytes r t

/-- Division rounding up. -/
def cdiv (a b : Nat) : Nat := (a + b - 1) / b

/-- A number rounded up to a multiple of n. -/
def roundUp (a n : Nat) : Nat := cdiv a n * n

/-- A sum held in 32 bits that saturates (R96, R72). -/
def sat32 (a : Nat) : Nat := min a 0xFFFFFFFF

/-- The index of the lowest set bit below n, if any. -/
def lowBit (w : Nat) : Nat → Option Nat
  | 0 => none
  | n + 1 => match lowBit w n with
    | some i => some i
    | none => if bit w n then some n else none

/-- The positions of the set bits below n, rising. -/
def setBits (w n : Nat) : List Nat := (List.range n).filter fun i => bit w i

/-- The number of set bits below n. -/
def popCount (w n : Nat) : Nat := (setBits w n).length

/-- One bit of a reflected CRC with polynomial poly. -/
def crcBit (poly c : Nat) : Nat := if c % 2 = 1 then (c / 2) ^^^ poly else c / 2

/-- Eight bits of a reflected CRC. -/
def crcByte (poly c : Nat) : Nat :=
  crcBit poly (crcBit poly (crcBit poly (crcBit poly (crcBit poly (crcBit poly (crcBit poly (crcBit poly c)))))))

/-- A reflected CRC-32 of a byte string from the running value c. -/
def crcRun (poly : Nat) : Nat → List Byte → Nat
  | c, [] => c
  | c, b :: r => crcRun poly (crcByte poly (c ^^^ b.toNat)) r

end Sys2Proof.Machine
end

