-- ==== Sys2Proof/Machine/Fp.lean ====
section
/-! DEFINITION. The value of a floating-point element (R74, R75): a NaN, an infinity, or a signed dyadic number held
exactly. -/
namespace Sys2Proof.Machine

/-- A value read from a floating-point element, or formed exactly from such values (R74, R79). -/
inductive Fp where
  /-- any NaN: its sign and payload are not carried (R75) -/
  | nan
  /-- an infinity, negative when neg -/
  | inf (neg : Bool)
  /-- (-1)^neg * m * 2^e; a zero (m = 0) keeps its sign -/
  | fin (neg : Bool) (m : Nat) (e : Int)
deriving DecidableEq, Repr

end Sys2Proof.Machine
end

