-- ==== Sys2Proof/Machine/Tab.lean ====
section
/-! DEFINITION. A finite table from numbers to values with a default: how the module's register files, queues by
number and sparse tables are held as plain data. -/
namespace Sys2Proof.Machine

/-- A table: key and value pairs in rising order of the key. -/
abbrev Tab (α : Type) := List (Nat × α)

/-- The value at a key; the default d where the table lists none. -/
def Tab.get {α : Type} (d : α) : Tab α → Nat → α
  | [], _ => d
  | (k, v) :: r, i => if i = k then v else Tab.get d r i

/-- The value at a key, if the table lists one. -/
def Tab.find {α : Type} : Tab α → Nat → Option α
  | [], _ => none
  | (k, v) :: r, i => if i = k then some v else Tab.find r i

/-- Set the value at a key. -/
def Tab.put {α : Type} : Tab α → Nat → α → Tab α
  | [], i, x => [(i, x)]
  | (k, v) :: r, i, x =>
    if i = k then (k, x) :: r
    else if i < k then (i, x) :: (k, v) :: r
    else (k, v) :: Tab.put r i x

/-- Remove a key. -/
def Tab.del {α : Type} : Tab α → Nat → Tab α
  | [], _ => []
  | (k, v) :: r, i => if i = k then Tab.del r i else (k, v) :: Tab.del r i

/-- Change the value at a key. -/
def Tab.upd {α : Type} (d : α) (t : Tab α) (i : Nat) (f : α → α) : Tab α :=
  t.put i (f (t.get d i))

/-- Set a run of consecutive keys. -/
def Tab.putList {α : Type} : Tab α → Nat → List α → Tab α
  | t, _, [] => t
  | t, i, x :: r => Tab.putList (t.put i x) (i + 1) r

end Sys2Proof.Machine
end

