-- ==== Sys2Proof/Machine/State.lean ====
section
/-! DEFINITION. Everything the spec gives the module, as plain data, with its reset value; and the two closed lists
of reasons a step can stop. Numbers the spec only counts or compares are Nat; registers are 32-bit words. -/
namespace Sys2Proof.Machine
open Sys2Proof

/-! ## The pier sequencer and its units (chapters 02, 04, 05) -/

/-- PSQ_STATUS.STATE (R163). -/
inductive SeqState where
  | idle | running | halting | halted | faulting | faulted
deriving DecidableEq, Repr

/-- A submitted task (R114, R115); ser numbers submissions of the pier, the model's own name for a task. -/
structure Task where
  ser : Nat
  id : Nat
  start : Nat
  len : Nat
deriving DecidableEq, Repr

/-- A loop that runs: its body's first and last word and the passes still to make (R140). -/
structure LoopFrame where
  first : Nat
  last : Nat
  left : Nat
deriving DecidableEq, Repr

/-- The task now dispatching: the next word's offset and the running loops, innermost first (R116, R140, R164). -/
structure RunTask where
  task : Task
  pc : Nat
  loops : List LoopFrame
deriving DecidableEq, Repr

/-- A started task that has not been reported: instructions dispatched and not completed, and its END (R116). -/
structure StartedTask where
  ser : Nat
  id : Nat
  left : Nat
  ended : Bool
  endCode : Nat
  status : Option Nat
  /-- the stamp taken when it completed (R116) -/
  stamp : Option Nat
deriving DecidableEq, Repr

/-- A task report to the keystone (R116). -/
structure TaskReport where
  ser : Nat
  id : Nat
  status : Nat
  endCode : Nat
  stamp : Nat
deriving DecidableEq, Repr

/-- An instruction in a queue with everything captured at its dispatch (R121, R126, R128, R148). -/
structure Entry where
  ser : Nat
  word : Nat
  w0 : IWord
  w1 : IWord
  /-- the base registers' address operands, resolved, in the instruction's own order -/
  addrs : List Nat
  /-- B[VREG] of a GATHER, or the drain INDEX_BASE of a PASS -/
  aux : Nat
  desc : BitVec 256
  layer : Nat
  sampled : Bool
  sampleRow : Nat
  signature : Nat
  /-- PSQ_GAUGE_THR.T, the array clock in MHz and the droop slowing at the selection of a sampled pass (R228, R460) -/
  gaugeT : Nat
  mhz : Nat
  droop : Nat
  /-- the model's number of a pass among the passes of its array -/
  no : Nat
  /-- a tile in the far tier: the number of its READ while it is outstanding (R362) -/
  farAsked : Option Nat
deriving DecidableEq, Repr

/-- What a drain-out reports (R63, R96, R97). -/
structure ConvReport where
  sat : Nat
  ftz : Nat
  rmax : BitVec 32
  overflow : Bool
  nanSeen : Bool
deriving DecidableEq, Repr

/-- Where an admitted pass stands (R44, R63, R144, R150): its rows enter; its last row has entered; it is drain-complete
and a repeat is due; the repeat is in the array; it has retired. -/
inductive PassPhase where
  | entering
  | ended
  | repeatDue
  | repeating
  | retired
deriving DecidableEq, Repr

/-- A pass in its array (R45, R63). -/
structure PassRun where
  entry : Entry
  phase : PassPhase
  /-- array cycles, frozen ones left out, since row 0 was admitted, or since a repeat began (R43) -/
  age : Nat
  /-- rows that have entered, or that a drain-only repeat has read -/
  entered : Nat
  /-- rows in the core and the drain pipeline, oldest first: the bytes of each with its scale line -/
  flight : List (List (List Byte))
  /-- rows that have left the drain pipeline, and the bias read before the first of them (R61) -/
  out : Nat
  bias : Option (List Nat)
  /-- the pass is abandoned: no further row enters and its drain writes are suppressed (R158) -/
  dead : Bool
  /-- stamp of the pass-start marker (R44) -/
  start : Nat
  /-- overflow repeats made (R150) -/
  attempts : Nat
  report : ConvReport
  /-- tasks of the control instructions that have executed behind this pass and complete after it (R144) -/
  behind : List Nat
deriving DecidableEq, Repr

/-- A MARK of KIND 1 that waits for the next pass-start marker (R138). -/
structure MarkRec where
  id : Nat
  code : Nat
  detail : Nat
  qsel : Nat
deriving DecidableEq, Repr

/-- A tile row of pass `no`, with the scale line that is read with it: its own where the scales run along n, that of its
block where it opens one (R47, R85, R124). -/
structure TileRow where
  no : Nat
  k : Nat
  row : List Byte
  scale : List Byte
deriving DecidableEq, Repr

/-- A row in the input joint (its bytes and its scale line), in the side joint (its bytes) or in the drain joint: the
pass it belongs to and its number (R51). -/
structure JointRow where
  no : Nat
  m : Nat
  runs : List (List Byte)
deriving DecidableEq, Repr

/-- How far the feeders are with a pass: the next tile row, streamed row and side row to read. -/
structure Feed where
  tile : Nat
  strm : Nat
  side : Nat
deriving DecidableEq, Repr

/-- One matrix array (chapter 02). acc holds the 32-bit words of the accumulator store by row * 256 + column (R41). -/
structure Array8 where
  passes : List PassRun
  acc : Tab (BitVec 32)
  /-- the four joints, each first in first out (R51) -/
  weightJoint : List TileRow
  inputJoint : List JointRow
  sideJoint : List JointRow
  drainJoint : List JointRow
  /-- the feeders' progress, by pass -/
  feeds : Tab Feed
  /-- tile rows that the launch bus has written into column 0, by pass: the shadow registers of a cell hold those of the
  next front to reach it, the active registers those of the last front that has (R46, R47) -/
  tiles : Tab (List TileRow)
  /-- how long the launch bus stays busy, in 1/8 array cycle from the end of the last cycle; 8 when it is ready (R47) -/
  busBusy : Nat
  /-- the last array cycle was frozen (R52, R69) -/
  frozen : Bool
  /-- passes dispatched to the array -/
  nextNo : Nat
  zeroing : Bool
  marks : List MarkRec
  /-- task serial and stamp of the last pass-end marker (R138) -/
  lastEnd : Option (Nat × Nat)
  /-- task serial of the last admitted pass -/
  lastSer : Option Nat
deriving DecidableEq, Repr

/-- The gauge buffer's sample (R155): the buffer is taken at the admission of pass `no`, and full once the pass sums of
the sampled row have left the columns. It holds those sums and the products behind them. -/
structure GaugeSample where
  no : Nat
  full : Bool
  tag : Nat
  array : Nat
  cls : Nat
  layer : Nat
  integer : Bool
  sums : List (BitVec 32)
  products : List (List Fp)
  signature : Nat
  thr : Nat
  mhz : Nat
  droop : Nat
deriving DecidableEq, Repr

/-- A refused chunk of a REDUCE that its engine repeats (R275, R333). -/
structure PendingChunk where
  req : ChunkReq
  remote : Option (Nat × Nat)
  coll : Option Nat
deriving DecidableEq, Repr

/-- A run of source or index bytes that a gather or reduce reads before it moves anything (R131, R132, R325). -/
structure FetchPiece where
  idx : Bool
  off : Nat
  len : Nat
  txid : Option Nat
  data : Option (List Byte)
deriving DecidableEq, Repr

/-- A packet: the header of R306, the type-specific bytes of R308 and the payload. -/
structure Packet where
  type : Nat
  vc : Nat
  hops : Nat
  dst : Nat
  src : Nat
  tag : Nat
  stag : Nat
  addr : Nat
  len : Nat
  txid : Nat
  epoch : Nat
  status : Nat
  spec : List Byte
  flow : Nat
  payload : List Byte
deriving DecidableEq, Repr

/-- A READ into an engine's reply port that waits until the port has room (R325). -/
structure PortRead where
  packet : Packet
  /-- where its data go on to, if not to a list or source that the engine keeps -/
  relay : Option (Nat × Nat × Nat)
  off : Nat
  /-- the piece of an index list or of a source that it reads -/
  fetch : Option Bool
deriving DecidableEq, Repr

/-- The keystone fetches a corrupt row's block again: the source to try next, the copies that did not pass, the READ
that it waits for, and whether holders that are no members are skipped (R357, R359). -/
structure Refetch where
  next : Nat
  got : List (List Byte)
  waiting : Option Nat
  expelled : Bool
deriving DecidableEq, Repr

/-- A transfer, gather or reduce that has started in an engine (R113, R130 to R133). -/
structure Transfer where
  id : Nat
  entry : Entry
  tag : Nat
  fetch : List FetchPiece
  /-- every byte it reads first has come, and it moves rows or chunks -/
  begun : Bool
  /-- far requests not yet answered -/
  waiting : List Nat
  /-- reads that wait for the reply port -/
  todo : List PortRead
  /-- a source atom of a contribution to a collective could not be read: its context-virtual and local address (R337) -/
  unread : Option (Nat × Nat)
  /-- chunks refused and to be repeated -/
  refused : List PendingChunk
  /-- GATHER with VCHK: the row now moving, its bytes by offset, and its block's second fetch (R352, R357) -/
  nextRow : Nat
  row : Tab (List Byte)
  refetch : Option Refetch
  fault : Option Nat
  /-- tasks of the control instructions that have executed behind this transfer and complete after it (R144) -/
  behind : List Nat
deriving DecidableEq, Repr

/-- What holds the front end: a TWAIT in FE, or an LDD whose bytes have not arrived (R135, R142). -/
inductive FeHold where
  | twait (tc : Nat) (value : Nat) (word : Nat)
  | ldd (first : Nat) (count : Nat) (addr : Nat) (word : Nat)
deriving DecidableEq, Repr

/-- The one fault a sequencer keeps while FAULTING, for step 5 of R158. -/
structure SeqFault where
  ser : Nat
  id : Nat
  code : Nat
  qsel : Nat
  word : Nat
  detail : List Byte
  /-- error bits of units set with the error record (R70): register offset and bit -/
  bits : List (Nat × Nat)
deriving DecidableEq, Repr

/-- One pier: sequencer, arrays, vector engine, transfer engines (R14). -/
structure PierState where
  tag : Nat
  /-- the context whose placement holds the pier (R15, R378); a released pier keeps its tag -/
  serves : Option Nat
  seq : SeqState
  nextSer : Nat
  taskQueue : List Task
  run : Option RunTask
  /-- the fetch buffer: words of the dispatching block by offset, newest first (R117) -/
  fetchBuf : List (Nat × Nat)
  /-- the compute die's translation cache: the table entries it holds, newest first (R259) -/
  cache : List Nat
  started : List StartedTask
  fault : Option SeqFault
  /-- completed-before-fault reports in order, newest last -/
  reports : List TaskReport
  bases : Tab Nat
  xc : Tab Nat
  layer : Nat
  descs : Tab (Option (BitVec 256))
  hold : Option FeHold
  queues : Tab (List Entry)
  tcs : Tab Nat
  arrays : Tab Array8
  /-- eligible passes counted toward the next gauge selection (R154) -/
  gaugeCount : Nat
  gaugeBuf : Option GaugeSample
  gaugeSkippedHeld : Bool
  /-- 64-bit words of V0 to V31: register * 1024 + word (R170) -/
  vregs : Tab (BitVec 64)
  vecZeroing : Bool
  /-- the time until which a vector instruction is in flight (R196, R199) -/
  vecBusy : Nat
  transfers : Tab (List Transfer)
  /-- heartbeat: last PSQ_PROGRESS sample, ms waiting and ms stuck (R474) -/
  lastProgress : Nat
  waitMs : Nat
  stuckMs : Nat
  /-- Ready Map bit n, and staging SRAM zeroed by bring-up (R453, R454) -/
  ready : Bool
  /-- present power state as R466 has taken it: 0 ACTIVE, 1 RETAIN, 2 OFF -/
  power : Nat
  arrOn : Nat
  vecOn : Bool
deriving DecidableEq, Repr

def ConvReport.reset : ConvReport :=
  { sat := 0, ftz := 0, rmax := 0, overflow := false, nanSeen := false }

def Array8.reset : Array8 :=
  { passes := [], acc := [], weightJoint := [], inputJoint := [], sideJoint := [], drainJoint := [], feeds := [],
    tiles := [], busBusy := 8, frozen := false, nextNo := 0, zeroing := false, marks := [], lastEnd := none,
    lastSer := none }

def PierState.reset : PierState :=
  { tag := 0, serves := none, seq := .idle, nextSer := 0, taskQueue := [], run := none, fetchBuf := [],
    cache := [], started := [], fault := none,
    reports := [], bases := [], xc := [], layer := 0, descs := [], hold := none, queues := [], tcs := [], arrays := [],
    gaugeCount := 0, gaugeBuf := none, gaugeSkippedHeld := false, vregs := [], vecZeroing := false, vecBusy := 0,
    transfers := [],
    lastProgress := 0, waitMs := 0, stuckMs := 0, ready := false, power := 2, arrOn := 0, vecOn := false }

/-! ## Stacks and reduction windows (chapter 07) -/

/-- DMC_WINn.STATE (R291). -/
inductive WinState where
  | closed | opn | finishing | abandoned
deriving DecidableEq, Repr

/-- A reduction window with the fields of its descriptor and its progress (R272, R275 to R278). -/
structure Window where
  state : WinState
  tag : Nat
  sfmt : Nat
  dfmt : Nat
  init : Bool
  indexed : Bool
  event : Bool
  doneEn : Bool
  conv : Nat
  dst : Nat
  sum : Nat
  park : Nat
  len : Nat
  parkLen : Nat
  n : Nat
  round : Nat
  epoch : Nat
  donePier : Nat
  doneTc : Nat
  doneInc : Int
  /-- dense: next rank of each segment -/
  nextRank : Tab Nat
  /-- indexed: the next rank and its next segment -/
  rank : Nat
  seg : Nat
  /-- parked chunks; the mark says that a chunk lies in PARK, else in the park buffer (R275) -/
  parked : List (Bool × ChunkReq)
  /-- contributions' chunks added in this round -/
  added : Nat
  /-- local address of the first DST atom (R274) -/
  dstLa : Nat
  /-- the local pages of DST, SUM and PARK as translated at the open (R273) -/
  dstPages : List Nat
  sumPages : List Nat
  parkPages : List Nat
  /-- error recorded against the round: lowest failing rank and cause (R275, R282) -/
  err : Option (Nat × Nat)
  /-- a WIN_CLOSE waits in this mailbox for the FINISHING round (R437) -/
  closing : Option Nat
deriving DecidableEq, Repr

def Window.reset : Window :=
  { state := .closed, tag := 0, sfmt := 0, dfmt := 0, init := false, indexed := false, event := false, doneEn := false,
    conv := 0, dst := 0, sum := 0, park := 0, len := 0, parkLen := 0, n := 0, round := 0, epoch := 0, donePier := 0,
    doneTc := 0, doneInc := 0, nextRank := [], rank := 0, seg := 0, parked := [], added := 0, dstLa := 0,
    dstPages := [], sumPages := [], parkPages := [], err := none,
    closing := none }

/-- One stack and its base die. -/
structure StackState where
  /-- trained and zeroed: in service unless out of service (R453 step 5, R454) -/
  up : Bool
  oos : Bool
  /-- a second channel has failed (R286) -/
  dead : Bool
  windows : Tab Window
  /-- times of uncorrectable atoms within the last 1 s, by channel (R284) -/
  recentUe : List (Nat × Nat)
  /-- merged corrected-error event: per page, time of the last event and corrections held back (R282) -/
  ceEvents : Tab (Nat × Nat)
  /-- DMC_FENCE: a fence written and QUIET (R266); a tag is fenced until another write -/
  fenced : Option Nat
  quiet : Bool
  retain : Bool
  /-- the channel mapped out (R284, R285) -/
  mapped : Option Nat
  /-- a pier reset runs: the base die refuses requests (R279) -/
  resetting : Bool
  /-- entries of the repair list that post-package repair applied at the last bring-up (R247) -/
  repaired : List Nat
deriving DecidableEq, Repr

def StackState.reset : StackState :=
  { up := false, oos := false, dead := false, windows := [], recentUe := [], ceEvents := [], fenced := none,
    quiet := true, retain := false, mapped := none, resetting := false, repaired := [] }

/-- What a base die answers to a request (R254, R262, R275). -/
inductive ReplyKind where
  | data (d : List Byte)
  | acked
  | stale
  | refusedChunk
  | accepted
  | fault (code : Nat)
deriving DecidableEq, Repr

structure Reply where
  addr : Nat
  tag : Nat
  kind : ReplyKind
deriving DecidableEq, Repr

/-! ## Links, switch, collectives (chapter 08) -/

/-- A sequenced flit in a link's transmit queue or replay buffer; its packet's header is kept (R302, R328). -/
structure Flit where
  vc : Nat
  pkt : Packet
  /-- place in its packet: 0 is the header flit -/
  idx : Nat
  /-- RESUME occupies no input-buffer entry (R300) -/
  resume : Bool
  /-- the input that the switch takes it from: a link, or 24 for the module's units (R316) -/
  input : Nat
  /-- its VC on that link -/
  inVc : Nat
  /-- an entry of that link's input buffer still holds it (R300) -/
  held : Bool
deriving DecidableEq, Repr

/-- ZL_STATUS.STATE (R346). -/
inductive LinkPhase where
  | down | training | up | failed
deriving DecidableEq, Repr

/-- One link (R296 to R305, R311). -/
structure LinkState where
  phase : LinkPhase
  step : Nat
  peerModule : Nat
  peerLink : Nat
  peerValid : Bool
  /-- the ZL_ROLE taken at the last training (R460) -/
  role : Nat
  /-- lanes trained in step 1, and the firmware version that the peer's TRAIN flits gave (R296) -/
  lanes : BitVec 16
  peerFw : Nat
  /-- the role check failed: DOWN until new roles are committed (R297) -/
  roleBad : Bool
  txSeq : Nat
  /-- number of the next sequenced flit to accept, and the number the next one to arrive carries (R299, R301) -/
  rxSeq : Nat
  arriveSeq : Nat
  ackSeq : Nat
  /-- VC of the packet whose flit was sent last (R310) -/
  txVc : Nat
  /-- VCs with a packet in progress (R310) -/
  txOpen : List Nat
  /-- the replay buffer, oldest first (R302) -/
  unacked : List Flit
  /-- a REPLAY is due in the next slot, and the flits still to be sent again after it (R301) -/
  replayDue : Bool
  resend : List Flit
  /-- flits that wait in the switch for this output, and the input granted last (R316) -/
  txq : List Flit
  lastIn : Nat
  /-- credits used and not yet returned, by VC: a sender holds its start value less these (R300, R311) -/
  credUsed : Tab Nat
  /-- credits counted as returned, modulo 2^16, by VC (R303) -/
  credBack : Tab Nat
  /-- occupied entries of the input buffer, by VC -/
  occupied : Tab Nat
  /-- entries freed whose credit is still to be returned -/
  owed : List Nat
  /-- credits returned to the peer, modulo 2^16, by VC (R303) -/
  credSent : Tab Nat
  discard : Bool
  /-- place of the next slot in its codeword pair, and whether the codeword it begins in is uncorrectable (R293, R294) -/
  rxSlot : Nat
  rxBad : Bool
  /-- VC of the packet that data flits received belong to (R310) -/
  rxVc : Nat
  /-- times of recent replays (R305) -/
  replays : List Nat
  /-- bits of the side frame being received, oldest first; one of them came in a bad slot -/
  side : List Bool
  sideBad : Bool
  /-- the side frame being sent: its number since link-up, bits sent, and its 31 bytes (R304) -/
  sideNo : Nat
  sidePos : Nat
  sideOut : List Byte
  /-- TX and receive time of the last TIME frame received (R340) -/
  timeRx : Option (Nat × Nat)
  /-- LINK_CTRL in this mailbox waits for the link (R437) -/
  ctrlMb : Option Nat
deriving DecidableEq, Repr

def LinkState.reset : LinkState :=
  { phase := .down, step := 0, role := 0x20, peerModule := 0, peerLink := 0, peerValid := false, lanes := 0,
    peerFw := 0, roleBad := false, txSeq := 0,
    rxSeq := 0, arriveSeq := 0, ackSeq := 0, txVc := 0, txOpen := [],
    unacked := [], replayDue := false, resend := [], txq := [], lastIn := 0, credUsed := [], credBack := [], occupied := [],
    owed := [], credSent := [],
    discard := false, rxSlot := 0, rxBad := false, rxVc := 0, replays := [], side := [],
    sideBad := false, sideNo := 0, sidePos := 0, sideOut := [], timeRx := none, ctrlMb := none }

/-- Who waits for a far answer (R325, R556). -/
inductive FarUnit where
  | engine (p : Nat) (te : Nat) (id : Nat)
  | feeder (p : Nat) (a : Nat)
  /-- the keystone, which fetches a block again for a stopped gather (R357) -/
  | refetch (p : Nat) (te : Nat) (id : Nat)
  | coll (d : Nat)
  | reshard (k : Nat)
  | hostCopy (m : Nat)
  | bay (id : Nat)
  | keystone
deriving DecidableEq, Repr

/-- A far request outstanding (R325, R327). -/
structure FarReq where
  txid : Nat
  dst : Nat
  tag : Nat
  stag : Nat
  addr : Nat
  raddr : Nat
  len : Nat
  unit : FarUnit
  /-- READ whose data go on to a remote destination (R325): module, tag, address -/
  relay : Option (Nat × Nat × Nat)
  /-- offset of the request's bytes in the row or list it belongs to -/
  off : Nat
  packet : Packet
  issued : Nat
  timeout : Nat
deriving DecidableEq, Repr

/-- A reshard job queued or running (R369, R374, R377). -/
structure ReshardJob where
  addr : Nat
  header : List Byte
  mb : Option Nat
  /-- far writes of the job not yet acknowledged -/
  waiting : List Nat
  rowsDone : Nat
  rowsTotal : Nat
  pieces : Nat
  report : ConvReport
  failed : Option (Nat × Nat)
  /-- pieces with a failed write (R440) -/
  bad : List Nat
deriving DecidableEq, Repr

/-- One abutment die (R14): switch slice, collective and reshard engines. -/
structure DieState where
  inbox : List Packet
  far : List FarReq
  held : List Packet
  fenced : Option Nat
  quiet : Bool
  jobs : List ReshardJob
  running : Option ReshardJob
  switchUp : Bool
  shareUp : Bool
  /-- the collective engine's counts of its conversions (R332) -/
  conv : ConvReport
  /-- keystone messages answered ACK that their owner has still to take (R307) -/
  msgs : List Packet
  /-- counting packets of landing ranges in order: range, LEN, acknowledged (R365) -/
  counts : List (Nat × Nat × Bool)
deriving DecidableEq, Repr

def DieState.reset : DieState :=
  { inbox := [], far := [], held := [], fenced := none, quiet := true, jobs := [], running := none, switchUp := false,
    shareUp := false, conv := ConvReport.reset, msgs := [], counts := [] }

/-- ZL_CE_WINn.STATE (R347). -/
inductive CollState where
  | closed | opn | abandoned
deriving DecidableEq, Repr

/-- A collective descriptor and its round (R330 to R338). -/
structure Collective where
  state : CollState
  group : Nat
  op : Nat
  sfmt : Nat
  dfmt : Nat
  conv : Nat
  all : Bool
  ks : Bool
  event : Bool
  doneEn : Bool
  dst : Nat
  len : Nat
  round : Nat
  owner : Nat
  n : Nat
  rank : Nat
  epoch : Nat
  tag : Nat
  donePier : Nat
  doneTc : Nat
  doneInc : Int
  /-- own contribution by segment, parked until its counterpart is there -/
  mine : Tab (List Byte)
  /-- FOLD: partials received by segment; tree: children's values by child rank -/
  partials : Tab (List Byte)
  /-- combined values already formed, by segment (guards duplicates) -/
  formed : Tab (List Byte)
  /-- result chunks written or delivered -/
  written : Tab (List Byte)
  /-- partials or results sent and not yet accepted, by transaction -/
  sent : List Nat
  /-- packets refused and to be sent again (R333) -/
  refused : List Packet
  /-- a duplicated chunk or an unreadable element: lowest failing rank (R337) -/
  err : Option Nat
  /-- the round is complete at this member and COLLECTIVE_ROUND_COMPLETE is due -/
  complete : Bool
deriving DecidableEq, Repr

def Collective.reset : Collective :=
  { state := .closed, group := 0, op := 0, sfmt := 0, dfmt := 0, conv := 0, all := false, ks := false, event := false,
    doneEn := false, dst := 0, len := 0, round := 0, owner := 0, n := 0, rank := 0, epoch := 0, tag := 0, donePier := 0,
    doneTc := 0, doneInc := 0, mine := [], partials := [], formed := [], written := [], sent := [], refused := [],
    err := none, complete := false }

/-- TS_STATUS.STATE (R349). -/
inductive TimeState where
  | free | acquiring | locked | holdover
deriving DecidableEq, Repr

/-- The span-time unit (R339 to R344). -/
structure SpanTime where
  count : BitVec 64
  phase : TimeState
  depth : Nat
  /-- the parent now followed: PARENT, or ALT_PARENT after a loss (R343) -/
  parent : Nat
  stepped : Bool
  /-- what the rate correction has left over: parts of 10^9 of the next nanosecond of the count (R341) -/
  frac : Nat
  ppsSeen : Option Nat
  /-- TX of the TIME frames sent within the last 8 µs, by link -/
  sent : List (Nat × Nat)
  /-- θ of the frames of the period now running, in 1/8 ns -/
  thetas : List Int
  /-- consecutive periods within LOCK_THR -/
  good : Nat
  /-- replica errors of the dies: 0 to 15 compute, 16 to 31 base, 32 to 35 abutment (R26) -/
  replica : Tab Int
  /-- last stamp of each source, by SOURCE bits [18:0] (R28) -/
  stamps : Tab Nat
deriving DecidableEq, Repr

def SpanTime.reset : SpanTime :=
  { count := 0, phase := .free, depth := 0, parent := 31, stepped := false, frac := 0, ppsSeen := none, sent := [],
    thetas := [],
    good := 0, replica := [], stamps := [] }

/-! ## The keystone (chapters 06, 10, 11, 12, 13, 14) -/

/-- An event ring or the module log (R437 EVENT_RING, R441, R442). -/
structure EvRing where
  set : Bool
  base : Nat
  size : Nat
  vector : Nat
  thresh : Nat
  prodAddr : Nat
  prod : Nat
  cons : Nat
  lost : Nat
  loss : Bool
  sinceMsg : Nat
deriving DecidableEq, Repr

def EvRing.reset : EvRing :=
  { set := false, base := 0, size := 0, vector := 0xFFFF, thresh := 1, prodAddr := 0, prod := 0, cons := 0, lost := 0,
    loss := false, sinceMsg := 0 }

/-- A record on its way to the keystone (R439). -/
structure EvRec where
  stamp : Nat
  source : Nat
  code : Nat
  error : Bool
  tag : Option Nat
  detail : List Byte
deriving DecidableEq, Repr

/-- States of a context (R426). -/
inductive CtxPhase where
  | free | active | teardown
deriving DecidableEq, Repr

/-- A task-list entry of R209 with its progress (R210 to R214). -/
structure ListEntry where
  pier : Nat
  kind : Nat
  gtc : Nat
  gated : Bool
  gvalue : Nat
  start : Nat
  len : Nat
  taskId : Nat
  layer : Nat
  held : Bool
  /-- serial of the submitted task at its pier -/
  ser : Option Nat
  status : Option TaskReport
deriving DecidableEq, Repr

/-- A TASKS command that waits (R437). -/
structure TaskList where
  mb : Nat
  ctx : Nat
  entries : List ListEntry
deriving DecidableEq, Repr

/-- An open step of a context (R205 to R245). -/
structure StepRun where
  mb : Option Nat
  desc : List Byte
  number : Nat
  twin : Bool
  evalPiers : Nat
  stepPiers : Nat
  openStamp : Nat
  epoch : Nat
  rank : Nat
  main : List ListEntry
  deferred : List ListEntry
  eval : List ListEntry
  taskFault : Bool
  /-- first faulted evaluation task: status and pier -/
  evalFault : Option (Nat × Nat)
  uncorrected : Bool
  sealed : List Nat
  /-- under TWIN, the leaf digests of the sealed shards, by table index (R237) -/
  leaves : Tab (List Byte)
  /-- modules reported late at this vote (R239, R488) -/
  late : List Nat
  /-- the shadow's root digest, once computed and sent (R237) -/
  root : Option (List Byte)
  /-- the VOTE descriptor that took the contribution, and the result it delivered (R238) -/
  contributed : Option Nat
  result : Option (List Byte)
  causes : Nat
  localStamp : Nat
  /-- GAP, FILL and DELAY of each pier in ns of span time (R215) -/
  gap : Tab Nat
  fill : Tab Nat
  delay : Tab Nat
deriving DecidableEq, Repr

/-- A serving step composed and not applied (R391, R400). -/
structure ServeSlot where
  stream : Nat
  gen : Nat
  epoch : Nat
  kind : Nat
  ndraft : Nat
  pos : Nat
  n : Nat
deriving DecidableEq, Repr

structure ServeStep where
  number : Nat
  /-- the serving descriptor at its composition -/
  desc : List Byte
  wgen : Nat
  slots : List ServeSlot
  entries : List ListEntry
deriving DecidableEq, Repr

/-- A serving context (R388 to R418). -/
structure Serve where
  desc : List Byte
  nextDesc : Option (List Byte)
  wgen : Nat
  stepNo : Nat
  steps : List ServeStep
  lanePtr : Nat
  /-- no template for the new placement yet (R418) -/
  blocked : Bool
  /-- the swap that waits: mailbox, released generation -/
  swap : Option (Nat × Nat)
deriving DecidableEq, Repr

/-- Stream states (R394). -/
inductive StreamPhase where
  | free | queued | prefill | decode | ending
deriving DecidableEq, Repr

/-- A stream (R393 to R414). -/
structure Stream where
  phase : StreamPhase
  gen : Nat
  spepoch : Nat
  ring : Option (List Byte)
  prod : Nat
  cons : Nat
  ctx : Nat
  lane : Nat
  req : List Byte
  promptLen : Nat
  maxNew : Nat
  committed : Nat
  emitted : Nat
  fails : Nat
  drafts : List (BitVec 32)
  lastToken : BitVec 32
  lastRode : Nat
  rides : Bool
  order : Nat
  adapter : Option Nat
deriving DecidableEq, Repr

def Stream.reset : Stream :=
  { phase := .free, gen := 0, spepoch := 0, ring := none, prod := 0, cons := 0, ctx := 0, lane := 0,
    req := [], promptLen := 0, maxNew := 0, committed := 0, emitted := 0, fails := 0, drafts := [],
    lastToken := 0, lastRode := 0, rides := false, order := 0, adapter := none }

/-- A toll lane (R392). -/
structure Lane where
  ctx : Option Nat
  weight : Nat
  par : Nat
  deficit : Nat
  queue : List Nat
deriving DecidableEq, Repr

def Lane.reset : Lane := { ctx := none, weight := 0, par := 0, deficit := 0, queue := [] }

/-- An entry of the KV block table (R404). -/
structure KvBlock where
  held : Bool
  committed : Nat
  prov : Nat
  stream : Nat
  gen : Nat
  tag : Nat
  /-- position of the block in its stream -/
  index : Nat
deriving DecidableEq, Repr

def KvBlock.reset : KvBlock :=
  { held := false, committed := 0, prov := 0, stream := 0, gen := 0, tag := 0, index := 0 }

/-- An adapter slot (R415): state 0 FREE, 1 CURRENT, 2 RETIRING. -/
structure Adapter where
  id : Nat
  version : Nat
  tag : Nat
  state : Nat
  refs : Nat
  steps : Nat
  addr : Nat
  bytes : Nat
deriving DecidableEq, Repr

def Adapter.reset : Adapter :=
  { id := 0, version := 0, tag := 0, state := 0, refs := 0, steps := 0, addr := 0, bytes := 0 }

/-- A stream record handed to the landing path: landing module, stream and the 64-byte entry (R413). -/
structure StreamRec where
  landing : Nat
  stream : Nat
  entry : List Byte
deriving DecidableEq, Repr

/-- What a landing module keeps of a stream ring: the last entry written, the records since the last interrupt, and
whether an END record is among them (R411, R413). -/
structure RingTrack where
  last : List Byte
  count : Nat
  fin : Bool
deriving DecidableEq, Repr

/-- One context (R426, R427, R257, R469). -/
structure Context where
  phase : CtxPhase
  /-- CTX_CREATE has made it ACTIVE since reset: CTX_TAG shows its tag (R427) -/
  created : Bool
  gen : Nat
  lastRaise : Option Nat
  raises : Nat
  recorded : Nat
  lbase : Nat
  lcount : Nat
  rbase : Nat
  rcount : Nat
  ring : EvRing
  shardTable : Option (Nat × Nat)
  step : Option StepRun
  /-- STEP commands taken while a step is open (R206) -/
  stepWait : List Nat
  serve : Option Serve
  /-- STEP and root digest last received from the twin counterpart (R237) -/
  twin : Option (Nat × List Byte)
  /-- pages that a teardown still zeroes, and its mailbox (R446 step 5) -/
  unmapping : Option (Nat × List Nat)
deriving DecidableEq, Repr

def Context.reset : Context :=
  { phase := .free, created := false, gen := 0, lastRaise := none, raises := 0, recorded := 0, lbase := 0,
    lcount := 0, rbase := 0,
    rcount := 0, ring := EvRing.reset, shardTable := none, step := none, stepWait := [], serve := none,
    twin := none, unmapping := none }

/-- A command copied out of its mailbox (R430, R433). -/
structure Taken where
  opcode : Nat
  flags : Nat
  seq : Nat
  tag : Nat
  args : List Byte
  /-- context of the command: the binding's, or the one its TAG names -/
  ctx : Nat
  privileged : Bool
  /-- host memory read asked at the take: address and length; arrived data -/
  ask : Option (Nat × Nat)
  data : Option (List Byte)
  /-- the command's immediate part is done and it waits for its completion event (R433) -/
  waits : Bool
  /-- what a waiting command still needs: pages, stacks, rows -/
  todo : List Nat
  done : Nat
  total : Nat
deriving DecidableEq, Repr

/-- One mailbox (R428 to R434). -/
structure Mailbox where
  bytes : Tab Byte
  owner : Bool
  cancel : Bool
  bound : Option (Nat × Nat)
  vector : Nat
  taken : Option Taken
deriving DecidableEq, Repr

def Mailbox.reset : Mailbox :=
  { bytes := [], owner := false, cancel := false, bound := none, vector := 0xFFFF, taken := none }

/-- What a fence sequence is for (R447). -/
inductive FenceKind where
  | teardown (mb : Nat)
  | replace (mb : Nat) (mask : Nat)
  | pierReset (p : Nat) (cause : Nat) (mb : Option Nat) (window : Bool)
deriving DecidableEq, Repr

/-- A fence sequence (R379, R446, R478): tasks aborted first, then the wait of 1 ms, then the 20 fences. -/
structure Fence where
  kind : FenceKind
  ctx : Nat
  tag : Nat
  /-- the fences are written and the QUIET bits are awaited -/
  written : Bool
  writtenAt : Nat
deriving DecidableEq, Repr

/-- A journal entry (R208): STATE 1 OPEN, 2 CONTRIBUTED. -/
structure Journal where
  state : Nat
  desc : List Byte
  tag : Nat
  epoch : Nat
  rank : Nat
  openStamp : Nat
deriving DecidableEq, Repr

def Journal.reset : Journal := { state := 0, desc := [], tag := 0, epoch := 0, rank := 0, openStamp := 0 }

/-- One copy of the settings store (R457, R532). -/
structure Store where
  valid : Bool
  seq : Nat
  fmt : Nat
  words : Tab (BitVec 32)
  routes : Tab (BitVec 32)
  fast : Tab (BitVec 64)
deriving DecidableEq, Repr

def Store.reset : Store := { valid := false, seq := 0, fmt := 0, words := [], routes := [], fast := [] }

/-- A commit under way: its mailbox and snapshot (R458). -/
structure Commit where
  mb : Nat
  words : Tab (BitVec 32)
  routes : Tab (BitVec 32)
  fast : Tab (BitVec 64)
deriving DecidableEq, Repr

/-- The Truss record (R496). -/
structure TrussRecord where
  epoch : Nat
  notice : Nat
  thresh : Nat
  budget : Nat
  twin : Bool
  inst : Nat
  members : List Nat
  probation : List Nat
  removals : List Nat
  /-- Score removals counted before those that `removals` lists. -/
  earlier : Nat
  neighbours : Tab (List Nat)
deriving DecidableEq, Repr

def TrussRecord.reset : TrussRecord :=
  { epoch := 0, notice := 0, thresh := 512, budget := 4, twin := false, inst := 0, members := [], probation := [],
    removals := [], earlier := 0, neighbours := [] }

/-- A Truss message or change (R490, R491). -/
structure Change where
  kind : Nat
  origin : Nat
  subject : Nat
  stamp : Nat
  epoch : Nat
  score : Nat
  body : List Byte
deriving DecidableEq, Repr

/-- What a neighbour's heartbeats last said (R486 to R488). -/
structure Neighbour where
  last : Nat
  agent : Nat
  agentSince : Nat
  epoch : Nat
  notice : Nat
  digest : List Byte
  digestBad : Option Nat
  state : Nat
  score : Nat
  suspected : Option Nat
  suspectSince : Nat
  stamp : Nat
deriving DecidableEq, Repr

/-- The Truss agent: state coded as in R486, 0 MEMBER 1 PROBATION 2 JOINING 3 NOT_MEMBER 4 SUSPENDED. -/
structure Truss where
  state : Nat
  record : TrussRecord
  pending : List Change
  suspects : List Change
  seen : List Change
  near : Tab Neighbour
  /-- W of every installed window, newest first (R493, R497) -/
  wins : List Nat
  agent : Nat
  lastLow : Option Nat
  /-- MEMBERSHIP commands that wait: mailbox and the kind of their change -/
  waiting : List (Nat × Nat)
  /-- a BOOTSTRAP that waits: mailbox, record, install stamp -/
  boot : Option (Nat × TrussRecord)
deriving DecidableEq, Repr

def Truss.reset : Truss :=
  { state := 3, record := TrussRecord.reset, pending := [], suspects := [], seen := [], near := [], wins := [],
    agent := 0, lastLow := none, waiting := [], boot := none }

/-- The copy of the inspection record in the settings store (R501, R468). -/
structure SavedInsp where
  score : Nat
  stamp : Nat
  acc : Tab Nat
  raw : Tab Nat
  conds : Tab (Nat × Nat)
  selftestStamp : Nat
  selftestFails : Nat
deriving DecidableEq, Repr

/-- The inspection record (R501, R502, R504). -/
structure Inspection where
  score : Nat
  stamp : Nat
  acc : Tab Nat
  raw : Tab Nat
  conds : Tab (Nat × Nat)
  selftestStamp : Nat
  selftestFails : Nat
  /-- the copy in the settings store (R501, R468) -/
  saved : Option SavedInsp
deriving DecidableEq, Repr

def Inspection.reset : Inspection :=
  { score := 1023, stamp := 0, acc := [], raw := [], conds := [], selftestStamp := 0, selftestFails := 0,
    saved := none }

/-- An image slot of one configuration flash (R516 to R522). -/
structure ImageSlot where
  manifest : List Byte
  wrap : List Byte
  /-- pieces received: INDEX and delivered bytes; a piece whose bit is 1 is absent -/
  pieces : Tab (List Byte)
  tags : List (List Byte)
  plain : Bool
  refused : Bool
  counter : Nat
  key : List Byte
deriving DecidableEq, Repr

def ImageSlot.reset : ImageSlot :=
  { manifest := [], wrap := [], pieces := [], tags := [], plain := false, refused := false, counter := 0, key := [] }

/-- Firmware update and identity state (R512 to R531). -/
structure Firmware where
  slotA : ImageSlot
  slotB : ImageSlot
  activeB : Bool
  bootedB : Bool
  /-- running versions by KIND: base die, sequencer, link, keystone -/
  versions : Tab Nat
  /-- a live activation: its mailbox and the next of the 37 processors in the order of R526 -/
  activation : Option (Nat × Nat)
  recoveryAt : Option Nat
  byRecovery : Bool
  puf : Bool
  setFmt : Nat
  secEpoch : Nat
deriving DecidableEq, Repr

def Firmware.reset : Firmware :=
  { slotA := ImageSlot.reset, slotB := ImageSlot.reset, activeB := false, bootedB := false, versions := [],
    activation := none, recoveryAt := none, byRecovery := false, puf := false, setFmt := 0, secEpoch := 0 }

/-- KS_STATUS.STATE (R451). -/
inductive KsPhase where
  | boot | held | running | recovery
deriving DecidableEq, Repr

/-- The keystone and what it holds. -/
structure Keystone where
  phase : KsPhase
  /-- highest finished step of R453, 0 before power-on -/
  bringup : Nat
  ctxs : Tab Context
  log : EvRing
  records : List EvRec
  mbs : Tab Mailbox
  flips : List Nat
  fence : Option Fence
  fences : List Fence
  fenceDead : Bool
  journal : Tab Journal
  lists : List TaskList
  groups : Tab (List Nat)
  staged : Tab (BitVec 32)
  stagedRoutes : Tab (BitVec 32)
  stagedFast : Tab (BitVec 64)
  commit : Option Commit
  /-- piers whose committed power has changed and whose transition is not complete (R466) -/
  powerDue : List Nat
  storeA : Store
  storeB : Store
  /-- an older format was found: nothing is written to the store before the first CFG_COMMIT (R532) -/
  storeLocked : Bool
  /-- failed channels recorded in the settings store, by stack (R284) -/
  failedChannels : Tab Nat
  /-- the settings store's repair list: by stack, its entries, whose format the spec does not give (R247; log entry 133)
  -/
  repairs : Tab (List Nat)
  lanes : Tab Lane
  streams : Tab Stream
  kv : Tab KvBlock
  adapters : Tab Adapter
  recs : List StreamRec
  /-- landing module: what it keeps of each stream ring (R411) -/
  recSince : List RingTrack
  /-- record messages answered NACK 0x0709, to be sent again: die and packet (R413) -/
  heldMsgs : List (Nat × Packet)
  /-- streams started so far, which gives the order of start (R397) -/
  starts : Nat
  truss : Truss
  insp : Inspection
  challenge : Option (List Byte)
  /-- MINUTES of the enable in force, and the real time of its start (R507) -/
  ltMinutes : Nat
  ltSince : Nat
  fw : Firmware
  resetMb : Option Nat
  resetting : Bool
  /-- the restarted keystone waits for the tasks it has aborted (R483) -/
  restarting : Bool
  warmWaits : Option WarmCause
  /-- transaction numbers given to far requests (R325) -/
  txid : Nat
deriving DecidableEq, Repr

def Keystone.reset : Keystone :=
  { phase := .boot, bringup := 0, ctxs := [], log := EvRing.reset, records := [], mbs := [], flips := [], fence := none,
    fences := [], fenceDead := false, journal := [], lists := [], groups := [], staged := [],
    stagedRoutes := [], stagedFast := [], commit := none, powerDue := [], storeA := Store.reset,
    storeB := Store.reset, storeLocked := false, failedChannels := [], repairs := [],
    lanes := [], streams := [], kv := [], adapters := [], recs := [], recSince := [], heldMsgs := [], starts := 0,
    truss := Truss.reset,
    insp := Inspection.reset, challenge := none, ltMinutes := 0, ltSince := 0, fw := Firmware.reset, resetMb := none,
    resetting := false, restarting := false, warmWaits := none, txid := 0 }

/-! ## Host port, power, management (chapters 11, 12, 15) -/

/-- An entry of the BAR2 aperture (R448). -/
structure ApertureEntry where
  valid : Bool
  module : Nat
  tag : Nat
  base : Nat
  pages : Nat
deriving DecidableEq, Repr

def ApertureEntry.reset : ApertureEntry := { valid := false, module := 0, tag := 0, base := 0, pages := 0 }

/-- The host port (R444, R445, R448, R470). -/
structure HostPort where
  up : Bool
  aperture : Tab ApertureEntry
  /-- time of each vector's last message -/
  lastMsg : Tab Nat
  held : List Nat
  pendingBits : List Nat
  bayReads : List Nat
  nextBay : Nat
  /-- high halves latched by a read of a low half (R72) -/
  snapshots : Tab (BitVec 32)
deriving DecidableEq, Repr

def HostPort.reset : HostPort :=
  { up := false, aperture := [], lastMsg := [], held := [], pendingBits := [], bayReads := [],
    nextBay := 0, snapshots := [] }

/-- Supply, clocks, temperatures and management signals (R17, R463, R464, R539 to R549). -/
structure Physical where
  input : Bool
  /-- real time of the last power-on or warm reset, t0 of R453 -/
  t0 : Nat
  capStep : Nat
  belowCap : Nat
  overMs : Nat
  capAlarmed : Bool
  droop : Tab Nat
  undervolt : Option Nat
  lidHot : Tab Bool
  dieHot : Tab Bool
  temps : Tab (BitVec 16)
  mgAlert : Bool
  pldm : List Nat
  thermtrip : Bool
  tap : Option TapInsn
  strap : BitVec 2
deriving DecidableEq, Repr

def Physical.reset : Physical :=
  { input := false, t0 := 0, capStep := 0, belowCap := 0, overMs := 0, capAlarmed := false, droop := [],
    undervolt := none, lidHot := [], dieHot := [], temps := [], mgAlert := false, pldm := [], thermtrip := false,
    tap := none, strap := 0 }

/-- A tally increment in the package network (R22, R137): the source die as in R26's replicas, and the destination. -/
structure Tally where
  src : Nat
  dst : Nat
  tag : Nat
  tc : Nat
  inc : Int
deriving DecidableEq, Repr

/-- An outward effect of the block, in the order made. -/
inductive Out where
  | packet (link : Nat) (p : Packet)
  | hostWrite (addr : Nat) (data : List Byte)
  | hostRead (mb : Nat) (addr : Nat) (len : Nat)
  /-- a vector's message; the vectors of member b of a bay are 2048 * (b + 1) and on -/
  | msix (vector : Nat)
  | readData (off : Nat) (data : List Byte)
  /-- STEP and root digest for the twin counterpart (R237) -/
  | twinRoot (module number : Nat) (root : List Byte)
  /-- a flit slot: its sideband byte and its body (R298) -/
  | slot (link : Nat) (sideband : Nat) (body : List Byte)
  /-- a TRAIN control flit: what it tells the peer (R296); the spec does not lay its bytes out -/
  | train (link module role firmware : Nat)
  | tdo (code : Nat)
  | bayReply (id : Nat) (data : List Byte)
deriving DecidableEq, Repr

/-- The state of the block. -/
structure State where
  /-- the commands that wait, first in first out -/
  pending : List Instr
  /-- stored registers by BAR0 offset (R422, R424) -/
  regs : Tab (BitVec 32)
  /-- stacks and staging SRAM: bytes by local address, canonical (R249) -/
  mem : List Host.Cell
  /-- atoms whose check bits decode as uncorrectable, by local address / 64 (R282) -/
  badAtoms : List Nat
  /-- page-owner words by local page number (R261) -/
  owners : Tab (BitVec 32)
  /-- the translation table, by entry (R257) -/
  xlate : Tab (BitVec 128)
  piers : Tab PierState
  stks : Tab StackState
  links : Tab LinkState
  dies : Tab DieState
  colls : Tab Collective
  /-- committed route table and fast route tables (256 * link + index), and route entries cleared by Truss -/
  routes : Tab (BitVec 32)
  fast : Tab (BitVec 64)
  left : List Nat
  ts : SpanTime
  ks : Keystone
  hp : HostPort
  phys : Physical
  replies : List Reply
  /-- what the staging SRAM of each pier served lately: time, pier and bytes (R229) -/
  sramLog : List (Nat × Nat × Nat)
  /-- tally increments in the package network, oldest first (R137) -/
  tallies : List Tally
  out : List Out
  /-- real time in ns since reset: the model's own clock (log entry 2) -/
  elapsed : Nat
  /-- free values drawn so far (log entry 3) -/
  freeCtr : Nat
deriving DecidableEq, Repr

/-- The module right after reset: before input power (POWER_ON then runs R453), every register at its reset value,
every queue and table empty. -/
def State.reset : State :=
  { pending := [], regs := [], mem := [], badAtoms := [], owners := [], xlate := [], piers := [], stks := [],
    links := [], dies := [], colls := [], routes := [], fast := [], left := [], ts := SpanTime.reset,
    ks := Keystone.reset, hp := HostPort.reset, phys := Physical.reset, replies := [], sramLog := [],
    tallies := [], out := [], elapsed := 0,
    freeCtr := 0 }

/-! ## Reasons to stop -/

/-- Faults of a step. No meaning of this model raises one: a fault of a task is an effect on the state (R158). -/
inductive Fault where
  /-- nobody raises it; safe -/
  | none
deriving DecidableEq, Repr

/-- Refusals of a step. -/
inductive Refusal where
  /-- raised by exec's arm of a command that has no meaning yet; safe -/
  | notModelled (mnemonic : String)
deriving DecidableEq, Repr

end Sys2Proof.Machine
end

