-- ==== Sys2Proof/Machine/Num.lean ====
section
/-! DEFINITION. Number formats, exact arithmetic on them, the rounding modes and the one conversion C (chapter 03). -/
namespace Sys2Proof.Machine
open Sys2Proof

/-! ## Formats (R73 to R75) -/

/-- A floating-point format: exponent bits, fraction bits, bias, and which special values it encodes. -/
structure FpFmt where
  eb : Nat
  mb : Nat
  bias : Nat
  /-- infinities, and NaNs at the highest exponent -/
  ieee : Bool
  /-- FP8 E4M3: only e = 15, m = 7 is a NaN -/
  oneNan : Bool
deriving DecidableEq, Repr

/-- The floating-point format of a code of R73; codes 0x9 and above name none. -/
def fpFmt : Nat → Option FpFmt
  | 0 => some { eb := 2, mb := 1, bias := 1, ieee := false, oneNan := false }
  | 1 => some { eb := 2, mb := 3, bias := 1, ieee := false, oneNan := false }
  | 2 => some { eb := 3, mb := 2, bias := 3, ieee := false, oneNan := false }
  | 3 => some { eb := 4, mb := 3, bias := 7, ieee := false, oneNan := true }
  | 4 => some { eb := 5, mb := 2, bias := 15, ieee := true, oneNan := false }
  | 5 => some { eb := 8, mb := 7, bias := 127, ieee := true, oneNan := false }
  | 6 => some { eb := 5, mb := 10, bias := 15, ieee := true, oneNan := false }
  | 7 => some { eb := 8, mb := 23, bias := 127, ieee := true, oneNan := false }
  | 8 => some { eb := 11, mb := 52, bias := 1023, ieee := true, oneNan := false }
  | _ => none

/-- FP32. -/
def fp32 : FpFmt := { eb := 8, mb := 23, bias := 127, ieee := true, oneNan := false }
/-- FP64. -/
def fp64 : FpFmt := { eb := 11, mb := 52, bias := 1023, ieee := true, oneNan := false }
/-- FP16, the form of the vector engine's activation tables and of serving values. -/
def fp16 : FpFmt := { eb := 5, mb := 10, bias := 15, ieee := true, oneNan := false }

/-- The width in bits of a format code (R73); 0 for a reserved code. -/
def fmtWidth : Nat → Nat
  | 0 => 4 | 1 => 6 | 2 => 6 | 3 => 8 | 4 => 8 | 5 => 16 | 6 => 16 | 7 => 32 | 8 => 64 | 9 => 4 | 10 => 8 | 11 => 32
  | _ => 0

/-- A format code that R73 defines. -/
def fmtOk (c : Nat) : Bool := c < 12

/-- An integer format (R78). -/
def fmtInt (c : Nat) : Bool := c = 9 || c = 10 || c = 11

/-- The exponent of the last place of a subnormal. -/
def FpFmt.emin (f : FpFmt) : Int := 1 - (f.bias : Int) - (f.mb : Int)

/-- The magnitude code of the largest finite value (R74, R75). -/
def FpFmt.maxCode (f : FpFmt) : Nat :=
  if f.ieee then (2 ^ f.eb - 1) * 2 ^ f.mb - 1
  else if f.oneNan then 2 ^ (f.eb + f.mb) - 2
  else 2 ^ (f.eb + f.mb) - 1

/-- The bits of a sign and a magnitude code. -/
def FpFmt.join (f : FpFmt) (neg : Bool) (code : Nat) : Nat := b2n neg * 2 ^ (f.eb + f.mb) + code

/-- The magnitude code of an infinity; the largest finite value's where the format has none. -/
def FpFmt.infCode (f : FpFmt) : Nat := if f.ieee then (2 ^ f.eb - 1) * 2 ^ f.mb else f.maxCode

/-- The canonical NaN (R75); 0 where the format has no NaN. -/
def FpFmt.nan (f : FpFmt) : Nat :=
  if f.ieee then (2 ^ f.eb - 1) * 2 ^ f.mb + 2 ^ (f.mb - 1)
  else if f.oneNan then 2 ^ (f.eb + f.mb) - 1 else 0

/-- The format encodes a NaN (R75). -/
def FpFmt.hasNan (f : FpFmt) : Bool := f.ieee || f.oneNan

/-- The value of an element's bits (R74, R75). -/
def FpFmt.decode (f : FpFmt) (w : Nat) : Fp :=
  let neg := bit w (f.eb + f.mb)
  let e := fld w f.mb f.eb
  let m := fld w 0 f.mb
  if f.ieee && e = 2 ^ f.eb - 1 then (if m = 0 then .inf neg else .nan)
  else if f.oneNan && e = 2 ^ f.eb - 1 && m = 2 ^ f.mb - 1 then .nan
  else if e = 0 then .fin neg m f.emin
  else .fin neg (2 ^ f.mb + m) (f.emin + ((e : Int) - 1))

/-! ## Exact arithmetic (R79, R80) -/

/-- The sign of a value that is no NaN. -/
def Fp.neg : Fp → Bool
  | .nan => false
  | .inf n => n
  | .fin n _ _ => n

/-- The value with its sign exchanged. -/
def Fp.flip : Fp → Fp
  | .nan => .nan
  | .inf n => .inf (!n)
  | .fin n m e => .fin (!n) m e

/-- The magnitude of a value. -/
def Fp.abs : Fp → Fp
  | .nan => .nan
  | .inf _ => .inf false
  | .fin _ m e => .fin false m e

/-- A NaN. -/
def Fp.isNan : Fp → Bool
  | .nan => true
  | _ => false

/-- An infinity. -/
def Fp.isInf : Fp → Bool
  | .inf _ => true
  | _ => false

/-- A zero of either sign. -/
def Fp.isZero : Fp → Bool
  | .fin _ 0 _ => true
  | _ => false

/-- An exact value as an integer times 2^e. -/
def Fp.signed (neg : Bool) (m : Nat) : Int := if neg then -(m : Int) else (m : Int)

/-- An integer as an exact value; zero is +0. -/
def Fp.ofInt (i : Int) : Fp := .fin (i < 0) i.natAbs 0

/-- The exact product (R79). -/
def Fp.mul (a b : Fp) : Fp :=
  match a, b with
  | .nan, _ => .nan
  | _, .nan => .nan
  | .inf n, .inf k => .inf (n != k)
  | .inf n, .fin k m _ => if m = 0 then .nan else .inf (n != k)
  | .fin n m _, .inf k => if m = 0 then .nan else .inf (n != k)
  | .fin n m e, .fin k p q => .fin (n != k) (m * p) (e + q)

/-- The exact sum with the special cases of R80; an exact zero is -0 when both operands are -0, and when the sum is
rounded by RDN (mode 3). -/
def Fp.add (mode : Nat) (a b : Fp) : Fp :=
  match a, b with
  | .nan, _ => .nan
  | _, .nan => .nan
  | .inf n, .inf k => if n = k then .inf n else .nan
  | .inf n, _ => .inf n
  | _, .inf n => .inf n
  | .fin n m e, .fin k p q =>
    let l := min e q
    let v := Fp.signed n (m * 2 ^ (e - l).toNat) + Fp.signed k (p * 2 ^ (q - l).toNat)
    if v = 0 then .fin ((n && m = 0 && k && p = 0) || mode = 3) 0 0 else .fin (v < 0) v.natAbs l

/-- Compare two finite or infinite values: -1, 0 or 1; zeros of either sign are equal. -/
def Fp.cmp (a b : Fp) : Int :=
  match a, b with
  | .nan, _ => 0
  | _, .nan => 0
  | .inf n, .inf k => if n = k then 0 else if n then -1 else 1
  | .inf n, _ => if n then -1 else 1
  | _, .inf n => if n then 1 else -1
  | .fin n m e, .fin k p q =>
    let l := min e q
    (Fp.signed n (m * 2 ^ (e - l).toNat) - Fp.signed k (p * 2 ^ (q - l).toNat)).sign

/-- The integer square root, bit by bit from bit n - 1. -/
def isqrtFrom (v : Nat) : Nat → Nat → Nat
  | 0, r => r
  | n + 1, r => let t := r + 2 ^ n; if t * t ≤ v then isqrtFrom v n t else isqrtFrom v n r

/-- The largest integer whose square is at most v. -/
def isqrt (v : Nat) : Nat := isqrtFrom v (bitLen v / 2 + 1) 0

/-- A quotient of magnitudes to more than 120 bits, its last bit set when it is inexact, so that it rounds in every
mode as the exact quotient does (R103). -/
def divMag (m p : Nat) (e : Int) : Nat × Int :=
  let k := 130 + bitLen p
  let q := m * 2 ^ k / p
  (2 * q + b2n (m * 2 ^ k % p ≠ 0), e - (k : Int) - 1)

/-- The square root of m * 2^e to more than 120 bits, with the same last bit. -/
def sqrtMag (m : Nat) (e : Int) : Nat × Int :=
  let odd := (e % 2).toNat
  let v := m * 2 ^ (odd + 260)
  let r := isqrt v
  (2 * r + b2n (r * r ≠ v), (e - (odd : Int)) / 2 - 130 - 1)

/-- The reciprocal square root of m * 2^e to more than 120 bits, with the same last bit. -/
def rsqrtMag (m : Nat) (e : Int) : Nat × Int :=
  let odd := (e % 2).toNat
  let v := m * 2 ^ odd
  let k := 130 + bitLen v
  let r := isqrt (2 ^ (2 * k) / v)
  (2 * r + b2n (r * r * v ≠ 2 ^ (2 * k)), -((e - (odd : Int)) / 2) - (k : Int) - 1)

/-! ## Rounding (R89, R90) -/

/-- hi + rem / 2^sh rounded to an integer by a mode; rem < 2^sh. -/
def roundUnit (mode : Nat) (neg : Bool) (hi rem sh : Nat) : Nat :=
  if rem = 0 then hi
  else match mode with
    | 0 => if 2 * rem > 2 ^ sh || (2 * rem = 2 ^ sh && hi % 2 = 1) then hi + 1 else hi
    | 2 => if neg then hi else hi + 1
    | 3 => if neg then hi + 1 else hi
    | 5 => if hi % 2 = 1 then hi else hi + 1
    | _ => hi

/-- The magnitude m * 2^e rounded onto the format's grid with unbounded exponent above, as a magnitude code that runs
on past the largest finite value (R90). -/
def FpFmt.roundCode (f : FpFmt) (mode : Nat) (neg : Bool) (m : Nat) (e : Int) : Nat :=
  if m = 0 then 0
  else
    let q := max f.emin (e + (bitLen m : Int) - ((f.mb : Int) + 1))
    let h := if q ≤ e then m * 2 ^ (e - q).toNat
      else let sh := (q - e).toNat; roundUnit mode neg (m / 2 ^ sh) (m % 2 ^ sh) sh
    if h < 2 ^ f.mb then h else (q - f.emin).toNat * 2 ^ f.mb + h

/-- What an overflow gives under IEEE 754, and under RTO the largest finite value (R95 step 3, R99). -/
def FpFmt.overCode (f : FpFmt) (mode : Nat) (neg : Bool) : Nat :=
  match mode with
  | 1 => f.maxCode
  | 5 => f.maxCode
  | 2 => if neg then f.maxCode else f.infCode
  | 3 => if neg then f.infCode else f.maxCode
  | _ => f.infCode

/-- One operation's exact result rounded to its result format, FP32 or FP64 (R80, R99, R103). -/
def FpFmt.round (f : FpFmt) (mode : Nat) (v : Fp) : Nat :=
  match v with
  | .nan => f.nan
  | .inf n => f.join n f.infCode
  | .fin n m e =>
    let c := f.roundCode mode n m e
    f.join n (if f.maxCode < c then f.overCode mode n else c)

/-- The magnitude m * 2^e rounded to an integer (R90). -/
def roundIntMag (mode : Nat) (neg : Bool) (m : Nat) (e : Int) : Nat :=
  if 0 ≤ e then m * 2 ^ e.toNat
  else let sh := (-e).toNat; roundUnit mode neg (m / 2 ^ sh) (m % 2 ^ sh) sh

/-- The random bits of SR (R91). -/
def srBits (seed index : Nat) : Nat :=
  let h := (seed ^^^ index) % 2 ^ 32
  let h := h ^^^ (h / 2 ^ 16)
  let h := h * 0x7FEB352D % 2 ^ 32
  let h := h ^^^ (h / 2 ^ 15)
  let h := h * 0x846CA68B % 2 ^ 32
  let h := h ^^^ (h / 2 ^ 16)
  h / 2 ^ 16

/-! ## The conversion (R93 to R97) -/

/-- A conversion with SEED and the element's INDEX, which only SR uses (R93, R91). -/
structure Conv where
  fmt : Nat
  rmode : Nat
  ftz : Bool
  ovf : Bool
  seed : Nat
deriving DecidableEq, Repr

/-- A conversion descriptor (R93). -/
def convOf (d seed : Nat) : Conv :=
  { fmt := fld d 0 4, rmode := fld d 4 3, ftz := bit d 7, ovf := bit d 8, seed := seed }

/-- The checks of R94 in their order, for a source of the given format code; none when every check passes. -/
def convCheck (d src : Nat) : Option Nat :=
  let c := convOf d 0
  if !fmtOk c.fmt || fld d 9 7 ≠ 0 then some 0x0226
  else if 6 ≤ c.rmode then some 0x0224
  else if c.rmode = 4 && !(c.fmt = 5 && src = 7) then some 0x0223
  else if c.ovf && !(4 ≤ c.fmt && c.fmt ≤ 8) then some 0x0225
  else none

/-- Two reports of one operation taken together (R96, R97). -/
def ConvReport.join (a b : ConvReport) : ConvReport :=
  { sat := sat32 (a.sat + b.sat), ftz := sat32 (a.ftz + b.ftz),
    rmax := if a.rmax.toNat < b.rmax.toNat then b.rmax else a.rmax,
    overflow := a.overflow || b.overflow, nanSeen := a.nanSeen || b.nanSeen }

/-- The reports of an operation's elements taken together. -/
def ConvReport.all (l : List ConvReport) : ConvReport := l.foldl ConvReport.join ConvReport.reset

/-- The running-maximum entry of a source: |v| as FP32 bits, RUP in magnitude (R97). R97 names FP64 and INT32 sources; the
exact quotient v / S that enters C under a shared scale (R193, R373) is rounded the same way, so that the maximum never
understates (DEDUCED, log entry 127). -/
def rmaxOf (v : Fp) : BitVec 32 :=
  match v with
  | .nan => 0
  | .inf _ => 0x7F800000
  | .fin _ m e => BitVec.ofNat 32 (fp32.round 2 (.fin false m e))

/-- The result of one conversion and its report. -/
structure ConvResult where
  bits : Nat
  rep : ConvReport
deriving DecidableEq, Repr

/-- C(v) for a floating-point target (R95): the source value and, for SR, its FP32 bits and INDEX (R91). -/
def convFp (c : Conv) (f : FpFmt) (v : Fp) (src index : Nat) : ConvResult :=
  let base := { ConvReport.reset with rmax := rmaxOf v }
  match v with
  | .nan =>
    if f.hasNan then { bits := f.nan, rep := { base with nanSeen := true } }
    else { bits := 0, rep := { base with nanSeen := true, sat := 1 } }
  | .inf n =>
    if c.ovf then { bits := f.join n f.infCode, rep := base }
    else { bits := f.join n f.maxCode, rep := { base with sat := 1, overflow := true } }
  | .fin n m e =>
    let code := if c.rmode = 4 then (src % 2 ^ 31 + srBits c.seed index) / 2 ^ 16 else f.roundCode c.rmode n m e
    if f.maxCode < code then
      if c.ovf then { bits := f.join n (f.overCode c.rmode n), rep := { base with overflow := true } }
      else { bits := f.join n f.maxCode, rep := { base with overflow := true, sat := 1 } }
    else
      let code := if c.ftz && code < 2 ^ f.mb then 0 else code
      { bits := f.join n code, rep := { base with ftz := b2n (m ≠ 0 && code = 0) } }

/-- C(v) for an integer target of w bits (R95). -/
def convInt (c : Conv) (w : Nat) (v : Fp) : ConvResult :=
  let base := { ConvReport.reset with rmax := rmaxOf v }
  let most (n : Bool) : Nat := if n then 2 ^ (w - 1) else 2 ^ (w - 1) - 1
  match v with
  | .nan => { bits := 0, rep := { base with nanSeen := true, sat := 1 } }
  | .inf n => { bits := most n, rep := { base with sat := 1, overflow := true } }
  | .fin n m e =>
    let r := roundIntMag c.rmode n m e
    if most n < r then { bits := most n, rep := { base with sat := 1, overflow := true } }
    else { bits := wrap (Fp.signed n r) w, rep := { base with ftz := b2n (m ≠ 0 && r = 0) } }

/-- C(v) (R95). -/
def convert (c : Conv) (v : Fp) (src index : Nat) : ConvResult :=
  match fpFmt c.fmt with
  | some f => convFp c f v src index
  | none => convInt c (fmtWidth c.fmt) v

/-- The value of an element of any format code: floating point by R74, integers by R78. -/
def elemVal (fmt w : Nat) : Fp :=
  match fpFmt fmt with
  | some f => f.decode w
  | none => Fp.ofInt (sext w (fmtWidth fmt))

/-- C over elements of a source format, at INDEX, INDEX + 1, … (R91, R96, R97). -/
def convertList (c : Conv) (srcFmt : Nat) : Nat → List Nat → List ConvResult
  | _, [] => []
  | i, w :: r => convert c (elemVal srcFmt w) w (i % 2 ^ 32) :: convertList c srcFmt (i + 1) r

/-! ## Shared scales (R82 to R86) -/

/-- The block length of a scale descriptor; 0 for none. -/
def scaleBlock (d : Nat) : Nat := if fld d 0 3 = 0 then 0 else 2 ^ (fld d 0 3 + 2)

/-- R83: the operand's format against its scale descriptor. -/
def scaleCheck (d fmt : Nat) : Option Nat :=
  if (d ≠ 0 && 5 ≤ fmt) || fld d 0 3 = 7 || fld d 5 3 ≠ 0 then some 0x0226 else none

/-- The value of a scale byte: SFMT 0 is E8M0, 1 unsigned E4M3 (R84). -/
def scaleVal (sfmt b : Nat) : Fp :=
  if sfmt = 0 then (if b = 255 then .nan else .fin false 1 ((b : Int) - 127))
  else if b = 0x7F || bit b 7 then .nan
  else match fpFmt 3 with
    | some f => f.decode b
    | none => .nan

/-- The scaled element X = x * S (R86). -/
def scaleElem (x s : Fp) : Fp := x.mul s

/-! ## Accumulation (R80, R81) -/

/-- The addition of the FP32, FP64 or INT32 accumulator; format codes 7, 8, 11. Values are accumulator bits. -/
def accAdd (fmt : Nat) (a : Nat) (p : Fp) : Nat :=
  if fmt = 11 then
    match p with
    | .fin n m e => wrap (sext a 32 + Fp.signed n (m * 2 ^ e.toNat)) 32
    | _ => a
  else if fmt = 8 then fp64.round 0 ((fp64.decode a).add 0 p)
  else fp32.round 0 ((fp32.decode a).add 0 p)

/-- The first partial sum s_0 = p_0 rounded once to the accumulator format (R80, R81). -/
def accFirst (fmt : Nat) (p : Fp) : Nat :=
  if fmt = 11 then accAdd 11 0 p
  else if fmt = 8 then fp64.round 0 p
  else fp32.round 0 p

end Sys2Proof.Machine
end

