-- ==== Sys2Proof/Machine/Operands.lean ====
section
/-! DEFINITION. The fields of instruction words, address operands and drain descriptors: every operand form of the
pier sequencer (R118 to R132, R139, R176 to R178). -/
namespace Sys2Proof.Machine
open Sys2Proof

/-- The opcode of a first word (R118). -/
def opc (w : Nat) : Nat := fld w 0 8

/-- The word is a second word (R118). -/
def isSecond (w : Nat) : Bool := fld w 0 2 = 3

/-- A one-word vector opcode of R177. -/
def vecOne (o : Nat) : Bool := o = 0x80 || o = 0x84 || o = 0x88 || o = 0x8C || o = 0x90 || o = 0x94 || o = 0x98 || o = 0x9C
/-- A two-word vector opcode of R178. -/
def vecTwo (o : Nat) : Bool := o = 0xA0 || o = 0xA4 || o = 0xA8 || o = 0xB0

/-- A two-word instruction (R119). -/
def isTwoWord (o : Nat) : Bool := o = 0x40 || o = 0x50 || o = 0x54 || o = 0x58 || vecTwo o

/-- An opcode that R119, R177 and R178 define. -/
def opKnown (o : Nat) : Bool :=
  [0x04, 0x08, 0x0C, 0x10, 0x14, 0x18, 0x1C, 0x20, 0x24, 0x28, 0x2C, 0x30, 0x34].contains o || isTwoWord o || vecOne o

/-- Every bit of a word lies in one of the used fields, given as position and width. -/
def onlyFields (w : Nat) (used : List (Nat × Nat)) : Bool :=
  w = (used.map fun x => fld w x.1 x.2 * 2 ^ x.1).sum

/-- The fields of a control instruction (R139). -/
def ctlFields (o : Nat) : List (Nat × Nat) :=
  (0, 8) :: match o with
  | 0x08 => [(8, 16)]
  | 0x0C => [(8, 6), (64, 64)]
  | 0x10 => [(8, 6), (14, 6), (20, 1), (21, 6), (32, 32)]
  | 0x14 => [(32, 32), (64, 16)]
  | 0x18 => [(8, 4), (12, 6), (18, 6), (32, 32)]
  | 0x1C => [(8, 4), (12, 6), (32, 32)]
  | 0x20 => [(8, 4), (12, 6), (18, 4), (22, 1), (32, 16)]
  | 0x24 => [(12, 6), (32, 32)]
  | 0x28 => [(8, 4), (12, 2), (16, 16), (32, 32)]
  | 0x2C => [(8, 3), (32, 32)]
  | 0x30 => [(8, 16)]
  | 0x34 => [(8, 6), (14, 6), (24, 24)]
  | _ => []

/-- Base register b (R121). -/
def PierState.base (x : PierState) (b : Nat) : Nat := x.bases.get 0 b

/-- An address operand: B[b] with bits [5:0] cleared plus 64 * o, modulo 2^64 (R120). -/
def PierState.addr (x : PierState) (op : Nat) : Nat :=
  (x.base (fld op 18 6) / 64 * 64 + 64 * fld op 0 18) % 2 ^ 64

/-- SSCL_ADDR, whose offset counts bytes (R120). -/
def PierState.addrBytes (x : PierState) (op : Nat) : Nat :=
  (x.base (fld op 18 6) / 64 * 64 + fld op 0 18) % 2 ^ 64

/-! ## PASS (R36, R122, R123) -/

/-- The class of a format pair: 0 4/6-bit, 1 8-bit, 2 16-bit, 3 FP32, 4 FP64; and whether it is integer (R36). -/
def passClass (a b : Nat) : Option (Nat × Bool) :=
  if a ≤ 2 ∧ b ≤ 2 then some (0, false)
  else if a = 9 ∧ b = 9 then some (0, true)
  else if a ≤ 4 ∧ b ≤ 4 then some (1, false)
  else if (a = 10 ∧ (b = 10 ∨ b = 9)) ∨ (a = 9 ∧ b = 10) then some (1, true)
  else if (a = 5 ∨ a = 6) ∧ (b = 5 ∨ b = 6) then some (2, false)
  else if a = 7 ∧ b = 7 then some (3, false)
  else if a = 8 ∧ b = 8 then some (4, false)
  else none

/-- Rows per slot and array cycles per slot of a class (R36). -/
def rowsPerSlot (c : Nat) : Nat := if c = 0 then 2 else 1
/-- Array cycles per slot of a class (R36). -/
def cyclesPerSlot (c : Nat) : Nat := if c ≤ 1 then 1 else if c = 2 then 2 else if c = 3 then 8 else 32
/-- A row time in half array cycles (R37). -/
def halfRowTime (c : Nat) : Nat := 2 * cyclesPerSlot c / rowsPerSlot c
/-- The format code of the accumulator of a class (R36). -/
def accFmt (c : Nat) (int : Bool) : Nat := if int then 11 else if c = 4 then 8 else 7

/-- Fields of PASS word 0 and word 1 (R122, R123). -/
def Entry.passArray (e : Entry) : Nat := fld e.w0.toNat 8 3
/-- DRAIN_OUT. -/
def Entry.drainOut (e : Entry) : Bool := bit e.w0.toNat 11
/-- ACC_MODE. -/
def Entry.accMode (e : Entry) : Nat := fld e.w0.toNat 12 2
/-- STAT_SRC. -/
def Entry.statSrc (e : Entry) : Nat := fld e.w0.toNat 14 2
/-- STAT_FMT. -/
def Entry.statFmt (e : Entry) : Nat := fld e.w0.toNat 16 4
/-- STRM_FMT. -/
def Entry.strmFmt (e : Entry) : Nat := fld e.w0.toNat 20 4
/-- STAT_SDESC. -/
def Entry.statSdesc (e : Entry) : Nat := fld e.w0.toNat 24 8
/-- STRM_SDESC. -/
def Entry.strmSdesc (e : Entry) : Nat := fld e.w0.toNat 32 8
/-- K_VALID. -/
def Entry.kValid (e : Entry) : Nat := fld e.w0.toNat 40 8 + 1
/-- N_VALID. -/
def Entry.nValid (e : Entry) : Nat := fld e.w0.toNat 48 8 + 1
/-- M. -/
def Entry.mRows (e : Entry) : Nat := fld e.w0.toNat 56 16 + 1
/-- ACC_BASE. -/
def Entry.accBase (e : Entry) : Nat := fld e.w0.toNat 72 12
/-- STRM_STRIDE in bytes. -/
def Entry.strmStride (e : Entry) : Nat := 8 * fld e.w0.toNat 108 12
/-- GAUGE. -/
def Entry.gauge (e : Entry) : Nat := fld e.w0.toNat 120 2
/-- DONE_TC of a PASS. -/
def Entry.passTc (e : Entry) : Nat := fld e.w0.toNat 122 6
/-- The class of the entry's pass. -/
def Entry.cls (e : Entry) : Nat := ((passClass e.statFmt e.strmFmt).getD (0, false)).1
/-- The pass is an integer pass. -/
def Entry.isInt (e : Entry) : Bool := ((passClass e.statFmt e.strmFmt).getD (0, false)).2
/-- The accumulator format of the entry's pass. -/
def Entry.acc (e : Entry) : Nat := accFmt e.cls e.isInt

/-- Address operand i of the entry, resolved at dispatch. -/
def Entry.addr (e : Entry) (i : Nat) : Nat := e.addrs.getD i 0

/-! ## Drain descriptors (R127) -/

/-- CONV. -/
def ddConv (d : Nat) : Nat := fld d 0 16
/-- FUNC. -/
def ddFunc (d : Nat) : Nat := fld d 16 8
/-- Stage i is selected, i from 1. -/
def ddStage (d i : Nat) : Bool := bit d (23 + i)
/-- SIDE_FMT as a format code. -/
def ddSideFmt (d : Nat) : Nat := if bit d 27 then 7 else 5
/-- FOUT. -/
def ddFout (d : Nat) : Bool := bit d 28
/-- F. -/
def ddF (d : Nat) : Nat := fld d 32 32
/-- SEED. -/
def ddSeed (d : Nat) : Nat := fld d 64 32
/-- INDEX_BASE. -/
def ddIndex (d : Nat) : Nat := fld d 96 32
/-- DEST_STRIDE. -/
def ddDest (d : Nat) : Nat := fld d 128 32
/-- SIDE_STRIDE. -/
def ddSide (d : Nat) : Nat := fld d 160 32
/-- OVF_STEP. -/
def ddStep (d : Nat) : Nat := fld d 192 8

/-- Bytes of a row of n packed elements (R76, R124): FP6 in whole groups of three bytes. -/
def rowBytes (fmt n : Nat) : Nat :=
  if fmtWidth fmt = 6 then cdiv n 4 * 3 else cdiv (n * fmtWidth fmt) 8

end Sys2Proof.Machine
end

