-- ==== Sys2Proof/Config.lean ====
section
/-! DEFINITION. What the spec leaves open and what it takes from other standards: uninterpreted constants with no
body, so that no proof can learn a value of them. -/
namespace Sys2Proof.Config
open Sys2Proof

/-- The free values: the n-th value that the spec leaves open (log entry 3). The state's freeCtr is its argument. -/
opaque freeValue : Nat → BitVec 64
/-- Span time in ns after a step's local completion at which a vote that has not come is late (R239, R488): the spec gives
none, and the model takes it below 2^62 (log entry 129). -/
opaque voteLate : BitVec 62
/-- Falcon-1024 verification of public key, message and signature (R506, R515). -/
opaque falconVerify : List Byte → List Byte → List Byte → Bool
/-- The device secret of 32 bytes that the boot ROM reconstructs from the PUF (R512). -/
opaque deviceSecret : List Byte
/-- The public key of the Falcon-1024 pair that a seed generates (R512). -/
opaque falconPublic : List Byte → List Byte
/-- Falcon-1024 signature: the seed of the key pair and the message (R512, R534). -/
opaque falconSign : List Byte → List Byte → List Byte
/-- The encapsulation key of the ML-KEM-1024 pair that a seed generates (R512, R533). -/
opaque kemPublic : List Byte → List Byte
/-- ML-KEM-1024 decapsulation: the seed of the key pair and the ciphertext (R517). -/
opaque kemDecaps : List Byte → List Byte → List Byte
/-- ML-KEM-1024 encapsulation: the encapsulation key and a random value; ciphertext and shared secret (R531). -/
opaque kemEncaps : List Byte → List Byte → List Byte × List Byte
/-- The SHAKE256 digests of Valkader's public keys that the boot ROM holds (R515): 0 firmware, 1 device CA, 2 Load
Test, 3 vector. -/
opaque keyDigest : Nat → List Byte
/-- What Valkader alone knows of the device certificate that it writes at manufacture (R533): the serial number in
ASCII, and the device CA key's signature over the bytes before SLEN. -/
opaque serialNumber : List Byte
opaque certificateSignature : List Byte → List Byte
/-- The public Load Test key, whose digest the boot ROM holds (R506, R515). -/
opaque loadTestKey : List Byte
/-- The neighbour set of a founder as another founder sees it at a bootstrap: the draw and the founder (R498). -/
opaque founderNeighbours : Nat → Nat → List Nat
/-- The bytes over which the digest of a committed Configuration Set is taken, from its words, routes and fast entries:
R534 gives the digest and not the set's layout. -/
opaque setBytes : List (Nat × BitVec 32) → List (Nat × BitVec 32) → List (Nat × BitVec 64) → List Byte
/-- The manifest of the image that Valkader writes to flash A (false) or B at manufacture (R516). -/
opaque factoryManifest : Bool → List Byte
/-- The self-test block held in boot ROM takes this many gauge samples a round on a pier whose powered array pairs are
those of a mask (R505). -/
opaque selftestSamples : Nat → Nat

end Sys2Proof.Config
end

