-- ==== Sys2Proof/Machine/Memory.lean ====
section
/-! DEFINITION. Memory as one canonical list of address and byte pairs: addresses strictly rising, no entry zero. An
unlisted byte reads zero (log entry 5). -/
namespace Sys2Proof.Machine
open Sys2Proof

/-- The byte at an address; an unlisted address reads zero. -/
def Memory.read : List Host.Cell → Nat → Byte
  | [], _ => 0
  | (k, v) :: r, a => if a = k then v else Memory.read r a

/-- Write one byte, keeping the canonical form. -/
def Memory.write : List Host.Cell → Nat → Byte → List Host.Cell
  | [], a, b => if b = 0 then [] else [(a, b)]
  | (k, v) :: r, a, b =>
    if a = k then (if b = 0 then r else (a, b) :: r)
    else if a < k then (if b = 0 then (k, v) :: r else (a, b) :: (k, v) :: r)
    else (k, v) :: Memory.write r a b

/-- The n bytes from an address. -/
def Memory.readList (m : List Host.Cell) (a : Nat) : Nat → List Byte
  | 0 => []
  | n + 1 => Memory.read m a :: Memory.readList m (a + 1) n

/-- Write consecutive bytes. -/
def Memory.writeList : List Host.Cell → Nat → List Byte → List Host.Cell
  | m, _, [] => m
  | m, a, b :: r => Memory.writeList (Memory.write m a b) (a + 1) r

/-- Write the bytes whose mask bit is 1. -/
def Memory.writeMasked : List Host.Cell → Nat → List (Byte × Bool) → List Host.Cell
  | m, _, [] => m
  | m, a, (b, k) :: r => Memory.writeMasked (if k then Memory.write m a b else m) (a + 1) r

/-- Zero the n bytes from an address. -/
def Memory.clear (m : List Host.Cell) (a n : Nat) : List Host.Cell :=
  m.filter fun c => !(decide (a ≤ c.1) && decide (c.1 < a + n))

/-- The canonical form: every entry nonzero, addresses strictly rising. -/
def Memory.wf (m : List Host.Cell) : Bool :=
  decide (m.Pairwise fun a b => a.1 < b.1) && m.all fun c => c.2 != 0

end Sys2Proof.Machine
end

