-- ==== Sys2Proof/Machine/RegMap.lean ====
section
/-! DEFINITION. Where the module's registers lie in BAR0 (R422, R424) and what each holds after reset. -/
namespace Sys2Proof.Machine
open Sys2Proof

/-- MAR_ block of Pp.MAa (R424). -/
def marOff (p a : Nat) : Nat := 0x1000000 + 0x800 * p + 0x100 * a
/-- PSQ_ block of Pp. -/
def psqOff (p : Nat) : Nat := 0x1010000 + 0x400 * p
/-- VEC_ block of Pp. -/
def vecOff (p : Nat) : Nat := 0x1018000 + 0x100 * p
/-- DMC_ block of MSn. -/
def dmcOff (n : Nat) : Nat := 0x1020000 + 0x800 * n
/-- ZL_ block of ZLl. -/
def zlOff (l : Nat) : Nat := 0x1028000 + 0x80 * l
/-- ZL_SW_ block of ADk. -/
def swOff (k : Nat) : Nat := 0x1029000 + 0x400 * k
/-- TS_ block. -/
def tsOff : Nat := 0x102A000
/-- LT_ block. -/
def ltOff : Nat := 0x102A400
/-- MGT_ block. -/
def mgtOff : Nat := 0x102A800
/-- CFG_ block. -/
def cfgOff : Nat := 0x102B000
/-- RSH_ block of ADk. -/
def rshOff (k : Nat) : Nat := 0x102C000 + 0x800 * k
/-- KS_ block (R422). -/
def ksOff : Nat := 0x500000
/-- HP_ block (R422). -/
def hpOff : Nat := 0x501000

/-- Reset values that are not zero, by block (R162 to R168, R288, R289, R346, R347, R349, R384, R451, R472); an MSI-X
vector control word resets to masked, as PCIe has it (PRESUMED, log entry 13). -/
def regReset (off : Nat) : BitVec 32 :=
  if 0x1010000 ≤ off ∧ off < 0x1014000 then
    (if off % 0x400 = 0x30 then 4095 else if off % 0x400 = 0x34 then 14 else 0)
  else if 0x1020000 ≤ off ∧ off < 0x1028000 then
    (if off % 0x800 = 0x00 then 1 else if off % 0x800 = 0x14 then 0x0369_5F55
     else if off % 0x800 = 0x18 then 8 else if off % 0x800 = 0x1C then 2 else 0)
  else if 0x1028000 ≤ off ∧ off < 0x1028C00 then
    (if off % 0x80 = 0x00 then 1 else if off % 0x80 = 0x0C then 0x20 else if off % 0x80 = 0x14 then 0x0280_0000 else 0)
  else if 0x1029000 ≤ off ∧ off < 0x102A000 then (if off % 0x400 = 0 then 4000 else 0)
  else if off = 0x102A008 then 0x0020_03FF
  else if off = 0x102B024 then 0x0032_CC80
  else if off = 0x102B028 then 0x0000_0428
  else if 0x102B040 ≤ off ∧ off < 0x102B080 then 0x0000_007C
  else if 0x102C000 ≤ off ∧ off < 0x102E000 then
    (if off % 0x800 = 0 then 1 else if off % 0x800 = 0xC then 1000 else 0)
  else if off = 0x500000 then 0x00C0_C016
  else if 0x510000 ≤ off ∧ off < 0x518000 ∧ off % 16 = 12 then 1
  else 0

/-- A stored register (R5): its last written value, or its reset value. -/
def State.reg (s : State) (off : Nat) : BitVec 32 :=
  match s.regs.find off with
  | some v => v
  | none => regReset off

/-- Write a stored register whole. -/
def State.setReg (s : State) (off : Nat) (v : BitVec 32) : State := { s with regs := s.regs.put off v }

/-- A field of a stored register. -/
def State.rfld (s : State) (off lo n : Nat) : Nat := fld (s.reg off).toNat lo n

/-- Write a field of a stored register. -/
def State.setRfld (s : State) (off lo n v : Nat) : State :=
  s.setReg off (BitVec.ofNat 32 (setFld (s.reg off).toNat lo n v))

/-- Set bits of a register. -/
def State.orReg (s : State) (off mask : Nat) : State := s.setReg off (s.reg off ||| BitVec.ofNat 32 mask)

/-- Add to a 32-bit counter that saturates (R72, R167). -/
def State.bump (s : State) (off n : Nat) : State := s.setReg off (BitVec.ofNat 32 (sat32 ((s.reg off).toNat + n)))

/-- A 64-bit register held in two words. -/
def State.reg64 (s : State) (off : Nat) : Nat := (s.reg off).toNat + 2 ^ 32 * (s.reg (off + 4)).toNat

/-- Write a 64-bit register. -/
def State.setReg64 (s : State) (off v : Nat) : State :=
  (s.setReg off (BitVec.ofNat 32 v)).setReg (off + 4) (BitVec.ofNat 32 (v / 2 ^ 32))

/-- Add to a 64-bit counter that wraps (R72). -/
def State.add64 (s : State) (off n : Nat) : State := s.setReg64 off ((s.reg64 off + n) % 2 ^ 64)

/-- Clear the words from off to off + 4 * (n - 1). -/
def State.clearRegs (s : State) (off : Nat) : Nat → State
  | 0 => s
  | n + 1 => (s.clearRegs off n).setReg (off + 4 * n) 0

end Sys2Proof.Machine
end

