-- ==== Sys2Proof/Machine/Shake.lean ====
section
/-! DEFINITION. SHAKE256, the digest of R106, R237, R350, R496, R512, R515, R534 and R535. The spec names the function
and leaves its definition to its standard, FIPS 202: the rotations, the round constants and the padding here are that
standard's (PRESUMED, log entry 10). -/
namespace Sys2Proof.Machine
open Sys2Proof

/-- Keccak's state: 25 lanes, lane x + 5 y. -/
abbrev Lanes := List (BitVec 64)

/-- Lane (x, y) of a state, both modulo 5. -/
def lane (a : Lanes) (x y : Nat) : BitVec 64 := a.getD (x % 5 + 5 * (y % 5)) 0

/-- The exclusive or of a column. -/
def column (a : Lanes) (x : Nat) : BitVec 64 := lane a x 0 ^^^ lane a x 1 ^^^ lane a x 2 ^^^ lane a x 3 ^^^ lane a x 4

/-- A list over the 25 lane positions. -/
def lanesOf (f : Nat → Nat → BitVec 64) : Lanes := (List.range 25).map fun i => f (i % 5) (i / 5)

/-- Step theta. -/
def theta (a : Lanes) : Lanes :=
  let c := (List.range 5).map fun x => column a x
  lanesOf fun x y => lane a x y ^^^ c.getD ((x + 4) % 5) 0 ^^^ (c.getD ((x + 1) % 5) 0).rotateLeft 1

/-- Rotation of lane x + 5 y in step rho. -/
def rhoTable : List Nat :=
  [0, 1, 62, 28, 27, 36, 44, 6, 55, 20, 3, 10, 43, 25, 39, 41, 45, 15, 21, 8, 18, 2, 61, 56, 14]

/-- Steps rho and pi: lane (x, y) of the result is lane (x + 3 y, x), rotated. -/
def rhoPi (a : Lanes) : Lanes :=
  lanesOf fun x y => (lane a (x + 3 * y) x).rotateLeft (rhoTable.getD ((x + 3 * y) % 5 + 5 * x) 0)

/-- Step chi. -/
def chi (a : Lanes) : Lanes := lanesOf fun x y => lane a x y ^^^ (~~~lane a (x + 1) y &&& lane a (x + 2) y)

/-- The constants of step iota, one a round. -/
def roundConstants : List (BitVec 64) :=
  [0x0000000000000001, 0x0000000000008082, 0x800000000000808A, 0x8000000080008000, 0x000000000000808B,
   0x0000000080000001, 0x8000000080008081, 0x8000000000008009, 0x000000000000008A, 0x0000000000000088,
   0x0000000080008009, 0x000000008000000A, 0x000000008000808B, 0x800000000000008B, 0x8000000000008089,
   0x8000000000008003, 0x8000000000008002, 0x8000000000000080, 0x000000000000800A, 0x800000008000000A,
   0x8000000080008081, 0x8000000000008080, 0x0000000080000001, 0x8000000080008008]

/-- One round. -/
def keccakRound (a : Lanes) (rc : BitVec 64) : Lanes :=
  match chi (rhoPi (theta a)) with
  | l :: r => (l ^^^ rc) :: r
  | [] => []

/-- The permutation. -/
def keccak (a : Lanes) : Lanes := roundConstants.foldl keccakRound a

/-- Bytes of the state that a block takes: 1,600 bits less a capacity of 512. -/
def shakeRate : Nat := 136

/-- A block of 136 bytes enters the state. -/
def absorb (a : Lanes) (block : List Byte) : Lanes :=
  keccak ((List.zip (List.range 25) a).map fun x => x.2 ^^^ BitVec.ofNat 64 (leAt block (8 * x.1) 8))

/-- The message with SHAKE's suffix 1111 and the padding 10*1, in whole blocks. -/
def shakePad (m : List Byte) : List Byte :=
  let z := shakeRate - 1 - m.length % shakeRate
  if z = 0 then m ++ [0x9F] else m ++ 0x1F :: List.replicate (z - 1) 0 ++ [0x80]

/-- n output blocks. -/
def squeeze : Nat → Lanes → List Byte
  | 0, _ => []
  | n + 1, a => ((a.take 17).map fun x => toBytes x.toNat 8).flatten ++ squeeze n (keccak a)

/-- The first n bytes of SHAKE256's output over a byte string. -/
@[irreducible] def shake256 (m : List Byte) (n : Nat) : List Byte :=
  let p := shakePad m
  let a := (pieces shakeRate (p.length / shakeRate) p).foldl absorb (List.replicate 25 0)
  sliceBytes (squeeze (n / shakeRate + 1) a) 0 n

end Sys2Proof.Machine
end

