-- ==== Sys2Proof/Machine/Ops.lean ====
section
/-! DEFINITION. The named operations over the state that every meaning uses: units, counters, free values, stamps,
records, translation, owner checks and memory accesses. -/
namespace Sys2Proof.Machine
open Sys2Proof

/-! ## Units -/

/-- Pier p. -/
def State.pier (s : State) (p : Nat) : PierState := s.piers.get PierState.reset p
/-- Replace pier p. -/
def State.setPier (s : State) (p : Nat) (x : PierState) : State := { s with piers := s.piers.put p x }
/-- Change pier p. -/
def State.updPier (s : State) (p : Nat) (f : PierState → PierState) : State := s.setPier p (f (s.pier p))
/-- Stack n. -/
def State.stack (s : State) (n : Nat) : StackState := s.stks.get StackState.reset n
/-- Change stack n. -/
def State.updStack (s : State) (n : Nat) (f : StackState → StackState) : State :=
  { s with stks := s.stks.put n (f (s.stack n)) }
/-- Link l. -/
def State.link (s : State) (l : Nat) : LinkState := s.links.get LinkState.reset l
/-- Change link l. -/
def State.updLink (s : State) (l : Nat) (f : LinkState → LinkState) : State :=
  { s with links := s.links.put l (f (s.link l)) }
/-- Abutment die k. -/
def State.die (s : State) (k : Nat) : DieState := s.dies.get DieState.reset k
/-- Change abutment die k. -/
def State.updDie (s : State) (k : Nat) (f : DieState → DieState) : State :=
  { s with dies := s.dies.put k (f (s.die k)) }
/-- Collective descriptor d. -/
def State.coll (s : State) (d : Nat) : Collective := s.colls.get Collective.reset d
/-- Change collective descriptor d. -/
def State.updColl (s : State) (d : Nat) (f : Collective → Collective) : State :=
  { s with colls := s.colls.put d (f (s.coll d)) }
/-- Change the keystone. -/
def State.updKs (s : State) (f : Keystone → Keystone) : State := { s with ks := f s.ks }
/-- Context c. -/
def State.ctx (s : State) (c : Nat) : Context := s.ks.ctxs.get Context.reset c
/-- Change context c. -/
def State.updCtx (s : State) (c : Nat) (f : Context → Context) : State :=
  s.updKs fun k => { k with ctxs := k.ctxs.put c (f (s.ctx c)) }
/-- Mailbox m. -/
def State.mb (s : State) (m : Nat) : Mailbox := s.ks.mbs.get Mailbox.reset m
/-- Change mailbox m. -/
def State.updMb (s : State) (m : Nat) (f : Mailbox → Mailbox) : State :=
  s.updKs fun k => { k with mbs := k.mbs.put m (f (s.mb m)) }
/-- Stream i of the landing module. -/
def State.stream (s : State) (i : Nat) : Stream := s.ks.streams.get Stream.reset i
/-- Change stream i. -/
def State.updStream (s : State) (i : Nat) (f : Stream → Stream) : State :=
  s.updKs fun k => { k with streams := k.streams.put i (f (s.stream i)) }
/-- Reduction window w of stack n. -/
def State.win (s : State) (n w : Nat) : Window := (s.stack n).windows.get Window.reset w
/-- Change window w of stack n. -/
def State.updWin (s : State) (n w : Nat) (f : Window → Window) : State :=
  s.updStack n fun x => { x with windows := x.windows.put w (f (s.win n w)) }

/-- The module's identifier (R8, CFG_ID.MODULE). -/
def State.moduleId (s : State) : Nat := s.rfld (cfgOff + 0x20) 0 13

/-- The tag a context's number and generation make (R9). -/
def mkTag (c gen : Nat) : Nat := c * 4096 + gen % 4096
/-- The context number of a tag. -/
def tagCtx (t : Nat) : Nat := t / 4096 % 64
/-- The current tag of context c (R427). -/
def State.ctxTag (s : State) (c : Nat) : Nat := mkTag c (s.ctx c).gen
/-- The tag is the current tag of its context and the context is ACTIVE (R426). -/
def State.tagLive (s : State) (t : Nat) : Bool :=
  (s.ctx (tagCtx t)).phase = .active && s.ctxTag (tagCtx t) = t

/-- An outward effect. -/
def State.emit (s : State) (o : Out) : State := { s with out := s.out ++ [o] }

/-! ## Free values and stamps -/

/-- Draw the next free value (log entry 3). -/
def State.free (s : State) : Nat × State :=
  ((Config.freeValue s.freeCtr).toNat, { s with freeCtr := s.freeCtr + 1 })

/-- Draw n free values. -/
def State.frees (s : State) : Nat → List Nat × State
  | 0 => ([], s)
  | n + 1 => let (v, s) := s.free; let (l, s) := s.frees n; (v :: l, s)

/-- The die of a record source: replica index 0 to 15 compute dies, 16 to 31 base dies, 32 to 35 abutment dies
(R14, R439). The keystone, a mailbox completion's source among its records, uses the replica of AD0 (DESIGN CHOICE, log
entry 123: the spec names no die for it). -/
def sourceDie (kind inst : Nat) : Nat :=
  match kind with
  | 0 => 32 + inst
  | 1 => inst
  | 2 => inst / 8
  | 3 => inst
  | 4 => 16 + inst
  | 5 => 32 + inst / 6
  | 6 => 32 + inst
  | 7 => 32 + inst
  | 8 => 33
  | _ => 32

/-- A stamp of a source: the replica of its die, 0 to 3 ns after the event, never before an earlier stamp of the
source (R26 to R28, log entry 4). -/
def State.stamp (s : State) (kind inst : Nat) : Nat × State :=
  let (f, s) := s.free
  let key := kind * 4096 + inst
  let now := ((s.ts.count.toNat : Int) + s.ts.replica.get 0 (sourceDie kind inst)).toNat + f % 4
  let t := max now (s.ts.stamps.get 0 key)
  (t, { s with ts := { s.ts with stamps := s.ts.stamps.put key t } })

/-! ## The inspection score and injected errors (R501, R504, R508 to R510) -/

/-- The Load Test registers are enabled: LT_STATUS.EN. -/
def State.ltOn (s : State) : Bool := bit (s.reg ltOff).toNat 0

/-- n events of input i: the raw counts always, the accumulators only while the Load Test registers are not enabled. -/
def State.score (s : State) (i weight n : Nat) : State :=
  s.updKs fun k => { k with insp := { k.insp with
    raw := k.insp.raw.put i (sat32 (k.insp.raw.get 0 i + n)),
    acc := if s.ltOn then k.insp.acc else k.insp.acc.put i (sat32 (k.insp.acc.get 0 i + weight * n)) } }

/-- The input and weight of a record's code (R501). -/
def scoreOf (code : Nat) : Option (Nat × Nat) :=
  if code = 0x0311 ∨ code = 0x0313 ∨ code = 0x0320 ∨ code = 0x0324 then some (1, 16384)
  else if code = 0x0336 then some (5, 4096) else none

/-- An injection of one of the kinds due at a target takes place: the next access of the target's kind takes one
(R510). KIND 1 and 2 also name the atom. -/
def State.inject (s : State) (kinds : List Nat) (target la : Nat) : Option Nat × State :=
  let w := (s.reg (ltOff + 0x24)).toNat
  let kind := fld w 0 4
  if s.ltOn && kinds.contains kind && fld w 4 8 = target && fld w 16 12 ≠ 0 &&
      (2 < kind || s.reg64 (ltOff + 0x28) / 64 = la / 64) then
    (some kind, (s.setRfld (ltOff + 0x24) 16 12 (fld w 16 12 - 1)).bump (ltOff + 0x30) 1)
  else (none, s)

/-- What the check of an access finds, with the injection of an uncorrectable error of a kind (R508). -/
def eccWith (e : Ecc) (inj : Option Nat) : Ecc :=
  match inj with
  | none => e
  | some 1 => if e = .uncorrectable then .uncorrectable else .corrected
  | some _ => .uncorrectable

/-! ## Records (R439, R440, R473) -/

/-- The pier of a record's source: sequencers, arrays and vector engines have one (R439). -/
def sourcePier (kind inst : Nat) : Option Nat :=
  if kind = 1 ∨ kind = 3 then some inst else if kind = 2 then some (inst / 8) else none

/-- An uncorrected memory error names the tag of an open step before its local completion (R236 UE); a record raised for
a task on one of the step's evaluation piers, `own`, is that of an evaluation task (R244). -/
def State.noteUncorrected (s : State) (own : Option Nat) (code : Nat) (error : Bool) (tag : Option Nat) : State :=
  match tag with
  | some t =>
    if error && code / 256 = 3 && s.ctxTag (tagCtx t) = t then
      let mark (r : StepRun) : StepRun :=
        if r.localStamp ≠ 0 || (own.map fun p => bit r.evalPiers p).getD false then r
        else { r with uncorrected := true }
      s.updCtx (tagCtx t) fun c => { c with step := c.step.map mark }
    else s
  | none => s

/-- Append a record with a given stamp to those on their way to the keystone; some codes are inputs to the score. `own`
is the pier of the task that raised it, where a task did. -/
def State.recordFor (s : State) (own : Option Nat) (stamp kind inst code : Nat) (error : Bool) (tag : Option Nat)
    (detail : List Byte) : State :=
  let s := match scoreOf code with
    | some (i, w) => if error then s.score i w 1 else s
    | none => s
  let s := s.noteUncorrected own code error tag
  s.updKs fun k => { k with records := k.records ++
    [{ stamp := stamp, source := s.moduleId * 2 ^ 19 + kind * 2 ^ 15 + inst, code := code, error := error, tag := tag,
       detail := sliceBytes detail 0 40 }] }

/-- A record with a given stamp, raised by its source. -/
def State.recordAt (s : State) (stamp kind inst code : Nat) (error : Bool) (tag : Option Nat) (detail : List Byte) :
    State := s.recordFor (sourcePier kind inst) stamp kind inst code error tag detail

/-- Raise a record: it is stamped now (R27). -/
def State.record (s : State) (kind inst code : Nat) (error : Bool) (tag : Option Nat) (detail : List Byte) : State :=
  let (t, s) := s.stamp kind inst
  s.recordAt t kind inst code error tag detail

/-- The task layout of a record's detail (R440). -/
def taskDetail (id qsel pier word va under : Nat) : List Byte :=
  toBytes id 2 ++ toBytes qsel 1 ++ toBytes pier 1 ++ toBytes word 4 ++ toBytes va 8 ++ toBytes under 2

/-- A detail of numbers with their widths in bytes, one after the other. -/
def detail (l : List (Nat × Nat)) : List Byte := (l.map fun x => toBytes x.1 x.2).flatten

/-! ## Places (R249, R556) -/

/-- What a local address names. -/
inductive Place where
  | stack (n o : Nat)
  | sram (p o : Nat)
  | port (p j : Nat)
  | absent
deriving DecidableEq, Repr

/-- The place of a local address (R249). -/
def place (la : Nat) : Place :=
  if la < 2 ^ 40 then (if la % 2 ^ 36 < 48 * 2 ^ 30 then .stack (la / 2 ^ 36) (la % 2 ^ 36) else .absent)
  else if la < 2 ^ 40 + 2 ^ 32 then
    (if la % 2 ^ 28 < 160 * 2 ^ 20 then .sram (la % 2 ^ 40 / 2 ^ 28) (la % 2 ^ 28) else .absent)
  else if 2 ^ 41 ≤ la ∧ la < 2 ^ 41 + 2 ^ 29 then
    (if la % 2 ^ 25 < 12 * 2 ^ 21 then .port (la % 2 ^ 41 / 2 ^ 25) (la % 2 ^ 25 / 2 ^ 21) else .absent)
  else .absent

/-- The local page number of a local address. -/
def pageOf (la : Nat) : Nat := la / 2 ^ 21

/-- Local address of offset o in stack n. -/
def stackAddr (n o : Nat) : Nat := n * 2 ^ 36 + o
/-- Local address of offset o in the staging SRAM of pier p. -/
def sramAddr (p o : Nat) : Nat := 2 ^ 40 + p * 2 ^ 28 + o
/-- Local address of reply port j of pier p (R556). -/
def portAddr (p j : Nat) : Nat := 2 ^ 41 + p * 2 ^ 25 + j * 2 ^ 21

/-- The first byte of the atom that holds an address. -/
def atomOf (la : Nat) : Nat := la / 64 * 64

/-- The channel of a stack offset (R251). -/
def channelOf (o : Nat) : Nat := fld o 7 5 ^^^ fld o 12 5 ^^^ fld o 17 5

/-- Where a stack with channel c mapped out stores offset o (R285). A 4 KiB block holds one granule of each channel, at
t = c XOR the block's own channel bits; so the granule of c in block b of page q is number j = 512 q + b, and the m-th
granule of a withdrawn page outside c is the (m mod 31)-th of block m / 31, counted past t. -/
def relocate (c o : Nat) : Nat :=
  if channelOf o ≠ c ∨ 23808 ≤ o / 2 ^ 21 then o
  else
    let j := 512 * (o / 2 ^ 21) + fld o 12 9
    let m := j % 15872
    let base := (23808 + j / 15872) * 2 ^ 21 + m / 31 * 4096
    base + 128 * (if m % 31 < channelOf base ^^^ c then m % 31 else m % 31 + 1) + o % 128

/-- The channel that stores offset o of stack n under its channel map (R251, R285). -/
def State.channelAt (s : State) (n o : Nat) : Nat :=
  match (s.stack n).mapped with
  | some c => channelOf (relocate c o)
  | none => channelOf o

/-- The page-owner word of a local page; pages 0 to 79 of a stack are HELD (R250, R261). -/
def State.owner (s : State) (page : Nat) : Nat :=
  match s.owners.find page with
  | some w => w.toNat
  | none => match place (page * 2 ^ 21) with
    | .stack _ o => if o / 2 ^ 21 < 80 then 3 * 2 ^ 18 else 0
    | _ => 0

/-- Write a page-owner word. -/
def State.setOwner (s : State) (page w : Nat) : State :=
  { s with owners := s.owners.put page (BitVec.ofNat 32 w) }

/-- The words of an owned page (R261). -/
def ownerWord (tag state : Nat) (exported : Bool) : Nat := tag % 2 ^ 18 + state * 2 ^ 18 + b2n exported * 2 ^ 21

/-- The stack is in service (R284, R286, R453). -/
def State.stackUp (s : State) (n : Nat) : Bool := (s.stack n).up && !(s.stack n).oos && !(s.stack n).dead

/-- The pier is placeable: its Ready Map bit is set (R19, R454). -/
def State.placeable (s : State) (p : Nat) : Bool := (s.pier p).ready && s.stackUp p

/-! ## The owner rule (R262) -/

/-- What the memory that holds an address answers before any data move. -/
inductive Served where
  | ok
  | stale
  | fault (code : Nat)
deriving DecidableEq, Repr

/-- The page-owner rule, with its counts at stack n (R262). -/
def State.ownerRule (s : State) (n la tag : Nat) (peer : Bool) : Served × State :=
  let w := s.owner (pageOf la)
  let t := fld w 0 18
  if fld w 18 3 = 1 ∧ t = tag then
    (if peer && !bit w 21 then (.stale, (s.bump (dmcOff n + 0x44) 1).orReg (dmcOff n + 8) 8) else (.ok, s))
  else if fld w 18 3 ≠ 1 ∨ t / 4096 = tag / 4096 then (.stale, s.bump (dmcOff n + 0x40) 1)
  else (.stale, (s.bump (dmcOff n + 0x44) 1).orReg (dmcOff n + 8) 8)

/-- The base die of stack n takes requests: the stack is in service and no pier reset runs (R279, R284). The answer to a
request that a pier reset refuses is that of a stack out of service (DESIGN CHOICE, log entry 131). -/
def State.stackOpen (s : State) (n : Nat) : Bool := s.stackUp n && !(s.stack n).resetting

/-- Whether a request is served (R249, R262, R266, R279, R284). -/
def State.serve (s : State) (la tag : Nat) (peer : Bool) : Served × State :=
  match place la with
  | .stack n _ =>
    if !s.stackOpen n then (.fault 0x0323, s)
    else if (s.stack n).fenced = some tag then (.stale, s.bump (dmcOff n + 0x40) 1)
    else s.ownerRule n la tag peer
  | .sram p _ => s.ownerRule p la tag peer
  | _ => (.fault 0x0302, s)

/-! ## Errors of atoms (R282, R284) -/

/-- Record failed channels of a stack in the settings store (R284), unless nothing may be written there (R532). -/
def State.noteFailed (s : State) (n mask : Nat) : State :=
  if s.ks.storeLocked then s
  else s.updKs fun k => { k with failedChannels := k.failedChannels.put n (k.failedChannels.get 0 n ||| mask) }

/-- A channel of a stack fails at run time: the stack leaves service (R284, R286). -/
def State.channelFail (s : State) (n c count : Nat) : State :=
  let second := (s.reg (dmcOff n + 0xC)).toNat ≠ 0 && !bit (s.reg (dmcOff n + 0xC)).toNat c
  let s := (s.orReg (dmcOff n + 0xC) (2 ^ c)).orReg (dmcOff n + 8) 4
  let s := s.updStack n fun x => { x with oos := true, dead := x.dead || second }
  let s := s.noteFailed n (2 ^ c)
  let owned := fun (x : Nat × BitVec 32) =>
    (match place (x.1 * 2 ^ 21) with | .stack m _ => m = n | _ => false) && fld x.2.toNat 18 3 = 1
  let tags := ((s.owners.filter owned).map fun x => fld x.2.toNat 0 18).dedup
  tags.foldl (fun s t => s.record 4 n 0x0322 true (some t) (detail [(c, 1), (0, 3), (count, 4)])) s

/-- Count an uncorrectable atom and fail its channel after eight within 1 s (R282, R284). -/
def State.noteUe (s : State) (n o : Nat) : State :=
  let s := s.bump (dmcOff n + 0x3C) 1
  let c := s.channelAt n o
  let recent := (s.elapsed, c) :: (s.stack n).recentUe.filter fun x => s.elapsed < x.1 + 10 ^ 9
  let s := s.updStack n fun x => { x with recentUe := recent }
  let k := (recent.filter fun x => x.2 = c).length
  if k = 8 then s.channelFail n c k else s

/-- Count a corrected atom, written back on its channel, and raise its event, merged to one a page a second (R282). -/
def State.noteCe (s : State) (n la : Nat) : State :=
  let s := ((s.add64 (dmcOff n + 0x30) 64).bump (dmcOff n + 0x38) 1).score 0 16 1
  let page := pageOf la
  let due := match (s.stack n).ceEvents.find page with
    | some (t, _) => decide (t + 10 ^ 9 ≤ s.elapsed)
    | none => true
  let held := match (s.stack n).ceEvents.find page with
    | some (_, k) => k
    | none => 0
  if due then
    let w := s.owner page
    let s := s.record 4 n 0x0301 false (if fld w 18 3 = 1 then some (fld w 0 18) else none)
      (detail [(atomOf la, 6), (s.channelAt n (la % 2 ^ 36), 1), (0, 1), (held + 1, 4)])
    s.updStack n fun x => { x with ceEvents := x.ceEvents.put page (s.elapsed, 0) }
  else
    s.updStack n fun x =>
      { x with ceEvents := x.ceEvents.put page ((x.ceEvents.get (0, 0) page).1, held + 1) }

/-- The staging SRAM of pier p serves n bytes; what it served more than 4 µs ago is forgotten, longer than 1,024 array
cycles at the slowest clock (R229, R464). -/
def State.noteSram (s : State) (p n : Nat) : State :=
  { s with sramLog := (s.elapsed, p, n) :: s.sramLog.filter fun x => s.elapsed < x.1 + 4000 }

/-- The atom of an address is held uncorrectable. -/
def State.isBad (s : State) (la : Nat) : Bool := decide (la / 64 ∈ s.badAtoms)

/-! ## Accesses of one atom -/

/-- What stops a memory access: a status code, the context-virtual address, and the local address reached. -/
structure MemFault where
  code : Nat
  va : Nat
  la : Nat
deriving DecidableEq, Repr

/-- The task for which a unit accesses memory: its pier and TASK_ID; none for the keystone, the base dies and peers. -/
abbrev Client := Option (Nat × Nat)

/-- The detail of 0x0320 and 0x0324 (R440); 0x0324 has no address and no TASK_ID. -/
def State.atomDetail (s : State) (la va id : Nat) : List Byte :=
  detail [(atomOf la, 6), (s.channelAt (la / 2 ^ 36) (la % 2 ^ 36), 1), (0, 1), (va, 8), (id, 2)]

/-- The check of an atom of stack k that an access reads: a corrected one is counted and written back, an uncorrectable
one counted and held (R282). `ecc` is what the check finds for an atom that the state does not hold uncorrectable. -/
def State.checkAtom (s : State) (k la : Nat) (ecc : Ecc) : Bool × State :=
  let (inj, s) := s.inject [1, 2] k la
  let ecc := eccWith ecc inj
  if s.isBad la || ecc = .uncorrectable then
    (false, ({ s with badAtoms := (la / 64) :: s.badAtoms.filter (· ≠ la / 64) }).noteUe k (la % 2 ^ 36))
  else (true, if ecc = .corrected then s.noteCe k la else s)

/-- Read n bytes inside one atom at a local address: the owner rule, then the atom's check (R262, R282). -/
def State.readAtom (s : State) (la n tag : Nat) (peer : Bool) (ecc : Ecc) (va : Nat) :
    Except MemFault (List Byte) × State :=
  match s.serve la tag peer with
  | (.stale, s) => (.error ⟨0x0304, va, la⟩, s)
  | (.fault c, s) => (.error ⟨c, va, la⟩, s)
  | (.ok, s) =>
    match place la with
    | .stack k _ =>
      match (s.add64 (dmcOff k + 0x28) 64).checkAtom k la ecc with
      | (true, s) => (.ok (Memory.readList s.mem la n), s)
      | (false, s) => (.error ⟨0x0320, va, la⟩, s.orReg (dmcOff k + 8) 1)
    | .sram p _ => (.ok (Memory.readList s.mem la n), s.noteSram p n)
    | _ => (.ok (Memory.readList s.mem la n), s)

/-- Write bytes inside one atom at a local address (R254, R262, R282). A write of part of an atom reads it to merge it
(DEDUCED, log entry 132); `ecc` is what that read finds for an atom that the state does not hold uncorrectable, and one
found so takes the bytes, stays uncorrectable, and is recorded for the writer. -/
def State.writeAtom (s : State) (who : Client) (la : Nat) (d : List (Byte × Bool)) (tag : Nat) (peer : Bool) (ecc : Ecc)
    (va : Nat) : Option MemFault × State :=
  match s.serve la tag peer with
  | (.stale, s) => (some ⟨0x0304, va, la⟩, s)
  | (.fault c, s) => (some ⟨c, va, la⟩, s)
  | (.ok, s) =>
    let s' := { s with mem := Memory.writeMasked s.mem la d }
    match place la with
    | .stack k o =>
      let s' := s'.add64 (dmcOff k + 0x30) 64
      if d.length = 64 && d.all (·.2) then (none, { s' with badAtoms := s'.badAtoms.filter (· ≠ la / 64) })
      else
        let s' := s'.add64 (dmcOff k + 0x28) 64
        if s'.isBad la || ecc = .uncorrectable then
          let s' := (({ s' with badAtoms := (la / 64) :: s'.badAtoms.filter (· ≠ la / 64) }).noteUe k o).orReg
            (dmcOff k + 8) 1
          let (t, s') := s'.stamp 4 k
          (none, s'.recordFor (who.map (·.1)) t 4 k 0x0320 true (some tag)
            (s'.atomDetail la va ((who.map (·.2)).getD 0)))
        else (none, s')
    | .sram p _ => (none, s'.noteSram p d.length)
    | _ => (none, s')

/-! ## Translation (R256 to R260) -/

/-- The kinds of permission: reads, writes, reductions (R258). -/
inductive Perm where
  | rd | wr | red
deriving DecidableEq, Repr

/-- Outcome of a translation. -/
inductive Xlat where
  | fault (code : Nat)
  | here (la : Nat)
  | far (module la tag : Nat)
deriving DecidableEq, Repr

/-- The table entry a virtual page selects, if the VPN lies in its range (R256, R257). -/
def State.xlEntry (s : State) (tag va : Nat) : Option Nat :=
  if 2 ^ 41 ≤ va then none
  else
    let c := s.ctx (tagCtx tag)
    let vpn := fld va 21 19
    if bit va 40 then (if vpn < c.rcount then some (393216 + c.rbase + vpn) else none)
    else if vpn < c.lcount then some (c.lbase + vpn) else none

/-- Translate a context-virtual address for a request (R260). -/
def State.translate (s : State) (tag va : Nat) (perm : Perm) : Xlat :=
  match s.xlEntry tag va with
  | none => .fault 0x0302
  | some i =>
    let e := (s.xlate.get 0 i).toNat
    let pbit := match perm with | .rd => 1 | .wr => 2 | .red => 3
    if !bit e 0 || fld e 4 2 = 3 then .fault 0x0302
    else if fld e 8 18 ≠ tag then .fault 0x0304
    else if !bit e pbit then .fault 0x0303
    else
      let la := fld e 32 27 * 2 ^ 21 + fld va 0 21
      if fld e 4 2 = 2 then .far (fld e 64 13) la (fld e 78 18) else .here la

/-- The translation cache of compute die p serves table entry i: an entry it lacks is read from the replica in the die's
own stack, and kept if it is valid. Which entry a full cache of 2,048 gives up is a free value: the spec names no rule
for it (log entry 130; R259). -/
def State.cacheFill (s : State) (p i : Nat) : State :=
  if (s.pier p).cache.contains i then s
  else
    let s := s.add64 (dmcOff p + 0x28) 64
    if !bit (s.xlate.get 0 i).toNat 0 then s
    else if (s.pier p).cache.length < 2048 then s.updPier p fun x => { x with cache := i :: x.cache }
    else
      let (f, s) := s.free
      s.updPier p fun x => { x with cache := i :: x.cache.eraseIdx (f % 2048) }

/-- The keystone writes k entries of the translation table: each goes to the replica of every stack that is up, a part of
an atom at a time (R259). The replicas always agree, so the state holds their one content (log entry 130). -/
def State.replicaWrites (s : State) (k : Nat) : State :=
  (List.range 16).foldl (fun s n =>
    if (s.stack n).up then (s.add64 (dmcOff n + 0x28) (64 * k)).add64 (dmcOff n + 0x30) (64 * k) else s) s

/-- Entries of the table are invalidated in the 16 translation caches (R263 step 2). -/
def State.invalidate (s : State) (l : List Nat) : State :=
  { s with piers := s.piers.map fun x => (x.1, { x.2 with cache := x.2.cache.filter fun i => !l.contains i }) }

/-- A unit of compute die p translates an address through the die's cache (R259, R260). -/
def State.translateAt (s : State) (p tag va : Nat) (perm : Perm) : Xlat × State :=
  match s.xlEntry tag va with
  | none => (.fault 0x0302, s)
  | some i => (s.translate tag va perm, s.cacheFill p i)

/-- The translation of an access for a task, through its die's cache, or for the keystone, which holds the table. -/
def State.translateFor (s : State) (who : Client) (tag va : Nat) (perm : Perm) : Xlat × State :=
  match who with
  | some (p, _) => s.translateAt p tag va perm
  | none => (s.translate tag va perm, s)

/-! ## Accesses of a range of context-virtual addresses -/

/-- Bytes from va to the end of its atom, at most n. -/
def atomPart (va n : Nat) : Nat := min n (64 - va % 64)

/-- Read n bytes at a context-virtual address, atom by atom. `reach` says which places the unit's port reaches; any
other place, and a remote page, faults with `code` (R60, R172). The fuel is a bound on the atoms. -/
def State.readVaFuel (who : Client) (tag : Nat) (reach : Place → Bool) (code : Nat) :
    State → Nat → Nat → Nat → Except MemFault (List Byte) × State
  | s, 0, _, _ => (.ok [], s)
  | s, k + 1, va, n =>
    if n = 0 then (.ok [], s)
    else match s.translateFor who tag va .rd with
      | (.fault c, s) => (.error ⟨c, va, 0⟩, s)
      | (.far _ _ _, s) => (.error ⟨code, va, 0⟩, s)
      | (.here la, s) =>
        if !reach (place la) then (.error ⟨code, va, la⟩, s)
        else match s.readAtom la (atomPart va n) tag false .clean va with
          | (.error f, s) => (.error f, s)
          | (.ok d, s) =>
            match State.readVaFuel who tag reach code s k (va + atomPart va n) (n - atomPart va n) with
            | (.ok r, s) => (.ok (d ++ r), s)
            | (.error f, s) => (.error f, s)

/-- Read n bytes at a context-virtual address. -/
def State.readVa (s : State) (who : Client) (tag : Nat) (reach : Place → Bool) (code va n : Nat) :
    Except MemFault (List Byte) × State :=
  State.readVaFuel who tag reach code s (n / 64 + 2) va n

/-- Write bytes at a context-virtual address, atom by atom. -/
def State.writeVaFuel (who : Client) (tag : Nat) (reach : Place → Bool) (code : Nat) :
    State → Nat → Nat → List Byte → Option MemFault × State
  | s, 0, _, _ => (none, s)
  | s, k + 1, va, d =>
    if d = [] then (none, s)
    else match s.translateFor who tag va .wr with
      | (.fault c, s) => (some ⟨c, va, 0⟩, s)
      | (.far _ _ _, s) => (some ⟨code, va, 0⟩, s)
      | (.here la, s) =>
        if !reach (place la) then (some ⟨code, va, la⟩, s)
        else
          let n := atomPart va d.length
          match s.writeAtom who la ((d.take n).map fun b => (b, true)) tag false .clean va with
          | (some f, s) => (some f, s)
          | (none, s) => State.writeVaFuel who tag reach code s k (va + n) (d.drop n)

/-- Write bytes at a context-virtual address. -/
def State.writeVa (s : State) (who : Client) (tag : Nat) (reach : Place → Bool) (code va : Nat) (d : List Byte) :
    Option MemFault × State :=
  State.writeVaFuel who tag reach code s (d.length / 64 + 2) va d

/-- Write several runs of bytes; the first fault stops the rest. -/
def State.writeRuns (s : State) (who : Client) (tag : Nat) (reach : Place → Bool) (code : Nat) :
    List (Nat × List Byte) → Option MemFault × State
  | [] => (none, s)
  | (va, d) :: r => match s.writeVa who tag reach code va d with
    | (some f, s) => (some f, s)
    | (none, s) => State.writeRuns s who tag reach code r

/-- Read several runs of bytes; the first fault stops the rest. -/
def State.readRuns (s : State) (who : Client) (tag : Nat) (reach : Place → Bool) (code : Nat) :
    List (Nat × Nat) → Except MemFault (List (List Byte)) × State
  | [] => (.ok [], s)
  | (va, n) :: r => match s.readVa who tag reach code va n with
    | (.error f, s) => (.error f, s)
    | (.ok d, s) => match State.readRuns s who tag reach code r with
      | (.error f, s) => (.error f, s)
      | (.ok l, s) => (.ok (d :: l), s)

/-- Places of the module's memory: any stack or staging SRAM. -/
def reachMemory : Place → Bool
  | .stack _ _ => true
  | .sram _ _ => true
  | _ => false

/-- The pier's own staging SRAM (R57). -/
def reachSram (p : Nat) : Place → Bool
  | .sram q _ => q = p
  | _ => false

/-- The pier's own staging SRAM or its own stack (R57, R172). -/
def reachOwn (p : Nat) : Place → Bool
  | .sram q _ => q = p
  | .stack n _ => n = p
  | _ => false

/-- RSH_PROGRESS.BP of a job (R377). -/
def ReshardJob.bp (j : ReshardJob) : Nat := if j.rowsTotal = 0 then 0 else 10000 * j.rowsDone / j.rowsTotal

/-! ## Tally counters (R134, R136, R137) -/

/-- Counter TC of pier p. -/
def State.tc (s : State) (p t : Nat) : Nat := (s.pier p).tcs.get 0 t

/-- Add a signed increment, modulo 2^32. -/
def State.tcAdd (s : State) (p t : Nat) (inc : Int) : State :=
  s.updPier p fun x => { x with tcs := x.tcs.put t (wrap ((x.tcs.get 0 t : Nat) + inc) 32) }

/-- A counter write (R135 TSET, R168). -/
def State.tcSet (s : State) (p t v : Nat) : State := s.updPier p fun x => { x with tcs := x.tcs.put t (v % 2 ^ 32) }

/-- The wait is satisfied (R134). -/
def tcHolds (tc value : Nat) : Bool := decide ((tc + 2 ^ 32 - value % 2 ^ 32) % 2 ^ 32 < 2 ^ 31)

/-- A remote increment under the tag rule of R137. -/
def State.tcRemote (s : State) (p tag t : Nat) (inc : Int) : State :=
  if (s.pier p).tag = tag then s.tcAdd p t inc else s.bump (psqOff p + 0x54) 1

/-- The abutment die that an increment crosses: from a pier or its base die to another pier by R21, from an abutment die
the die itself. -/
def Tally.cross (t : Tally) : Option Nat :=
  if 32 ≤ t.src then some (t.src - 32) else if t.src % 16 = t.dst then none else some ((t.src + t.dst) % 4)

/-- Send an increment over the package network from a die to a pier (R137). -/
def State.tcSend (s : State) (src dst tag t : Nat) (inc : Int) : State :=
  { s with tallies := s.tallies ++ [{ src := src, dst := dst, tag := tag, tc := t, inc := inc }] }

end Sys2Proof.Machine
end

