-- ==== Sys2Proof/Machine/SeqOps.lean ====
section
/-! DEFINITION. The pier sequencer's shared operations: faulting a task, fetching and dispatching an instruction,
queueing it, and completing it (R111 to R121, R143, R158). -/
namespace Sys2Proof.Machine
open Sys2Proof

/-! ## Faulting a task (R158) -/

/-- The detail of the error record of a task's fault (R440). -/
def State.faultDetail (s : State) (id qsel pier word : Nat) (f : MemFault) (under : Nat) : List Byte :=
  if f.code = 0x0320 then s.atomDetail f.la f.va id else taskDetail id qsel pier word f.va under

/-- The TASK_ID of a started task. -/
def PierState.taskId (x : PierState) (ser : Nat) : Nat :=
  ((x.started.find? fun t => t.ser = ser).map fun t => t.id).getD 0

/-- A unit of pier p accesses memory for the task with the serial ser. -/
def State.client (s : State) (p ser : Nat) : Client := some (p, (s.pier p).taskId ser)

/-- Set error bits of units, each a register offset and a bit. -/
def State.setBits (s : State) (l : List (Nat × Nat)) : State := l.foldl (fun s x => s.orReg x.1 (2 ^ x.2)) s

/-- Entries of queued tasks that fault with a later task, as started tasks that have ended (R158 steps 2 and 4). -/
def endedTask (code : Nat) (t : Task) : StartedTask :=
  { ser := t.ser, id := t.id, left := 0, ended := true, endCode := 0, status := some code, stamp := none }

/-- Entries of all queues with the serial ser. -/
def PierState.queuedOf (x : PierState) (ser : Nat) : Nat :=
  ((x.queues.map fun q => (q.2.filter fun e => e.ser = ser).length)).sum

/-- Steps 1 and 2 of R158 from task `ser` on: dispatch stops, entries not started are discarded, `ser` takes `code` and
every later task `later`. -/
def PierState.stopFrom (x : PierState) (ser code later : Nat) : PierState :=
  let mark (t : StartedTask) : StartedTask :=
    if t.ser < ser then t
    else { t with left := t.left - x.queuedOf t.ser, ended := true,
                  status := some (t.status.getD (if t.ser = ser then code else later)) }
  { x with
    run := none, fetchBuf := [], hold := none, taskQueue := [], seq := .faulting,
    started := x.started.map mark ++ x.taskQueue.map fun t => endedTask (if t.ser = ser then code else later) t,
    queues := x.queues.map fun q => (q.1, q.2.filter fun e => e.ser < ser) }

/-- An instruction of task `ser` faults its task (R158): the first fault stops dispatch and is kept for step 5; a
fault while FAULTING raises its own record at once. `bits` are the error bits set with the record. -/
def State.seqFault (s : State) (p ser qsel word : Nat) (f : MemFault) (under : Nat) (bits : List (Nat × Nat)) : State :=
  let x := s.pier p
  let d := s.faultDetail (x.taskId ser) qsel p word f under
  match x.fault with
  | some g =>
    let s := (s.record 1 p f.code true (some x.tag) d).setBits bits
    s.updPier p fun x => { x with started := x.started.map fun t =>
      if t.ser = ser ∧ ser < g.ser ∧ t.status = none then { t with status := some f.code } else t }
  | none =>
    s.updPier p fun x => { x.stopFrom ser f.code 0x0528 with
      fault := some { ser := ser, id := x.taskId ser, code := f.code, qsel := qsel, word := word, detail := d, bits := bits } }

/-- A fault with no address. -/
def State.seqFaultCode (s : State) (p ser qsel word code : Nat) (bits : List (Nat × Nat)) : State :=
  s.seqFault p ser qsel word ⟨code, 0, 0⟩ 0 bits

/-! ## Completing instructions (R116, R164) -/

/-- Every task whose END has been dispatched and whose instructions have all completed is complete: it takes its stamp
now, if it has none (R116). -/
def State.stampTasks (s : State) (p : Nat) : State :=
  ((s.pier p).started.filter fun t => t.ended && t.left = 0 && t.stamp.isNone).foldl (fun s t =>
    let (v, s) := s.stamp 1 p
    s.updPier p fun x => { x with started := x.started.map fun y =>
      if y.ser = t.ser then { y with stamp := some v } else y }) s

/-- A started instruction of a task ends. -/
def PierState.less (x : PierState) (ser : Nat) : PierState :=
  { x with started := x.started.map fun t => if t.ser = ser then { t with left := t.left - 1 } else t }

/-- One instruction of a task completes. -/
def State.complete (s : State) (p ser : Nat) : State :=
  ((s.updPier p fun x => x.less ser).add64 (psqOff p + 0x58) 1).stampTasks p

/-- Instructions of several tasks complete, in order. -/
def State.completeAll (s : State) (p : Nat) (l : List Nat) : State := l.foldl (fun s ser => s.complete p ser) s

/-- A started instruction ends by a fault: it no longer counts as outstanding. -/
def State.drop (s : State) (p ser : Nat) : State := (s.updPier p fun x => x.less ser).stampTasks p

/-- Add a task to those that wait behind the youngest pass of a list. -/
def PassRun.follow (ser : Nat) : List PassRun → List PassRun
  | [] => []
  | [y] => [{ y with behind := y.behind ++ [ser] }]
  | y :: r => y :: PassRun.follow ser r

/-- Add a task to those that wait behind the youngest transfer of a list. -/
def Transfer.follow (ser : Nat) : List Transfer → List Transfer
  | [] => []
  | [y] => [{ y with behind := y.behind ++ [ser] }]
  | y :: r => y :: Transfer.follow ser r

/-- A control instruction has executed at the head of queue q. Its completion is signalled in the queue's order: at once
if no earlier instruction of the queue is in flight, else right after the youngest of them (R144). -/
def State.completeCtl (s : State) (p q ser : Nat) : State :=
  let x := s.pier p
  if q < 8 && (x.arrays.get Array8.reset q).passes ≠ [] then
    s.updPier p fun x =>
      let y := x.arrays.get Array8.reset q
      { x with arrays := x.arrays.put q { y with passes := PassRun.follow ser y.passes } }
  else if 9 ≤ q && x.transfers.get [] (q - 9) ≠ [] then
    s.updPier p fun x =>
      { x with transfers := x.transfers.put (q - 9) (Transfer.follow ser (x.transfers.get [] (q - 9))) }
  else s.complete p ser

/-! ## Fetching and dispatching (R115, R118, R119, R143, R148) -/

/-- Words of the fetch buffer: 64 KiB (R117). -/
def fetchCap : Nat := 4096

/-- Words from `off` to the end of its 1 KiB line, of the running loop's body, or of the block (R117). -/
def RunTask.lineLeft (r : RunTask) (off : Nat) : Nat :=
  let stop := match r.loops with
    | f :: _ => if off ≤ f.last then f.last + 1 else r.task.len
    | [] => r.task.len
  max 1 (min (64 - (r.task.start / 16 + off) % 64) (stop - off))

/-- Bytes of the block from word `off` on. -/
def State.readBlock (s : State) (p : Nat) (r : RunTask) (off n : Nat) : Except MemFault (List Byte) × State :=
  s.readVa (some (p, r.task.id)) (s.pier p).tag reachMemory 0x052B ((r.task.start + 16 * off) % 2 ^ 64) (16 * n)

/-- Word `off` of a task's block, out of the fetch buffer. A word that is not there is read with the rest of its line,
or alone if the rest cannot be read; the buffer keeps the newest words, so that the body of a running loop stays in it
and is not read again (R117). -/
def State.fetchWord (s : State) (p : Nat) (r : RunTask) (off : Nat) : Except MemFault Nat × State :=
  match (s.pier p).fetchBuf.find? fun w => w.1 = off with
  | some w => (.ok w.2, s)
  | none =>
    let keep (s : State) (d : List Byte) : State :=
      let l := (pieces 16 64 d).map ofBytes
      s.updPier p fun x => { x with
        fetchBuf := ((List.zip ((List.range l.length).map fun i => off + i) l) ++ x.fetchBuf).take fetchCap }
    match s.readBlock p r off (r.lineLeft off) with
    | (.ok d, s) => (.ok (ofBytes (d.take 16)), keep s d)
    | (.error _, _) =>
      match s.readBlock p r off 1 with
      | (.ok d, s) => (.ok (ofBytes d), keep s d)
      | (.error f, s) => (.error f, s)

/-- What stands at the sequencer's program counter. -/
inductive Fetched where
  | ok (w0 w1 : Nat)
  | fault (code under va : Nat)
deriving DecidableEq, Repr

/-- Fetch and decode the next instruction: opcode and length checks (R115, R117 to R119, R148). -/
def State.fetchInstr (s : State) (p : Nat) (r : RunTask) : Fetched × State :=
  if r.task.len ≤ r.pc then (.fault 0x0529 0 0, s)
  else match s.fetchWord p r r.pc with
    | (.error f, s) => (.fault 0x0522 f.code f.va, s)
    | (.ok w0, s) =>
      if isSecond w0 || !opKnown (opc w0) then (.fault 0x0520 0 0, s)
      else if isTwoWord (opc w0) then
        if r.task.len ≤ r.pc + 1 then (.fault 0x0529 0 0, s)
        else match s.fetchWord p r (r.pc + 1) with
          | (.error f, s) => (.fault 0x0522 f.code f.va, s)
          | (.ok w1, s) => if isSecond w1 then (.ok w0 w1, s) else (.fault 0x0520 0 0, s)
      else (.ok w0 0, s)

/-- The next word offset after n words, with the back-edges of the running loops (R140). -/
def loopNext : List LoopFrame → Nat → Nat × List LoopFrame
  | [], pc => (pc, [])
  | f :: r, pc =>
    if pc = f.last + 1 then
      (if 1 < f.left then (f.first, { f with left := f.left - 1 } :: r) else loopNext r pc)
    else (pc, f :: r)

/-- The program counter moves past an instruction of n words. -/
def RunTask.advance (r : RunTask) (n : Nat) : RunTask :=
  let x := loopNext r.loops (r.pc + n)
  { r with pc := x.1, loops := x.2 }

/-- Dispatch the next instruction of pier p if it is one that `mine` accepts: the sequencer is RUNNING, a task
dispatches and nothing holds the front end. A word that cannot be fetched or decoded faults the task, whichever
command asks; another legal opcode leaves the state as it was (log entry 1). -/
def State.dispatch (s : State) (p : Nat) (mine : Nat → Bool) (k : State → RunTask → Nat → Nat → State) : State :=
  let x := s.pier p
  match x.seq, x.hold, x.run with
  | .running, none, some r =>
    match s.fetchInstr p r with
    | (.fault code under va, s) => s.seqFault p r.task.ser 13 r.pc ⟨code, va, 0⟩ under []
    | (.ok w0 w1, s') => if mine (opc w0) then k s' r w0 w1 else s
  | _, _, _ => s

/-- The run state after the instruction now dispatching. -/
def State.setRun (s : State) (p : Nat) (r : RunTask) : State := s.updPier p fun x => { x with run := some r }

/-- A front-end instruction takes effect and completes at dispatch (R135, R139). -/
def State.feDone (s : State) (p : Nat) (r : RunTask) : State :=
  (s.setRun p (r.advance 1)).add64 (psqOff p + 0x58) 1

/-- Entries a queue holds (R112). -/
def queueCap (q : Nat) : Nat := if q < 8 then 16 else if q = 8 then 64 else 32

/-- Queue q of a pier. -/
def PierState.queue (x : PierState) (q : Nat) : List Entry := x.queues.get [] q

/-- Replace queue q. -/
def PierState.setQueue (x : PierState) (q : Nat) (l : List Entry) : PierState := { x with queues := x.queues.put q l }

/-- An empty entry for the instruction at the program counter. -/
def entryOf (r : RunTask) (w0 w1 : Nat) : Entry :=
  { ser := r.task.ser, word := r.pc, w0 := BitVec.ofNat 128 w0, w1 := BitVec.ofNat 128 w1, addrs := [], aux := 0,
    desc := 0, layer := 0, sampled := false, sampleRow := 0, signature := 0, gaugeT := 0, mhz := 0, droop := 0,
    no := 0, farAsked := none }

/-- Write an entry of n words into queue q; a full queue stops dispatch and counts a cycle (R112, R143). -/
def State.enqueue (s : State) (p q n : Nat) (r : RunTask) (e : Entry) (also : PierState → PierState) : State :=
  if queueCap q ≤ ((s.pier p).queue q).length then s.bump (psqOff p + 0x50) 1
  else s.updPier p fun x =>
    let x := also x
    { x.setQueue q (x.queue q ++ [e]) with
      run := some (r.advance n),
      started := x.started.map fun t => if t.ser = e.ser then { t with left := t.left + 1 } else t }

/-- The head of a queue. -/
def State.head (s : State) (p q : Nat) : Option Entry := ((s.pier p).queue q).head?

/-- Remove the head of a queue: it starts. -/
def State.pop (s : State) (p q : Nat) : State := s.updPier p fun x => x.setQueue q ((x.queue q).drop 1)

/-- Every earlier instruction of queue q has completed, so that a TSIG at its head executes (R135). -/
def PierState.queueIdle (x : PierState) (q : Nat) : Bool :=
  if q < 8 then (x.arrays.get Array8.reset q).passes.isEmpty
  else if 9 ≤ q then (x.transfers.get [] (q - 9)).isEmpty
  else true

end Sys2Proof.Machine
end

