-- ==== Sys2Proof/Machine/Control.lean ====
section
/-! DEFINITION. The control instructions of the pier sequencer, dispatched and at the head of their queues (R134 to
R142). -/
namespace Sys2Proof.Machine
open Sys2Proof

/-- Dispatch a one-word control instruction with the reserved-field check of R139 and R148. -/
def State.control (s : State) (p o : Nat) (k : State → RunTask → Nat → State) : State :=
  s.dispatch p (· = o) fun s r w _ =>
    if onlyFields w (ctlFields o) then k s r w else s.seqFaultCode p r.task.ser 13 r.pc 0x0521 []

/-- NOP (R139). -/
def execNop (p : Pier) (s : State) : Host.Outcome State Fault Refusal :=
  .next (s.control p 0x04 fun s r _ => s.feDone p r)

/-- END: the task's dispatch ends, with its END_CODE (R116, R139). -/
def execEndTask (p : Pier) (s : State) : Host.Outcome State Fault Refusal :=
  .next (s.control p 0x08 fun s r w =>
    (s.updPier p fun x => { x with
      run := none,
      started := x.started.map fun t =>
        if t.ser = r.task.ser then { t with ended := true, endCode := fld w 8 16 } else t }).add64
      (psqOff p + 0x58) 1 |>.stampTasks p)

/-- SETB: B[D] = IMM (R139). -/
def execSetb (p : Pier) (s : State) : Host.Outcome State Fault Refusal :=
  .next (s.control p 0x0C fun s r w =>
    (s.updPier p fun x => { x with bases := x.bases.put (fld w 8 6) (fld w 64 64) }).feDone p r)

/-- ADDB: B[D] = B[A] + B[C] or B[A] + IMM, modulo 2^64 (R139). -/
def execAddb (p : Pier) (s : State) : Host.Outcome State Fault Refusal :=
  .next (s.control p 0x10 fun s r w =>
    (s.updPier p fun x =>
      let b : Int := if bit w 20 then (x.base (fld w 21 6) : Int) else sext (fld w 32 32) 32
      { x with bases := x.bases.put (fld w 8 6) (wrap ((x.base (fld w 14 6) : Int) + b) 64) }).feDone p r)

/-- The last word of a body is the first word of a two-word instruction whose second word lies in the block behind it
(R140). -/
def State.splitsPair (s : State) (p : Nat) (r : RunTask) (last : Nat) : Bool :=
  if r.task.len ≤ last + 1 then false
  else match s.fetchWord p r last with
    | (.ok w, _) => !isSecond w && isTwoWord (opc w)
    | (.error _, _) => false

/-- LOOP: nesting and bounds are checked at dispatch; COUNT 0 skips the body (R140). -/
def execLoop (p : Pier) (s : State) : Host.Outcome State Fault Refusal :=
  .next (s.control p 0x14 fun s r w =>
    let count := fld w 32 32
    let last := r.pc + 1 + fld w 64 16
    let outer := match r.loops with
      | f :: _ => decide (f.last < last)
      | [] => false
    if 4 ≤ r.loops.length || decide (r.task.len ≤ last) || outer || s.splitsPair p r last then
      s.seqFaultCode p r.task.ser 13 r.pc 0x0523 []
    else if count = 0 then s.feDone p { r with pc := last }
    else (s.setRun p { r with pc := r.pc + 1, loops := { first := r.pc + 1, last := last, left := count } :: r.loops }).add64
      (psqOff p + 0x58) 1)

/-- BR's condition on signed base registers (R141). -/
def brHolds (cond : Nat) (a b : Int) : Bool :=
  match cond with
  | 0 => true
  | 1 => a = b
  | 2 => a ≠ b
  | 3 => decide (a < b)
  | _ => decide (b ≤ a)

/-- BR: the target is checked whether or not the branch is taken (R141). -/
def execBr (p : Pier) (s : State) : Host.Outcome State Fault Refusal :=
  .next (s.control p 0x18 fun s r w =>
    let cond := fld w 8 4
    let target : Int := (r.pc : Int) + sext (fld w 32 32) 32
    let inside := match r.loops with
      | f :: _ => decide ((f.first : Int) ≤ target ∧ target ≤ (f.last : Int))
      | [] => decide (0 ≤ target ∧ target < (r.task.len : Int))
    let x := s.pier p
    if 5 ≤ cond then s.seqFaultCode p r.task.ser 13 r.pc 0x0521 []
    else if !inside then s.seqFaultCode p r.task.ser 13 r.pc 0x0524 []
    else if brHolds cond (sext (x.base (fld w 12 6)) 64) (sext (x.base (fld w 18 6)) 64) then
      (s.setRun p { r with pc := target.toNat }).add64 (psqOff p + 0x58) 1
    else s.feDone p r)

/-- TWAIT: dispatched to its queue, or stopping dispatch when in FE (R135). -/
def execTwait (p : Pier) (s : State) : Host.Outcome State Fault Refusal :=
  .next (s.control p 0x1C fun s r w =>
    let q := fld w 8 4
    if 14 ≤ q then s.seqFaultCode p r.task.ser 13 r.pc 0x0521 []
    else if q = 13 then
      (s.setRun p (r.advance 1)).updPier p fun x => { x with hold := some (.twait (fld w 12 6) (fld w 32 32) r.pc) }
    else s.enqueue p q 1 r (entryOf r w 0) id)

/-- A held TWAIT whose counter satisfies its wait releases its queue, or dispatch (R134, R135). -/
def execTwaitRelease (p : Pier) (q : Fin 14) (s : State) : Host.Outcome State Fault Refusal :=
  .next (
    if q.val = 13 then
      match (s.pier p).hold with
      | some (.twait tc v _) =>
        if tcHolds (s.tc p tc) v then (s.updPier p fun x => { x with hold := none }).add64 (psqOff p + 0x58) 1 else s
      | _ => s
    else match s.head p q with
      | some e =>
        if opc e.w0.toNat = 0x1C ∧ tcHolds (s.tc p (fld e.w0.toNat 12 6)) (fld e.w0.toNat 32 32) then
          (s.pop p q).completeCtl p q e.ser
        else s
      | none => s)

/-- The increment of a TSIG: to the pier's own counter, or sent to another pier (R135, R137). -/
def State.tsigEffect (s : State) (p w : Nat) : State :=
  let inc := sext (fld w 32 16) 16
  if bit w 22 then s.tcSend p (fld w 18 4) (s.pier p).tag (fld w 12 6) inc else s.tcAdd p (fld w 12 6) inc

/-- TSIG at dispatch, or at the head of its queue once every earlier instruction of it has completed (R135). -/
def execTsig (p : Pier) (ph : QPhase) (s : State) : Host.Outcome State Fault Refusal :=
  .next (match ph with
    | .dispatch => s.control p 0x20 fun s r w =>
      let q := fld w 8 4
      if 14 ≤ q then s.seqFaultCode p r.task.ser 13 r.pc 0x0521 []
      else if q = 13 then (s.tsigEffect p w).feDone p r
      else s.enqueue p q 1 r (entryOf r w 0) id
    | .run q => match s.head p q with
      | some e =>
        if opc e.w0.toNat = 0x20 ∧ (s.pier p).queueIdle q then
          ((s.pop p q).tsigEffect p e.w0.toNat).complete p e.ser
        else s
      | none => s)

/-- TSET writes a counter at dispatch (R135). -/
def execTset (p : Pier) (s : State) : Host.Outcome State Fault Refusal :=
  .next (s.control p 0x24 fun s r w => (s.tcSet p (fld w 12 6) (fld w 32 32)).feDone p r)

/-- The marker record of R138 and R439, with a given stamp. -/
def State.markRecord (s : State) (p stamp : Nat) (m : MarkRec) : State :=
  s.recordAt stamp 1 p 0x0510 false (some (s.pier p).tag)
    (detail [(m.code, 2), (m.detail, 4), (m.id, 2), (m.qsel, 1)])

/-- The fields a MARK's record carries. -/
def State.markOf (s : State) (p ser w : Nat) : MarkRec :=
  { id := (((s.pier p).started.find? fun t => t.ser = ser).map fun t => t.id).getD 0, code := fld w 16 16,
    detail := fld w 32 32, qsel := fld w 8 4 }

/-- A MARK record stamped now, KIND 0. -/
def State.markNow (s : State) (p : Nat) (m : MarkRec) : State :=
  let (t, s) := s.stamp 1 p
  s.markRecord p t m

/-- MARK at dispatch, or at the head of its queue, stamped by its KIND (R138). -/
def execMark (p : Pier) (ph : QPhase) (s : State) : Host.Outcome State Fault Refusal :=
  .next (match ph with
    | .dispatch => s.control p 0x28 fun s r w =>
      let q := fld w 8 4
      let kind := fld w 12 2
      if 14 ≤ q || kind = 3 || (kind ≠ 0 && 8 ≤ q) then s.seqFaultCode p r.task.ser 13 r.pc 0x0521 []
      else if q = 13 then (s.markNow p (s.markOf p r.task.ser w)).feDone p r
      else s.enqueue p q 1 r (entryOf r w 0) id
    | .run q => match s.head p q with
      | some e =>
        if opc e.w0.toNat ≠ 0x28 then s
        else
          let m := s.markOf p e.ser e.w0.toNat
          let a := (s.pier p).arrays.get Array8.reset q
          let kind := fld e.w0.toNat 12 2
          let s' := (s.pop p q).completeCtl p q e.ser
          if kind = 1 then s'.updPier p fun x =>
            let a := x.arrays.get Array8.reset q
            { x with arrays := x.arrays.put q { a with marks := a.marks ++ [m] } }
          else if kind = 2 ∧ a.lastSer = some e.ser then
            (if a.passes.any fun x => x.phase = .entering then s
             else match a.lastEnd with
               | some (_, t) => s'.markRecord p t m
               | none => s'.markNow p m)
          else s'.markNow p m
      | none => s)

/-- SETX: XC[ARRAY] = VALUE (R128, R139). -/
def execSetx (p : Pier) (s : State) : Host.Outcome State Fault Refusal :=
  .next (s.control p 0x2C fun s r w =>
    (s.updPier p fun x => { x with xc := x.xc.put (fld w 8 3) (fld w 32 32) }).feDone p r)

/-- SETL: the layer tag that later passes capture (R139). -/
def execSetl (p : Pier) (s : State) : Host.Outcome State Fault Refusal :=
  .next (s.control p 0x30 fun s r w => (s.updPier p fun x => { x with layer := fld w 8 16 }).feDone p r)

/-- LDD stops dispatch until its descriptors arrive; a range past descriptor 63 is rejected (R139, R142). -/
def execLdd (p : Pier) (s : State) : Host.Outcome State Fault Refusal :=
  .next (s.control p 0x34 fun s r w =>
    if 64 < fld w 8 6 + fld w 14 6 + 1 then s.seqFaultCode p r.task.ser 13 r.pc 0x0526 []
    else
      let a := (s.pier p).addr (fld w 24 24)
      (s.setRun p (r.advance 1)).updPier p fun x => { x with hold := some (.ldd (fld w 8 6) (fld w 14 6 + 1) a r.pc) })

/-- The descriptors of an LDD arrive: they become valid and dispatch resumes (R126, R142). -/
def execLddDescriptorsArrive (p : Pier) (s : State) : Host.Outcome State Fault Refusal :=
  .next (match (s.pier p).hold, (s.pier p).run with
    | some (.ldd first count a word), some r =>
      match s.readVa (some (p, r.task.id)) (s.pier p).tag reachMemory 0x052B a (32 * count) with
      | (.error f, s) => s.seqFault p r.task.ser 13 word f 0 []
      | (.ok d, s) =>
        (s.updPier p fun x => { x with
          hold := none,
          descs := x.descs.putList first ((pieces 32 count d).map fun b => some (BitVec.ofNat 256 (ofBytes b))) }).add64
          (psqOff p + 0x58) 1
    | _, _ => s)

end Sys2Proof.Machine
end

