-- ==== Sys2Proof/Machine/Elem.lean ====
section
/-! DEFINITION. Division, roots, exponentials and logarithms to more bits than any rounding needs, and the activation
functions with their tables (R182, R185 to R189; log entry 11). A fixed-point number x of P bits stands for x / 2^P. -/
namespace Sys2Proof.Machine
open Sys2Proof

/-! ## Correctly rounded algebraic functions (R182, R193, R195) -/

/-- A quotient (R182 DIV): IEEE 754 special cases; the last bit of an inexact quotient is set. -/
def Fp.div (a b : Fp) : Fp :=
  match a, b with
  | .nan, _ => .nan
  | _, .nan => .nan
  | .inf _, .inf _ => .nan
  | .inf n, .fin k _ _ => .inf (n != k)
  | .fin n _ _, .inf k => .fin (n != k) 0 0
  | .fin n m e, .fin k p q =>
    if p = 0 then (if m = 0 then .nan else .inf (n != k))
    else if m = 0 then .fin (n != k) 0 0
    else let r := divMag m p (e - q); .fin (n != k) r.1 r.2

/-- A square root (R182 SQRT). -/
def Fp.sqrt : Fp → Fp
  | .nan => .nan
  | .inf n => if n then .nan else .inf false
  | .fin n m e =>
    if m = 0 then .fin n 0 0 else if n then .nan else let r := sqrtMag m e; .fin false r.1 r.2

/-- A reciprocal square root (R182 RSQRT). -/
def Fp.rsqrt : Fp → Fp
  | .nan => .nan
  | .inf n => if n then .nan else .fin false 0 0
  | .fin n m e =>
    if m = 0 then .inf n else if n then .nan else let r := rsqrtMag m e; .fin false r.1 r.2

/-! ## Fixed-point series -/

/-- Sum of the terms t * r^i / ((k + 1) … (k + i)), the exponential series; r and t have P bits. -/
def expTerms (P : Nat) (r : Nat) : Nat → Nat → Nat → Nat
  | 0, _, _ => 0
  | n + 1, k, t => t + expTerms P r n (k + 1) (t * r / 2 ^ P / (k + 1))

/-- e^r for 0 ≤ r < 1. -/
def expFix (P r : Nat) : Nat := expTerms P r (P / 4 + 40) 0 (2 ^ P)

/-- Sum of z^(2i+1) / (2i + 1): the inverse hyperbolic tangent series; zz is z squared. -/
def atanhTerms (P zz : Nat) : Nat → Nat → Nat → Nat
  | 0, _, _ => 0
  | n + 1, k, t => t / k + atanhTerms P zz n (k + 2) (t * zz / 2 ^ P)

/-- The inverse hyperbolic tangent of 0 ≤ z ≤ 1/3. -/
def atanhFix (P z : Nat) : Nat := atanhTerms P (z * z / 2 ^ P) (P / 3 + 10) 1 z

/-- ln 2. -/
def ln2Fix (P : Nat) : Nat := 2 * atanhFix P (2 ^ P / 3)

/-- Alternating sum of x^(2i+1) / (2i + 1) for x = 1 / q: the inverse tangent series. -/
def atanTerms (q : Nat) : Nat → Nat → Int → Int
  | 0, _, _ => 0
  | n + 1, k, t => t / k - atanTerms q n (k + 2) (t / (q * q))

/-- π by Machin's formula. -/
def piFix (P : Nat) : Nat :=
  (4 * (4 * atanTerms 5 (P / 2) 1 (2 ^ P / 5) - atanTerms 239 (P / 2) 1 (2 ^ P / 239))).toNat

/-- e^x for a fixed-point x of either sign, as a dyadic magnitude. -/
def expDyadic (P : Nat) (x : Int) : Nat × Int :=
  let l := ln2Fix P
  let n := x / (l : Int)
  (2 * expFix P (x - n * l).toNat + 1, n - (P : Int) - 1)

/-- A dyadic magnitude as a fixed-point integer of P bits, truncated. -/
def dyFix (P : Nat) (m : Nat) (e : Int) : Nat :=
  if 0 ≤ e + P then m * 2 ^ (e + P).toNat else m / 2 ^ (-(e + P)).toNat

/-- e^x for x ≤ 0, as a fixed-point number of P bits. -/
def expNegFix (P : Nat) (x : Int) : Nat := let r := expDyadic P x; dyFix P r.1 r.2

/-- A finite value as a fixed-point integer of P bits. -/
def Fp.fix (P : Nat) : Fp → Int
  | .fin n m e => Fp.signed n (dyFix P m e)
  | _ => 0

/-! ## Exponentials and logarithms (R182) -/

/-- Bits of the fixed-point work for FP32 exponentials and logarithms. -/
def elemP : Nat := 320

/-- e^(x * scale): scale is ln 2 for EXP2, none for EXP; exact powers are given exactly. -/
def Fp.expBase (two : Bool) (v : Fp) : Fp :=
  match v with
  | .nan => .nan
  | .inf n => if n then .fin false 0 0 else .inf false
  | .fin n m e =>
    if m = 0 then .fin false 1 0
    else if 9 < (bitLen m : Int) + e then (if n then .fin false 1 (-2000) else .fin false 1 2000)
    else if two && roundIntMag 1 n m e * 2 ^ (-(min e 0)).toNat = m * 2 ^ (max e 0).toNat then
      .fin false 1 (Fp.signed n (roundIntMag 1 n m e))
    else
      let x := v.fix elemP
      let x := if two then x * ln2Fix elemP / 2 ^ elemP else x
      let r := expDyadic elemP x
      .fin false r.1 r.2

/-- e^a (R182 EXP). -/
def Fp.exp (v : Fp) : Fp := v.expBase false
/-- 2^a (R182 EXP2). -/
def Fp.exp2 (v : Fp) : Fp := v.expBase true

/-- ln x for x = m * 2^e, m ≠ 0, as a fixed-point number. -/
def lnFix (P m : Nat) (e : Int) : Int :=
  let k := (bitLen m : Int) - 1
  let f := dyFix P m (-k)
  let up := 2 ^ P + 2 ^ (P - 1) ≤ f
  let z := if up then -(((2 ^ (P + 1) - f) * 2 ^ P / (2 ^ (P + 1) + f) : Nat) : Int)
    else (((f - 2 ^ P) * 2 ^ P / (f + 2 ^ P) : Nat) : Int)
  let a := (2 * atanhFix P z.natAbs : Nat)
  (if z < 0 then -(a : Int) else a) + (k + e + (if up then 1 else 0)) * ln2Fix P

/-- ln a, or log2 a (R182 LOG, LOG2); exact powers of two are exact in LOG2. -/
def Fp.logBase (two : Bool) (v : Fp) : Fp :=
  match v with
  | .nan => .nan
  | .inf n => if n then .nan else .inf false
  | .fin n m e =>
    if m = 0 then .inf true
    else if n then .nan
    else if m = 2 ^ (bitLen m - 1) ∧ (two ∨ (bitLen m : Int) - 1 + e = 0) then Fp.ofInt ((bitLen m : Int) - 1 + e)
    else
      let r := lnFix elemP m e
      let r := if two then r * 2 ^ elemP / ln2Fix elemP else r
      .fin (r < 0) (2 * r.natAbs + 1) (-(elemP : Int) - 1)

/-- ln a (R182 LOG). -/
def Fp.log (v : Fp) : Fp := v.logBase false
/-- log2 a (R182 LOG2). -/
def Fp.log2 (v : Fp) : Fp := v.logBase true

/-! ## Tabled functions (R186) -/

/-- Bits of the fixed-point work for the tables: the left tail of GELU needs the most. -/
def tableP : Nat := 1800

/-- Multiply two fixed-point numbers. -/
def fixMul (P : Nat) (a b : Int) : Int := a * b / 2 ^ P

/-- Sum of z^(2i+1) / (1 * 3 * … * (2i + 1)). -/
def phiTerms (P zz : Nat) : Nat → Nat → Nat → Nat
  | 0, _, _ => 0
  | n + 1, k, t => t + phiTerms P zz n (k + 2) (t * zz / 2 ^ P / (k + 2))

/-- The standard normal density at k/64, and the distribution, as fixed-point numbers. -/
def gaussFix (P : Nat) (k : Int) : Int × Int :=
  let z := (k.natAbs * 2 ^ P / 64)
  let zz := z * z / 2 ^ P
  let root := isqrt (2 * piFix P * 2 ^ P)
  let phi := expNegFix P (-((zz / 2 : Nat) : Int)) * 2 ^ P / root
  let s := phiTerms P zz (500 + 6 * (k.natAbs * k.natAbs / 4096)) 1 z
  let half : Int := 2 ^ (P - 1)
  let part : Int := ((phi * s / 2 ^ P : Nat) : Int)
  ((phi : Int), if k < 0 then half - part else half + part)

/-- The logistic function at a fixed-point argument: 1 / (1 + e^-z). -/
def sigFix (P : Nat) (z : Int) : Int :=
  let e := expNegFix P (-(z.natAbs : Int))
  let pos := 2 ^ P * 2 ^ P / (2 ^ P + e)
  if z < 0 then ((e * 2 ^ P / (2 ^ P + e) : Nat) : Int) else (pos : Int)

/-- f, f′, f″ and f‴ at knot k/64 of the tabled functions: 3 GELU, 4 SILU, 5 SIGMOID, 6 TANH (R185, R186). -/
def tableFix (fn : Nat) (k : Int) : Int × Int × Int × Int :=
  let P := tableP
  let one : Int := 2 ^ P
  let z := k * 2 ^ P / 64
  let mul := fixMul P
  if fn = 3 then
    let (phi, cdf) := gaussFix P k
    let zz := mul z z
    (mul z cdf, cdf + mul z phi, mul phi (2 * one - zz), mul phi (mul z (zz - 4 * one)))
  else
    let s := sigFix P (if fn = 6 then 2 * z else z)
    let q := sigFix P (-(if fn = 6 then 2 * z else z))
    let s1 := mul s q
    let s2 := mul s1 (q - s)
    let s3 := mul s1 (one - 6 * s1)
    if fn = 5 then (s, s1, s2, s3)
    else if fn = 4 then (mul z s, s + mul z s1, 2 * s1 + mul z s2, 3 * s2 + mul z s3)
    else (s - q, 4 * s1, 8 * s2, 16 * s3)

/-- A fixed-point number rounded once to FP32 by RNE, as a value (R186). -/
def fixRound (x : Int) : Fp :=
  fp32.decode (fp32.round 0 (.fin (x < 0) x.natAbs (-(tableP : Int))))

/-- Half of a fixed-point number rounded once to FP32 by RNE. -/
def fixRoundHalf (x : Int) : Fp :=
  fp32.decode (fp32.round 0 (.fin (x < 0) x.natAbs (-(tableP : Int) - 1)))

/-- The three coefficients of a table's entry (R186). -/
def tableEntry (fn : Nat) (deriv : Bool) (k : Int) : Fp × Fp × Fp :=
  let (f0, f1, f2, f3) := tableFix fn k
  if deriv then (fixRound f1, fixRound f2, fixRoundHalf f3) else (fixRound f0, fixRound f1, fixRoundHalf f2)

/-- |z| ≥ 32 (R188). -/
def Fp.big (z : Fp) : Bool := decide (0 ≤ Fp.cmp z.abs (.fin false 32 0))

/-- A tabled function or its derivative, exactly (R187, R188). -/
def tabled (fn : Nat) (deriv : Bool) (z : Fp) : Fp :=
  let one : Fp := .fin false 1 0
  let zero : Fp := .fin false 0 0
  let mzero : Fp := .fin true 0 0
  if z.big then
    let low := z.neg
    if deriv then (if fn ≤ 4 then (if low then mzero else one) else zero)
    else if fn ≤ 4 then (if low then mzero else z)
    else if fn = 5 then (if low then zero else one)
    else (if low then .fin true 1 0 else one)
  else match z with
    | .fin n m e =>
      let k := Fp.signed n (roundIntMag 1 n m (e + 6))
      let t := Fp.add 0 z (.fin (0 < k) k.natAbs (-6))
      let (c0, c1, c2) := tableEntry fn deriv k
      if t.isZero then c0
      else
        let p := Fp.add 0 (Fp.add 0 c0 (c1.mul t)) (c2.mul (t.mul t))
        if p.isZero then zero else p
    | _ => .nan

/-- A function code that R185 defines. -/
def funcOk (c : Nat) : Bool := c ≤ 6 || (0x41 ≤ c && c ≤ 0x46) || c = 0x80

/-- The function's code reads a second operand (R185). -/
def funcSide (c : Nat) : Bool := (0x41 ≤ c && c ≤ 0x46) || c = 0x80

/-- The result of a function code before rounding (R185): z is the function's input, y the second operand: g of a
derivative code, r of RESID. The mode matters for the sign of an exact zero sum only (R80). -/
def actFn (c mode : Nat) (z y : Fp) : Fp :=
  let zero : Fp := .fin false 0 0
  let relu : Fp := match z with
    | .nan => .nan
    | .inf n => if n then zero else z
    | .fin n m e => if n || m = 0 then zero else .fin n m e
  if z.isNan then .nan
  else if c = 0 then z
  else if c = 1 then relu
  else if c = 2 then relu.mul relu
  else if c ≤ 6 then tabled c false z
  else if c = 0x41 then y.mul (if relu.isZero then zero else .fin false 1 0)
  else if c = 0x42 then y.mul (relu.mul (.fin false 2 0))
  else if c ≤ 0x46 then y.mul (tabled (c - 0x40) true z)
  else Fp.add mode z y

end Sys2Proof.Machine
end

