-- ==== Sys2Proof/Machine/Flags.lean ====
section
/-! DEFINITION. Where conversion reports, error bits and status registers are kept: the flag computations that units
share (R69, R96 to R98, R108, R163, R199, R288, R291). -/
namespace Sys2Proof.Machine
open Sys2Proof

/-- The larger of a running maximum and a report's (R97). -/
def State.maxReg (s : State) (off : Nat) (v : BitVec 32) : State :=
  if (s.reg off).toNat < v.toNat then s.setReg off v else s

/-- Add an operation's report to a unit's saturated count, flushed count and running maximum (R98). -/
def State.addReport (s : State) (sat ftz rmax : Nat) (r : ConvReport) : State :=
  ((s.bump sat r.sat).bump ftz r.ftz).maxReg rmax r.rmax

/-- The 16-byte trailer of a report (R108, R192). -/
def ConvReport.trailer (r : ConvReport) : List Byte :=
  toBytes r.sat 4 ++ toBytes r.ftz 4 ++ toBytes r.rmax.toNat 4 ++
    toBytes (b2n r.overflow + 2 * b2n r.nanSeen) 1 ++ [0, 0, 0]

/-- The array clock in MHz: 600 less 25 for each step below the full clock (R464). -/
def State.clockMhz (s : State) : Nat := 600 - 25 * s.phys.capStep

/-- The code of a sequencer state (R163). -/
def SeqState.code : SeqState → Nat
  | .idle => 0 | .running => 1 | .halting => 2 | .halted => 3 | .faulting => 4 | .faulted => 5

/-- A pass in an array's core or drain pipeline: not yet drain-complete. -/
def PassRun.inCore (y : PassRun) : Bool := y.phase = .entering || y.phase = .ended || y.phase = .repeating

/-- Passes in an array's core and drain pipeline, oldest first, a repeat among them (R45). -/
def Array8.inCore (a : Array8) : List PassRun := a.passes.filter PassRun.inCore

/-- Array a of a pier. -/
def PierState.array (x : PierState) (a : Nat) : Array8 := x.arrays.get Array8.reset a

/-- MAR_STATUS; FROZEN is that of the array cycle last run (R69). -/
def State.marStatus (s : State) (p a : Nat) : Nat :=
  let x := (s.pier p).array a
  let n := x.inCore.length
  b2n (n ≠ 0) + 2 * b2n (bit (s.reg (marOff p a)).toNat 1 && n = 0) + 4 * b2n x.frozen +
    8 * b2n (x.passes.any fun y => y.phase = .repeatDue || y.phase = .repeating) + 16 * n + 128 * b2n x.zeroing

/-- PSQ_STATUS (R163). -/
def State.psqStatus (s : State) (p : Nat) : Nat :=
  let x := s.pier p
  let busy (q : Nat) : Nat := b2n (!(x.queues.get [] q).isEmpty)
  x.seq.code + 8 * x.taskQueue.length + (s.reg (psqOff p + 4)).toNat % 256 / 128 * 128 +
    ((List.range 8).map fun q => busy q * 2 ^ (8 + q)).sum + busy 8 * 2 ^ 16 +
    ((List.range 4).map fun i => busy (9 + i) * 2 ^ (17 + i)).sum +
    b2n ((x.gaugeBuf.map fun g => g.full).getD false) * 2 ^ 21

/-- VEC_STATUS (R199): BUSY while the latency of the last instruction issued runs (log entry 121), GAUGE while the gauge
buffer's sample is checked. -/
def State.vecStatus (s : State) (p : Nat) : Nat :=
  let x := s.pier p
  b2n (decide (s.elapsed < x.vecBusy)) + 4 * b2n ((x.gaugeBuf.map fun g => g.full).getD false) +
    2 * b2n x.vecZeroing + (x.queues.get [] 8).length * 256

/-- A window's STATE code (R291). -/
def WinState.code : WinState → Nat
  | .closed => 0 | .opn => 1 | .finishing => 2 | .abandoned => 3

/-- Windows of a stack that are not CLOSED (R288). -/
def State.winsOpen (s : State) (n : Nat) : Nat :=
  ((s.stack n).windows.filter fun w => w.2.state ≠ .closed).length

/-- DMC_WINn as a 128-bit value (R291). PARKED counts the 64-byte units of the parked chunks, data and indices. -/
def Window.word (w : Window) : Nat :=
  w.state.code + w.round % 2 ^ 16 * 2 ^ 16 + w.epoch % 2 ^ 32 * 2 ^ 32 + w.tag * 2 ^ 64 +
    (w.parked.map fun c => cdiv (c.2.data.length + 4 * c.2.indices.length) 64).sum % 2 ^ 24 * 2 ^ 96

end Sys2Proof.Machine
end

