-- ==== Sys2Proof/Machine/Fabric.lean ====
section
/-! DEFINITION. Packets, routing and the switch, and what every unit uses to send a request and to answer one
(R306 to R319, R325 to R329, R557). -/
namespace Sys2Proof.Machine
open Sys2Proof

/-! ## Headers (R306, R308) -/

/-- CRC-32C. -/
def crc32c (l : List Byte) : Nat := 0xFFFFFFFF ^^^ crcRun 0x82F63B78 0xFFFFFFFF l

/-- An empty packet. -/
def Packet.empty : Packet :=
  { type := 0, vc := 0, hops := 0, dst := 0, src := 0, tag := 0, stag := 0, addr := 0, len := 0, txid := 0, epoch := 0,
    status := 0, spec := [], flow := 0, payload := [] }

/-- Bytes 0 to 59 of the header. -/
def Packet.header60 (p : Packet) : List Byte :=
  toBytes p.type 1 ++ toBytes (p.vc % 4 + 4 * p.hops) 1 ++ toBytes (p.dst % 8192) 2 ++ toBytes (p.src % 8192) 2 ++
  toBytes (p.tag % 2 ^ 18) 3 ++ toBytes (p.stag % 2 ^ 18) 3 ++ toBytes p.addr 6 ++ toBytes p.len 4 ++
  toBytes p.txid 4 ++ toBytes p.epoch 4 ++ toBytes p.status 2 ++ sliceBytes p.spec 0 16 ++
  toBytes (p.flow % 64) 1 ++ List.replicate 11 0

/-- The 64 header bytes (R306). -/
def Packet.header (p : Packet) : List Byte := p.header60 ++ toBytes (crc32c p.header60) 4

/-- HCRC holds. -/
def hcrcOk (h : List Byte) : Bool := leAt h 60 4 = crc32c (sliceBytes h 0 60)

/-- Read a header (R306); a READ, an ACK and a NACK carry no payload (R307). -/
def parseHeader (h payload : List Byte) : Packet :=
  { type := leAt h 0 1, vc := fld (leAt h 1 1) 0 2, hops := fld (leAt h 1 1) 2 6, dst := fld (leAt h 2 2) 0 13,
    src := fld (leAt h 4 2) 0 13, tag := fld (leAt h 6 3) 0 18, stag := fld (leAt h 9 3) 0 18, addr := leAt h 12 6,
    len := leAt h 18 4, txid := leAt h 22 4, epoch := leAt h 26 4, status := leAt h 30 2, spec := sliceBytes h 32 16,
    flow := fld (leAt h 48 1) 0 6,
    payload := if [2, 0x81, 0x84].contains (leAt h 0 1) then [] else sliceBytes payload 0 (leAt h 18 4) }

/-- The types of R307 that travel: requests 0x01 to 0x05, responses 0x81 to 0x84. -/
def typeKnown (t : Nat) : Bool := (1 ≤ t && t ≤ 5) || (0x81 ≤ t && t ≤ 0x84)
/-- A request (R307). -/
def Packet.isReq (p : Packet) : Bool := decide (p.type < 0x80)
/-- Flits of a packet; a READ's LEN counts bytes asked, not bytes carried (R307, R309). -/
def Packet.flits (p : Packet) : Nat := 1 + cdiv (p.payload.length - 192) 256

/-! ## Flit transmission (R300, R302, R310) -/

/-- Start values of the sender's credits (R311). -/
def creditMax (v : Nat) : Nat := if v % 2 = 0 then 384 else 128

/-- A header flit. -/
def Flit.first (f : Flit) : Bool := f.idx = 0 && !f.resume
/-- The last flit of its packet. -/
def Flit.last (f : Flit) : Bool := !f.resume && f.idx + 1 = f.pkt.flits

/-- The 256-byte body of a flit (R298, R306, R307, R309). -/
def Flit.body (f : Flit) : List Byte :=
  if f.resume then sliceBytes ({ Packet.empty with vc := f.vc } : Packet).header 0 256
  else if f.idx = 0 then f.pkt.header ++ sliceBytes f.pkt.payload 0 192
  else sliceBytes f.pkt.payload (192 + 256 * (f.idx - 1)) 256

/-- The flits of a packet from an input (24: the module's units), which held them in VC v. -/
def flitsOf (p : Packet) (input v : Nat) : List Flit :=
  (List.range p.flits).map fun i =>
    { vc := p.vc, pkt := p, idx := i, resume := false, input := input, inVc := v, held := decide (input < 24) }

/-- The sender holds a credit for a flit's VC (R300, R311). -/
def LinkState.credit (x : LinkState) (f : Flit) : Bool := decide (x.credUsed.get 0 f.vc < creditMax f.vc)

/-- A flit may leave: a credit is there, and a header flit opens a VC that has no packet in progress (R300, R310). -/
def LinkState.maySend (x : LinkState) (f : Flit) : Bool :=
  x.credit f && !(f.first && x.txOpen.contains f.vc)

/-- The first flit of one input that may leave: the flits of a VC of the input keep their order. -/
def LinkState.pickFrom (x : LinkState) (input : Nat) : List Nat → List Flit → Option Flit
  | _, [] => none
  | stuck, f :: r =>
    if f.input ≠ input ∨ stuck.contains f.inVc = true then LinkState.pickFrom x input stuck r
    else if x.maySend f then some f
    else LinkState.pickFrom x input (f.inVc :: stuck) r

/-- The flit that the output grants next: round robin among the inputs, the module's units being one of them (R316; that
they are one input is a DESIGN CHOICE, log entry 37). -/
def LinkState.pick (x : LinkState) : Option Flit :=
  if x.txq = [] then none
  else ((List.range 25).filterMap fun i => x.pickFrom ((x.lastIn + 1 + i) % 25) [] x.txq).head?

/-- The entry that held a flit at its input is free, and its credit is owed (R300). -/
def State.freeEntry (s : State) (f : Flit) : State :=
  if f.held then
    s.updLink f.input fun x =>
      { x with occupied := x.occupied.put f.inVc (x.occupied.get 0 f.inVc - 1), owed := x.owed ++ [f.inVc] }
  else s

/-- Send one sequenced flit for the first time: it enters the replay buffer and takes a credit; a header flit shows its
packet on the link (R299, R300, R302, R310). -/
def State.sendFlit (s : State) (l : Nat) (f : Flit) : State :=
  let s := (s.updLink l fun x => { x with
    txSeq := (x.txSeq + 1) % 2 ^ 16, txVc := f.vc, unacked := x.unacked ++ [f],
    txOpen := if f.last then x.txOpen.filter (· ≠ f.vc) else if f.first then f.vc :: x.txOpen else x.txOpen,
    credUsed := if f.resume then x.credUsed else x.credUsed.put f.vc (x.credUsed.get 0 f.vc + 1) }).add64 (zlOff l + 0x18) 1
  if f.first then s.emit (.packet l f.pkt) else s

/-- The CTL and HDR bits of a flit's slot. -/
def Flit.bits (f : Flit) : Nat := if f.resume || f.idx = 0 then 2 else 0

/-- An IDLE control flit (R298). -/
def idleBody : List Byte := List.replicate 256 0
/-- A REPLAY control flit (R298). -/
def replayBody (seq vc : Nat) : List Byte := sliceBytes ([1, 0] ++ toBytes seq 2 ++ toBytes (vc % 4) 1) 0 256

/-- A replay is in progress (R346). -/
def LinkState.replaying (x : LinkState) : Bool := x.replayDue || x.resend ≠ []

/-- What the next slot of a link carries, its CTL and HDR bits and its body: a REPLAY that is due, a flit sent again, IDLE
while the replay buffer is full, or the flit that the output grants, with a RESUME before a suspended packet goes on
(R298, R300 to R302, R310, R316). A REPLAY names the VC of the flit that follows it. -/
def State.sendNext (s : State) (l : Nat) : (Nat × List Byte) × State :=
  let x := s.link l
  if x.replayDue then
    let vc := match x.unacked with
      | f :: _ => f.vc
      | [] => (x.pick.map fun f => f.vc).getD x.txVc
    ((4, replayBody x.ackSeq vc), s.updLink l fun x =>
      { x with replayDue := false, resend := x.unacked, txVc := if x.unacked = [] then vc else x.txVc })
  else match x.resend with
    | f :: r => ((f.bits, f.body), (s.updLink l fun x => { x with resend := r }).add64 (zlOff l + 0x18) 1)
    | [] =>
      if 512 ≤ x.unacked.length then ((4, idleBody), s)
      else match x.pick with
        | none => ((4, idleBody), s)
        | some f =>
          if !f.first && x.txVc ≠ f.vc then
            let g := { f with resume := true, held := false }
            ((g.bits, g.body), s.sendFlit l g)
          else
            ((f.bits, f.body), ((s.freeEntry f).updLink l fun x =>
              { x with txq := x.txq.erase f, lastIn := f.input }).sendFlit l { f with held := false })

/-! ## Routing (R313 to R319) -/

/-- The route entry in force for an identifier: VALID is clear for a module that left (R495). -/
def State.route (s : State) (m : Nat) : Nat :=
  let e := (s.routes.get 0 m).toNat
  if s.left.contains m then e % 2 ^ 25 else e

/-- Links of PORTS whose state is UP. -/
def State.upPorts (s : State) (e : Nat) : List Nat := (Sys2Proof.Machine.setBits e 24).filter fun l => (s.link l).phase = .up

/-- The output index of R315. -/
def routeHash (p : Packet) : Nat := (p.src * 0x9E3779B1 + p.dst * 64 + p.flow) % 2 ^ 32 / 2 ^ 16

/-- ZL_ROLE.DIM of a link, as it took it when it last began to train (R460). -/
def State.dim (s : State) (l : Nat) : Nat := fld (s.link l).role 0 3

/-- Where routing sends a packet. -/
inductive Route where
  | here
  | out (l : Nat)
  | noRoute
  | hopLimit
deriving DecidableEq, Repr

/-- The route of a packet (R313, R315, R319). -/
def State.routeOf (s : State) (p : Packet) : Route :=
  let e := s.route p.dst
  if !bit e 25 then .noRoute
  else if bit e 24 then .here
  else match s.upPorts e with
    | [] => .noRoute
    | l :: r =>
      if 63 < p.hops + 1 then .hopLimit
      else .out ((l :: r).getD (routeHash p % (r.length + 1)) l)

/-- The class a packet leaves in (R311). -/
def State.leaveB (s : State) (p : Packet) (inp : Option Nat) (l : Nat) : Bool :=
  bit (s.link l).role 4 ||
  (match inp with
   | some i => p.vc % 2 = 1 && s.dim i = s.dim l
   | none => false)

/-- Detail of 0x0410 to 0x0412 (R440). -/
def dropDetail (p : Packet) (inp : Option Nat) : List Byte :=
  detail [(p.dst, 2), (p.src, 2), (p.type, 1), (inp.getD 31, 1), (0, 2), (p.txid, 4)]

/-- A tag that a die's fence drops: the packet's TAG or STAG (R329). -/
def DieState.fences (x : DieState) (p : Packet) : Bool :=
  match x.fenced with
  | some t => p.tag = t || p.stag = t
  | none => false

/-- Count a packet dropped under a fence, or as late or stale (R348). -/
def State.swStale (s : State) (k : Nat) : State := s.bump (swOff k + 0x28) 1

/-- MCODEs of the Truss protocol (R490). -/
def Packet.isTruss (p : Packet) : Bool := p.type = 5 && (0x0801 ≤ leAt p.spec 0 2 && leAt p.spec 0 2 ≤ 0x0803)

/-- A packet from a module outside the installed membership is dropped at delivery (R495). -/
def State.nonMember (s : State) (p : Packet) : Bool :=
  0 < s.ks.truss.record.epoch && !s.ks.truss.record.members.contains p.src && !p.isTruss

/-- Deliver a packet on die k: it waits there for its delivery row. -/
def State.deliver (s : State) (k : Nat) (p : Packet) : State :=
  if s.nonMember p then s.swStale k
  else (s.updDie k fun x => { x with inbox := x.inbox ++ [p] }).add64 (swOff k + 0x10) 1

/-- Forward a packet on an output link (R316): the class is set, HOPS grows, and its flits wait there for credit and for
their turn; each leaves in a slot of its own. -/
def State.forward (s : State) (p : Packet) (inp : Option Nat) (l : Nat) : State :=
  let v := (if p.isReq then 0 else 2) + b2n (s.leaveB p inp l)
  let q := { p with vc := v, hops := p.hops + 1 }
  s.updLink l fun x => { x with txq := x.txq ++ flitsOf q (inp.getD 24) p.vc }

/-- The input entries of a packet that goes no further free, and their credits go back (R300). -/
def State.freeEntries (s : State) (l : Nat) (p : Packet) : State :=
  s.updLink l fun x =>
    { x with occupied := x.occupied.put p.vc (x.occupied.get 0 p.vc - p.flits),
             owed := x.owed ++ List.replicate p.flits p.vc }

/-- Route an answer from die k (R557); a response that finds no way is only counted (R315, R319). -/
def State.routeAnswer (s : State) (k : Nat) (p : Packet) : State :=
  match s.routeOf p with
    | .here => if (s.die k).fences p then s.swStale k else s.deliver k p
    | .out l => if (s.die (l / 6)).fences p then s.swStale (l / 6) else (s.forward p none l).add64 (swOff (l / 6) + 0x10) 1
    | .noRoute => if (s.die k).fences p then s.swStale k else s.bump (swOff k + 0x1C) 1
    | .hopLimit => if (s.die k).fences p then s.swStale k else s.bump (swOff k + 0x20) 1

/-- The header of an answer to a request (R306, R307, R326): TAG and STAG are the request's STAG, and TXID and FLOW
are echoed. -/
def State.answerTo (s : State) (q : Packet) (type status : Nat) (payload : List Byte) : Packet :=
  { type := type, vc := 2, hops := 0, dst := q.src, src := s.moduleId, tag := q.stag, stag := q.stag,
    addr := if type = 0x82 then leAt q.spec 0 6 else q.addr, len := payload.length, txid := q.txid,
    epoch := (s.reg (swOff 0 + 8)).toNat, status := status, spec := [], flow := q.flow, payload := payload }

/-- Answer a request from die k. -/
def State.answer (s : State) (k : Nat) (q : Packet) (type status : Nat) (payload : List Byte) : State :=
  s.routeAnswer k (s.answerTo q type status payload)

/-- NACK a request with a status (R326). -/
def State.nack (s : State) (k : Nat) (q : Packet) (status : Nat) : State := s.answer k q 0x84 status []

/-- Drop a packet for a routing reason: counted, recorded, and a request answered (R315, R319). -/
def State.routeDrop (s : State) (k : Nat) (p : Packet) (inp : Option Nat) (code cnt errBit : Nat) : State :=
  let s := s.bump (swOff k + cnt) 1
  if p.isReq then
    let s := (s.orReg (swOff k + 0xC) (2 ^ errBit)).record 6 k code true
      (some (if p.src = s.moduleId then p.stag else p.tag)) (dropDetail p inp)
    s.nack k p code
  else s

/-- Route a packet that arrived on link l (R313 to R319). -/
def State.routeLink (s : State) (l : Nat) (p : Packet) : State :=
  let k := l / 6
  if (s.die k).fences p then (s.freeEntries l p).swStale k
  else
    let fe := (s.fast.get 0 (256 * l + p.dst % 256)).toNat
    let hit := bit fe 39 && fld fe 32 5 = p.dst / 256
    let s := if hit then s else s.bump (swOff k + 0x18) 1
    match s.routeOf p with
    | .here => (s.freeEntries l p).deliver k p
    | .out m => (s.forward p (some l) m).add64 (swOff k + 0x10) 1
    | .noRoute => (s.freeEntries l p).routeDrop k p (some l) 0x0410 0x1C 0
    | .hopLimit => (s.freeEntries l p).routeDrop k p (some l) 0x0411 0x20 1

/-- Route a packet from a unit whose source die is k: the die of its output link handles it, or k (R557). -/
def State.routeUnit (s : State) (k : Nat) (p : Packet) : State :=
  match s.routeOf p with
  | .out m =>
    if (s.die (m / 6)).fences p then s.swStale (m / 6) else (s.forward p none m).add64 (swOff (m / 6) + 0x10) 1
  | .here => if (s.die k).fences p then s.swStale k else s.deliver k p
  | .noRoute => if (s.die k).fences p then s.swStale k else s.routeDrop k p none 0x0410 0x1C 0
  | .hopLimit => if (s.die k).fences p then s.swStale k else s.routeDrop k p none 0x0411 0x20 1

/-! ## Requests of the module's units (R325, R327) -/

/-- The source die of a pier's engines and feeders (R557). -/
def dieOf (p : Nat) : Nat := p % 4

/-- Keep a request of die k until it is answered: TXID, SRC, EPOCH and the timeout are filled in here. The packet to
send. -/
def State.farKeep (s : State) (k : Nat) (q : Packet) (raddr : Nat) (unit : FarUnit) (relay : Option (Nat × Nat × Nat))
    (off : Nat) : Packet × State :=
  let id := s.ks.txid % 2 ^ 32
  let s := s.updKs fun x => { x with txid := x.txid + 1 }
  let q := { q with src := s.moduleId, txid := id, epoch := (s.reg (swOff 0 + 8)).toNat, hops := 0, vc := 0 }
  let r : FarReq := { txid := id, dst := q.dst, tag := q.tag, stag := q.stag, addr := q.addr, raddr := raddr,
                      len := q.len, unit := unit, relay := relay, off := off, packet := q, issued := s.elapsed,
                      timeout := s.rfld (swOff k) 0 16 }
  (q, s.updDie k fun x => { x with far := x.far ++ [r] })

/-- Send a request from die k and keep it until it is answered; its TXID. -/
def State.farSend (s : State) (k : Nat) (q : Packet) (raddr : Nat) (unit : FarUnit) (relay : Option (Nat × Nat × Nat))
    (off : Nat) : Nat × State :=
  let (q, s) := s.farKeep k q raddr unit relay off
  (q.txid, s.routeUnit k q)

/-- Find an outstanding request and its die. -/
def State.farFind (s : State) (txid : Nat) : Option (Nat × FarReq) :=
  ([0, 1, 2, 3].filterMap fun k => ((s.die k).far.find? fun r => r.txid = txid).map fun r => (k, r)).head?

/-- Forget an outstanding request. -/
def State.farEnd (s : State) (k txid : Nat) : State :=
  s.updDie k fun x => { x with far := x.far.filter fun r => r.txid ≠ txid }

/-- A WRITE packet. -/
def writePkt (dst tag stag addr flow : Nat) (d : List Byte) : Packet :=
  { Packet.empty with type := 1, dst := dst, tag := tag, stag := stag, addr := addr, len := d.length, flow := flow,
                      payload := d }

/-- A READ packet. -/
def readPkt (dst tag stag addr len raddr flow : Nat) : Packet :=
  { Packet.empty with type := 2, dst := dst, tag := tag, stag := stag, addr := addr, len := len, flow := flow,
                      spec := toBytes raddr 6 ++ List.replicate 10 0 }

/-- A keystone message from a die's keystone share (R307, R308, R315). -/
def msgPkt (k dst mcode : Nat) (d : List Byte) : Packet :=
  { Packet.empty with type := 5, dst := dst, len := d.length, flow := 0x3C + k,
                      spec := toBytes mcode 2 ++ List.replicate 14 0, payload := d }

/-- Send a keystone message and wait for its answer. -/
def State.sendMsg (s : State) (k dst mcode : Nat) (d : List Byte) : State :=
  (s.farSend k (msgPkt k dst mcode d) 0 .keystone none 0).2

/-- Send a keystone message to the neighbour at the other end of link l, on that link (R490). -/
def State.sendNear (s : State) (l dst mcode : Nat) (d : List Byte) : State :=
  let (q, s) := s.farKeep (l / 6) (msgPkt (l / 6) dst mcode d) 0 .keystone none 0
  if (s.die (l / 6)).fences q then s.swStale (l / 6) else (s.forward q none l).add64 (swOff (l / 6) + 0x10) 1

/-- Packets of equal SRC, DST, FLOW and VC arrive and are taken in the order sent (R22, R318). -/
def Packet.path (p : Packet) : Nat × Nat × Nat × Nat := (p.src, p.dst, p.flow, p.vc)

/-- The packets of an inbox that are the oldest of their path. -/
def pathHeads (seen : List (Nat × Nat × Nat × Nat)) : List Packet → List Packet
  | [] => []
  | p :: r => if seen.contains p.path then pathHeads seen r else p :: pathHeads (p.path :: seen) r

/-- The first packet of a type that waits at die k and has no earlier one of its path before it. -/
def State.inboxFirst (s : State) (k type : Nat) : Option Packet :=
  (pathHeads [] (s.die k).inbox).find? fun p => p.type = type

/-- Take a packet out of a die's inbox. -/
def State.inboxTake (s : State) (k : Nat) (p : Packet) : State :=
  s.updDie k fun x => { x with inbox := x.inbox.erase p }

end Sys2Proof.Machine
end

