-- ==== Sys2Proof/Machine/ArrayCore.lean ====
section
/-! DEFINITION. The data path of a matrix array, one array cycle at a time: feeders, joints, launch bus, the front, the
column sums, the accumulator store and the drain (R32 to R65, R79 to R103, R124, R125, R155, R362). -/
namespace Sys2Proof.Machine
open Sys2Proof

/-! ## The tile and the streamed rows (R84 to R86, R124) -/

/-- Bytes of a tile row, and of the whole tile. -/
def Entry.trow (e : Entry) : Nat := 256 * fmtWidth e.statFmt / 8

/-- The runs of tile row k that the weight feeder reads, as offsets from STAT_ADDR: the bytes that hold columns n <
N_VALID, and the scale line read with the row: its own, or that of the block it opens (R85, R124). -/
def Entry.tileRowRuns (e : Entry) (k : Nat) : List (Nat × Nat) :=
  let b := scaleBlock e.statSdesc
  let base := 256 * e.trow
  (k * e.trow, cdiv (e.nValid * fmtWidth e.statFmt) 8) ::
  (if b = 0 then []
   else if bit e.statSdesc 3 then [(base + k * (256 / b), cdiv e.nValid b)]
   else if k % b = 0 then [(base + k / b * 256, e.nValid)]
   else [])

/-- Bytes that the weight joint holds of a whole tile. -/
def Entry.tileRoom (e : Entry) : Nat :=
  (((List.range e.kValid).map e.tileRowRuns).flatten.map fun r => r.2).sum

/-- Bytes of the tile with its scales: what one far READ asks for (R362). -/
def Entry.tileBytes (e : Entry) : Nat :=
  let b := scaleBlock e.statSdesc
  256 * e.trow + (if b = 0 then 0 else 256 / b * 256)

/-- Where the tile lies, as STAT_SRC says (R125). -/
def tileReach (p src : Nat) : Place → Bool
  | .sram q _ => src = 0 && q = p
  | .stack n _ => src = 1 && n = p
  | _ => false

/-- The scaled stationary elements, a list of columns for each row k (R85, R86). -/
def Entry.weights (e : Entry) (runs : List (List Byte)) : List (List Fp) :=
  let b := scaleBlock e.statSdesc
  let scales := runs.drop e.kValid
  (List.zip (List.range e.kValid) runs).map fun x =>
    (List.zip (List.range e.nValid) (unpack (fmtWidth e.statFmt) x.2)).map fun y =>
      let v := elemVal e.statFmt y.2
      if b = 0 then v
      else
        let sc := if bit e.statSdesc 3 then (scales.getD x.1 []).getD (y.1 / b) 0 else (scales.getD (x.1 / b) []).getD y.1 0
        scaleElem v (scaleVal (fld e.statSdesc 4 1) sc.toNat)

/-- The runs of streamed row m: the row, then its scale line if it has one (R124). -/
def Entry.rowRuns (e : Entry) (m : Nat) : List (Nat × Nat) :=
  let b := scaleBlock e.strmSdesc
  ((e.addr 1 + m * e.strmStride) % 2 ^ 64, cdiv (e.kValid * fmtWidth e.strmFmt) 8) ::
  (if b = 0 then []
   else if bit e.strmSdesc 3 then [((e.addr 2 + m / b * e.strmStride) % 2 ^ 64, e.kValid)]
   else [((e.addr 2 + m * e.strmStride) % 2 ^ 64, cdiv e.kValid b)])

/-- The scaled elements of a streamed row (R85, R86). -/
def Entry.rowElems (e : Entry) (runs : List (List Byte)) : List Fp :=
  let b := scaleBlock e.strmSdesc
  let line := runs.getD 1 []
  (List.zip (List.range e.kValid) (unpack (fmtWidth e.strmFmt) (runs.getD 0 []))).map fun x =>
    let v := elemVal e.strmFmt x.2
    if b = 0 then v
    else scaleElem v (scaleVal (fld e.strmSdesc 4 1) (line.getD (if bit e.strmSdesc 3 then x.1 else x.1 / b) 0).toNat)

/-- The pass sums of one row (R38, R80, R81): the column sums after the rows of the tile taken so far. -/
def passSums (acc : Nat) : Option (List Nat) → List (Fp × List Fp) → List Nat
  | cur, [] => cur.getD []
  | none, (x, w) :: r => passSums acc (some (w.map fun y => accFirst acc (x.mul y))) r
  | some l, (x, w) :: r => passSums acc (some (List.zipWith (fun a y => accAdd acc a (x.mul y)) l w)) r

/-! ## The accumulator store (R39, R41) -/

/-- Word index of element n of accumulator row r; an FP64 element takes this word and the next. -/
def accWord (acc r n : Nat) : Nat := if acc = 8 then 2 * r * 256 + 2 * n else r * 256 + n

/-- Element n of accumulator row r. -/
def Array8.accGet (x : Array8) (acc r n : Nat) : Nat :=
  let i := accWord acc r n
  if acc = 8 then (x.acc.get 0 i).toNat + 2 ^ 32 * (x.acc.get 0 (i + 1)).toNat else (x.acc.get 0 i).toNat

/-- Write element n of accumulator row r. -/
def Array8.accPut (x : Array8) (acc r n v : Nat) : Array8 :=
  let i := accWord acc r n
  if acc = 8 then { x with acc := (x.acc.put i (BitVec.ofNat 32 v)).put (i + 1) (BitVec.ofNat 32 (v / 2 ^ 32)) }
  else { x with acc := x.acc.put i (BitVec.ofNat 32 v) }

/-- Write a row from element n on. -/
def Array8.accRow (x : Array8) (acc r : Nat) : Nat → List Nat → Array8
  | _, [] => x
  | n, v :: l => Array8.accRow (x.accPut acc r n v) acc r (n + 1) l

/-- Change array a of pier p. -/
def State.updArray (s : State) (p a : Nat) (f : Array8 → Array8) : State :=
  s.updPier p fun x => { x with arrays := x.arrays.put a (f (x.array a)) }

/-- The accumulator rows of a pass, in 32-bit rows: first and number (R41). -/
def Entry.accRange (e : Entry) : Nat × Nat :=
  if e.accMode = 0 then (0, 0) else if e.cls = 4 then (2 * e.accBase, 2 * e.mRows) else (e.accBase, e.mRows)

/-- Two passes touch a common accumulator row. -/
def Entry.overlaps (a b : Entry) : Bool :=
  let (x, n) := a.accRange
  let (y, m) := b.accRange
  decide (0 < n ∧ 0 < m ∧ x < y + m ∧ y < x + n)

/-- The rows that an abandoned pass touched hold values that nothing states (R158). -/
def State.accUndef (s : State) (p a : Nat) (e : Entry) (rows : Nat) : State :=
  (List.range (if e.accMode = 0 then 0 else rows)).foldl (fun s m =>
    let (l, s) := s.frees e.nValid
    s.updArray p a fun x => x.accRow e.acc (e.accBase + m) 0 l) s

/-! ## The drain (R61 to R63, R99 to R101, R150) -/

/-- F_a: F with its exponent lowered by s * a (R150). -/
def factorAt (d a : Nat) : Nat :=
  if a = 0 then ddF d
  else match fp32.decode (ddF d) with
    | .fin n m e => fp32.round 0 (.fin n m (e - ddStep d * a))
    | v => fp32.round 0 v

/-- Round a stage's result by R of R99 and R100. -/
def Entry.stageRound (e : Entry) (d : Nat) (v : Fp) : Fp :=
  let fmt := fld d 0 4
  let f := if e.cls = 4 then fp64 else fp32
  let narrow := if e.cls = 4 then decide (fmt ≠ 8) else decide (fmtWidth fmt < 32)
  let mode := if narrow then 5 else fld d 4 3
  f.decode (f.round mode v)

/-- The mode R of R99 and R100. They give it for outputs narrower than FP32 and for FP32; a pass of another class than
FP64 that outputs FP64 takes RMODE (DESIGN CHOICE, log entry 34), as does the widening of R101. -/
def Entry.stageMode (e : Entry) (d : Nat) : Nat :=
  let fmt := fld d 0 4
  if (if e.cls = 4 then decide (fmt ≠ 8) else decide (fmtWidth fmt < 32)) then 5 else fld d 4 3

/-- One element through stages 1 to 4 (R99 to R101). -/
def Entry.drainElem (e : Entry) (d attempt : Nat) (a : Nat) (bias side : Fp) (index : Nat) : ConvResult :=
  if fld d 0 4 = 11 then { bits := a, rep := ConvReport.reset }
  else
    let r := e.stageRound d
    let mode := e.stageMode d
    let v := if e.isInt then r (Fp.ofInt (sext a 32)) else elemVal e.acc a
    let v := if ddStage d 1 then r (v.mul (fp32.decode (factorAt d attempt))) else v
    let v := if ddStage d 2 then r (Fp.add mode v bias) else v
    let f := ddFunc d
    let v := if ddStage d 3 then
        r (if f = 0x80 then actFn f mode v side else if funcSide f then actFn f mode side v else actFn f mode v side)
      else v
    let src := if e.cls = 4 then fp64.round 0 v else fp32.round 0 v
    convert (convOf (ddConv d) (ddSeed d)) v src (index % 2 ^ 32)

/-! ## The passes of an array in the order its ports serve them (R59, R146, R151) -/

/-- Stage 3 reads the side stream (R61, R185). -/
def Entry.useSide (e : Entry) : Bool := e.drainOut && ddStage e.desc.toNat 3 && funcSide (ddFunc e.desc.toNat)

/-- The passes at the head of an array queue, up to the first other instruction: no port reads for a pass behind one
(R146). -/
def passPrefix (q : List Entry) : List Entry := q.takeWhile fun e => opc e.w0.toNat = 0x40

/-- The passes that the ports of array a serve: those in the array, then the queue's; while a repeat is due, that repeat
as soon as the array is empty, and nothing of the queue (R151). -/
def PierState.ports (x : PierState) (a : Nat) : List Entry :=
  let y := x.array a
  let core := (y.inCore.filter fun z => !z.dead).map fun z => z.entry
  match y.passes.find? fun z => z.phase = .repeatDue with
  | some z => if y.inCore.isEmpty then [z.entry] else core
  | none => core ++ passPrefix (x.queue a)

/-- How far the feeders are with a pass. -/
def Array8.feed (x : Array8) (no : Nat) : Feed := x.feeds.get { tile := 0, strm := 0, side := 0 } no

/-- Move the feeders on. -/
def Array8.updFeed (x : Array8) (no : Nat) (f : Feed → Feed) : Array8 := { x with feeds := x.feeds.put no (f (x.feed no)) }

/-- Only what belongs to a live pass stays in the joints, the feeders and the shadow registers. -/
def Array8.keepOnly (x : Array8) (live : List Nat) : Array8 :=
  { x with
    weightJoint := x.weightJoint.filter fun r => live.contains r.no,
    inputJoint := x.inputJoint.filter fun r => live.contains r.no,
    sideJoint := x.sideJoint.filter fun r => live.contains r.no,
    drainJoint := x.drainJoint.filter fun r => live.contains r.no,
    feeds := x.feeds.filter fun r => live.contains r.1,
    tiles := x.tiles.filter fun r => live.contains r.1 }

/-- The passes of array a that are queued, or in the array and not abandoned. -/
def PierState.live (x : PierState) (a : Nat) : List Nat :=
  (((x.array a).passes.filter fun y => !y.dead).map fun y => y.entry.no) ++ (x.queue a).map fun e => e.no

/-- Drop from array a what belongs to passes that are gone (R158). -/
def State.sweep (s : State) (p a : Nat) : State := s.updArray p a fun x => x.keepOnly ((s.pier p).live a)

/-- Change the entry of pass no of array a, queued or in the array. -/
def PierState.updEntry (x : PierState) (a no : Nat) (f : Entry → Entry) : PierState :=
  let g (e : Entry) : Entry := if e.no = no then f e else e
  { x.setQueue a ((x.queue a).map g) with
    arrays := x.arrays.put a { x.array a with passes := (x.array a).passes.map fun y => { y with entry := g y.entry } } }

/-! ## A pass that faults (R67, R158) -/

/-- The error bits of array a that a rejected pass sets (R70). -/
def passBits (p a code : Nat) : List (Nat × Nat) :=
  if code = 0x0221 then [(marOff p a + 8, 2)] else if code = 0x0222 then [(marOff p a + 8, 3)]
  else if code = 0x0311 then [(marOff p a + 8, 0)] else if code = 0x0312 then [(marOff p a + 8, 1)] else []

/-- A pass that has left its queue or its array faults its task. -/
def State.passFault (s : State) (p a : Nat) (e : Entry) (f : MemFault) : State :=
  (s.drop p e.ser).seqFault p e.ser a e.word f 0 (passBits p a f.code)

/-- Pass `no` goes from a list of passes; what waited behind it waits behind the pass before. -/
def dropBehind (no : Nat) : List PassRun → List PassRun
  | [] => []
  | [y] => if y.entry.no = no then [] else [y]
  | y :: z :: r =>
    if y.entry.no = no then z :: r
    else if z.entry.no = no then { y with behind := y.behind ++ z.behind } :: r
    else y :: dropBehind no (z :: r)

/-- An abandoned pass leaves its array. The control instructions that waited for it complete if it was the oldest
(R144, R158). -/
def State.dropPass (s : State) (p a no : Nat) : State :=
  let l := ((s.pier p).array a).passes
  let free := (l.head?.filter fun y => y.entry.no = no).map fun y => y.behind
  (s.updArray p a fun x => { x with passes := dropBehind no x.passes }).completeAll p (free.getD [])

/-- The gauge buffer is free again when the pass it was taken for is abandoned before its row left (R155). -/
def PierState.freeGauge (x : PierState) (a no : Nat) : PierState :=
  { x with gaugeBuf := x.gaugeBuf.filter fun g => g.full || !(g.array = a && g.no = no) }

/-- A pass faults its task. Queued, it is gone; in the array it is abandoned: no further row enters, the rows in the
core pass through and nothing more of it is written. The accumulator rows it touched hold values that nothing states;
a drain-only repeat changes none (R151, R158). -/
def State.failPass (s : State) (p a no : Nat) (f : MemFault) : State :=
  let x := s.pier p
  match (x.array a).passes.find? fun y => y.entry.no = no && !y.dead with
  | some y =>
    let e := y.entry
    let gone := y.phase = .repeatDue || y.phase = .retired
    let s := if y.phase = .entering || y.phase = .ended then s.accUndef p a e y.entered else s
    let s := s.updPier p fun x => x.freeGauge a no
    let s := if gone then s.dropPass p a no
      else s.updArray p a fun x => { x with
        passes := x.passes.map fun z =>
          if z.entry.no = no then
            { z with dead := true, flight := [], phase := if z.phase = .entering then .ended else z.phase }
          else z }
    (if gone then s.passFault p a e f else s.seqFault p e.ser a e.word f 0 (passBits p a f.code)).sweep p a
  | none =>
    match (x.queue a).find? fun e => e.no = no with
    | some e =>
      ((s.updPier p fun x => x.setQueue a ((x.queue a).filter fun e => e.no ≠ no)).passFault p a e f).sweep p a
    | none => s

/-! ## The feeders and the drain writer (R51, R57, R60, R124, R125, R362) -/

/-- What the weight feeder finds of the tile's first page (R125). -/
inductive TileCheck where
  | ok
  | fault (f : MemFault)
  | ask (m la tag : Nat)
deriving DecidableEq, Repr

/-- The check of a tile before admission (R125). -/
def State.tileCheck (s : State) (p : Nat) (e : Entry) : TileCheck × State :=
  let va := e.addr 0
  match s.translateAt p (s.pier p).tag va .rd with
  | (.fault c, s) => (.fault ⟨c, va, 0⟩, s)
  | (.here la, s) => (if tileReach p e.statSrc (place la) then .ok else .fault ⟨0x0525, va, la⟩, s)
  | (.far m la rtag, s) =>
    (if e.statSrc = 2 && m ≠ s.moduleId then .ask m la rtag else .fault ⟨0x0525, va, 0⟩, s)

/-- Bytes in the weight joint, and kept for the far tiles that are asked for. -/
def PierState.weightUse (x : PierState) (a : Nat) : Nat :=
  (((x.array a).weightJoint.map fun r => r.row.length + r.scale.length)).sum +
    (((((x.array a).passes.map fun y => y.entry) ++ x.queue a).filter fun e => e.farAsked.isSome).map Entry.tileRoom).sum

/-- Bytes of the weight joint (R51). -/
def weightCap : Nat := 524288

/-- Rows of each other joint (R51). -/
def jointCap : Nat := 64

/-- The far tile of a pass is asked for with one READ to the array's reply port, at most four of an array being
outstanding (R362, R556). -/
def State.askTile (s : State) (p a : Nat) (e : Entry) (m la rtag : Nat) : State :=
  let mine := (s.die (dieOf p)).far.filter fun r => r.unit = .feeder p a
  if 4 ≤ mine.length || decide (weightCap < (s.pier p).weightUse a + e.tileRoom) then s
  else
    let port := portAddr p (4 + a)
    let q := readPkt m rtag (s.pier p).tag la e.tileBytes port (4 * p)
    let (tx, s) := s.farSend (dieOf p) q port (.feeder p a) none 0
    (s.updPier p fun x => x.updEntry a e.no fun e => { e with farAsked := some tx }).updArray p a fun x =>
      x.updFeed e.no fun f => { f with tile := e.kValid }

/-- A tile row from the runs read for it. -/
def tileRowOf (no k : Nat) (runs : List (List Byte)) : TileRow :=
  { no := no, k := k, row := runs.getD 0 [], scale := runs.getD 1 [] }

/-- The weight feeder reads tile row k of a pass, if the weight joint has room for it. A later page of the tile must lie
where its first page must (DESIGN CHOICE, log entry 119). -/
def State.readTileRow (s : State) (p a : Nat) (e : Entry) (k : Nat) : State :=
  let runs := e.tileRowRuns k
  if weightCap < (s.pier p).weightUse a + (runs.map fun r => r.2).sum then s
  else match s.readRuns (s.client p e.ser) (s.pier p).tag (tileReach p e.statSrc) 0x0525
      (runs.map fun r => ((e.addr 0 + r.1) % 2 ^ 64, r.2)) with
    | (.error f, s) => s.failPass p a e.no f
    | (.ok l, s) => s.updArray p a fun x =>
      { x.updFeed e.no (fun f => { f with tile := k + 1 }) with
        weightJoint := x.weightJoint ++ [tileRowOf e.no k l] }

/-- The weight feeder is served: the next tile row of the first pass whose tile is not read whole. -/
def State.weightStep (s : State) (p a : Nat) : State :=
  let x := s.pier p
  match (x.ports a).find? fun e => ((x.array a).feed e.no).tile < e.kValid with
  | none => s
  | some e =>
    let k := ((x.array a).feed e.no).tile
    if k = 0 then
      match s.tileCheck p e with
      | (.fault f, s) => s.failPass p a e.no f
      | (.ask m la rtag, s) => s.askTile p a e m la rtag
      | (.ok, s) => s.readTileRow p a e 0
    else s.readTileRow p a e k

/-- The passes of array a whose far tile may be outstanding. -/
def PierState.asking (x : PierState) (a : Nat) : List Entry := ((x.array a).passes.map fun y => y.entry) ++ x.queue a

/-- The bytes of a far tile reach the weight joint (R59, R362). -/
def State.farTile (s : State) (p a txid : Nat) (d : List Byte) : State :=
  let x := s.pier p
  match (x.asking a).find? fun e => e.farAsked = some txid with
  | none => s
  | some e =>
    (s.updPier p fun x => x.updEntry a e.no fun e => { e with farAsked := none }).updArray p a fun x =>
      { x with weightJoint := x.weightJoint ++ (List.range e.kValid).map fun k =>
          tileRowOf e.no k ((e.tileRowRuns k).map fun r => sliceBytes d r.1 r.2) }

/-- The streamed feeder is served: the next row of the first pass not read whole, if the input joint has room. -/
def State.streamStep (s : State) (p a : Nat) : State :=
  let x := s.pier p
  let y := x.array a
  match (x.ports a).find? fun e => (y.feed e.no).strm < e.mRows with
  | none => s
  | some e =>
    if jointCap ≤ y.inputJoint.length then s
    else
      let m := (y.feed e.no).strm
      match s.readRuns (s.client p e.ser) x.tag (reachSram p) 0x052B (e.rowRuns m) with
      | (.error f, s) => s.failPass p a e.no f
      | (.ok l, s) => s.updArray p a fun x =>
        { x.updFeed e.no (fun f => { f with strm := m + 1 }) with
          inputJoint := x.inputJoint ++ [{ no := e.no, m := m, runs := l }] }

/-- The side feeder is served. -/
def State.sideStep (s : State) (p a : Nat) : State :=
  let x := s.pier p
  let y := x.array a
  match (x.ports a).find? fun e => e.useSide && decide ((y.feed e.no).side < e.mRows) with
  | none => s
  | some e =>
    if jointCap ≤ y.sideJoint.length then s
    else
      let m := (y.feed e.no).side
      let d := e.desc.toNat
      match s.readRuns (s.client p e.ser) x.tag (reachSram p) 0x052B [((e.addr 4 + m * ddSide d) % 2 ^ 64, rowBytes (ddSideFmt d) e.nValid)] with
      | (.error f, s) => s.failPass p a e.no f
      | (.ok l, s) => s.updArray p a fun x =>
        { x.updFeed e.no (fun f => { f with side := m + 1 }) with
          sideJoint := x.sideJoint ++ [{ no := e.no, m := m, runs := l }] }

/-- The drain writer is served: the oldest row of the drain joint is written. -/
def State.writeStep (s : State) (p a : Nat) : State :=
  let y := (s.pier p).array a
  match y.drainJoint with
  | [] => s
  | r :: rest =>
    let s := s.updArray p a fun x => { x with drainJoint := rest }
    match y.passes.find? fun z => z.entry.no = r.no with
    | none => s
    | some z =>
      let e := z.entry
      match s.writeVa (s.client p e.ser) (s.pier p).tag (reachOwn p) 0x052B ((e.addr 3 + r.m * ddDest e.desc.toNat) % 2 ^ 64)
          (r.runs.getD 0 []) with
      | (some f, s) => s.failPass p a r.no f
      | (none, s) => s

/-! ## The launch bus and the front (R46, R47, R49, R54, R55) -/

/-- A drain-only repeat (R151). -/
def PassRun.drainOnly (y : PassRun) : Bool := y.phase = .repeating && y.entry.accMode ≠ 0

/-- Slots since the pass's start: its front stands on the cells (k, n) with k + n this slot (R46). -/
def PassRun.front (y : PassRun) : Nat := y.age / cyclesPerSlot y.entry.cls

/-- Tile rows of a pass that the launch bus has written into column 0: rows 0 and on, in order. -/
def Array8.launched (x : Array8) (no : Nat) : Nat := (x.tiles.get [] no).length

/-- The pass whose tile the launch bus writes next, with the pass in front of it: the first pass in the array with rows
still to write, or else the next pass to enter. -/
def PierState.launchTarget (x : PierState) (a : Nat) : Option (Entry × Option PassRun) :=
  let y := x.array a
  match (x.ports a).find? fun e => y.launched e.no < e.kValid with
  | none => none
  | some e =>
    let core := y.inCore.filter fun z => !z.drainOnly
    if (y.passes.any fun z => z.entry.no = e.no) || ((x.queue a).head?.map fun h => h.no) = some e.no then
      some (e, (core.takeWhile fun z => z.entry.no ≠ e.no).getLast?)
    else none

/-- Shadow row k of column 0 is writable: the front of the pass before has reached cell (k, 0), or no pass is in the
array. Column n follows n slots later on both sides (R47). -/
def shadowFree (k : Nat) : Option PassRun → Bool
  | none => true
  | some z => decide (k ≤ z.front)

/-- The launch bus writes rows of a tile in one array cycle, at most four in three row times, busy in units of 1/8 cycle;
the mark says that it was ready and the weight joint had no row for it (R47, R55). -/
def launchRows (e : Entry) (before : Option PassRun) : Nat → Array8 → Array8 × Bool
  | 0, x => (x, false)
  | n + 1, x =>
    let k := x.launched e.no
    if e.kValid ≤ k || decide (8 < x.busBusy) || !shadowFree k before then (x, false)
    else match x.weightJoint.find? fun r => r.no = e.no && r.k = k with
      | none => (x, true)
      | some r => launchRows e before n { x with
          weightJoint := x.weightJoint.erase r, tiles := x.tiles.put e.no (x.tiles.get [] e.no ++ [r]),
          busBusy := x.busBusy + 3 * halfRowTime e.cls }

/-- One array cycle of the launch bus, frozen or not (R54): a slip is counted (R55). -/
def State.launchCycle (s : State) (p a : Nat) : State :=
  let x := s.pier p
  let (y, slip) := match x.launchTarget a with
    | some (e, before) => launchRows e before 4 (x.array a)
    | none => (x.array a, false)
  let s := s.updArray p a fun _ => { y with busBusy := if y.busBusy ≤ 8 then 8 else y.busBusy - 8 }
  if slip then s.bump (marOff p a + 0x38) 1 else s

/-! ## Admission and the events that are due (R44, R45, R48, R63, R151) -/

/-- The slots in which the rows of a pass enter (R43). -/
def Entry.slots (e : Entry) : Nat := cdiv e.mRows (rowsPerSlot e.cls)

/-- Array a admits no pass now: disabled, halted, zeroing, or a repeat is due or not read whole (R42, R68, R151). -/
def State.arrayShut (s : State) (p a : Nat) : Bool :=
  let x := (s.pier p).array a
  let c := (s.reg (marOff p a)).toNat
  !bit c 0 || bit c 1 || x.zeroing || x.passes.any fun y =>
    y.phase = .repeatDue || (y.phase = .repeating && !y.dead && y.entered < y.entry.mRows)

/-- The pass at the head of queue a, if a pass stands there. -/
def State.headPass (s : State) (p a : Nat) : Option Entry :=
  (s.head p a).filter fun e => opc e.w0.toNat = 0x40

/-- The pass that entered last of those in the array. -/
def Array8.lastIn (x : Array8) : Option PassRun := (x.inCore.filter fun y => !y.drainOnly).getLast?

/-- The last row of the pass before has entered, and a slot begins (R48 condition 1). -/
def Array8.entryFree (x : Array8) : Bool :=
  match x.lastIn with
  | none => true
  | some y => y.phase ≠ .entering && (y.dead || y.entry.slots ≤ y.front) && y.age % cyclesPerSlot y.entry.cls = 0

/-- The limit on the passes in the array, or 192 row times since the last start, hold a pass back (R45, R48 condition 2);
row times are counted in array cycles that are not frozen (DEDUCED: R48 counts slots; log entry 119). -/
def Array8.holdShort (x : Array8) (e : Entry) : Bool :=
  decide ((if e.cls = 0 then 7 else 4) ≤ x.inCore.length) ||
  (match x.lastIn with
   | none => false
   | some y => decide (2 * y.age < 192 * halfRowTime e.cls))

/-- A drain-out on overlapping accumulator rows awaits retirement (R48 condition 4). -/
def Array8.holdAcc (x : Array8) (e : Entry) : Bool :=
  x.passes.any fun y => y.entry.drainOut && y.phase ≠ .retired && !y.dead && y.entry.overlaps e

/-- The pass that array a admits in this array cycle (R45, R48): its tile row 0 is in column 0 (condition 3). -/
def State.canAdmit (s : State) (p a : Nat) : Option Entry :=
  let x := (s.pier p).array a
  if s.arrayShut p a || !x.entryFree then none
  else (s.headPass p a).filter fun e => !x.holdShort e && !x.holdAcc e && decide (0 < x.launched e.no)

/-- The pass whose pass-end marker is due (R44). -/
def Array8.endDue (x : Array8) : Option PassRun :=
  x.passes.find? fun y => y.phase = .entering && y.entry.slots * cyclesPerSlot y.entry.cls ≤ y.age

/-- Output rows a pass delivers: fewer when it is abandoned. -/
def PassRun.rows (y : PassRun) : Nat := if !y.dead then y.entry.mRows else if y.drainOnly then y.out else y.entered

/-- The oldest pass, once its last output row has entered the drain joint (R44, R63). -/
def Array8.drainDue (x : Array8) : Option PassRun :=
  x.inCore.head?.filter fun y => y.phase ≠ .entering && decide (y.rows ≤ y.out)

/-- The repeat that may enter: every pass admitted before is drain-complete, and a DIRECT pass's tile row 0 is launched
again (R151). -/
def Array8.reissueDue (x : Array8) : Option PassRun :=
  if x.inCore.isEmpty then
    (x.passes.find? fun y => y.phase = .repeatDue).filter fun y => y.entry.accMode ≠ 0 || decide (0 < x.launched y.entry.no)
  else none

/-- An event of array a is due in this array cycle: it comes before the cycle. -/
def State.eventDue (s : State) (p a : Nat) : Bool :=
  let x := (s.pier p).array a
  (s.canAdmit p a).isSome || x.endDue.isSome || x.drainDue.isSome || x.reissueDue.isSome

/-- The pass at the head of the queue is held back in this cycle: the counter of the hold. Where the limit or condition 2
and condition 4 hold it back together, MAR_GAP_SHORT alone counts (DESIGN CHOICE, log entry 119); while a repeat keeps
the array shut PSQ_REISSUE_CYC counts (R45, R50, R64, R151). -/
def State.countHold (s : State) (p a : Nat) : State :=
  let x := (s.pier p).array a
  if x.passes.any fun y => y.phase = .repeatDue || (y.phase = .repeating && !y.dead && y.entered < y.entry.mRows) then
    s.bump (psqOff p + 0x48) 1
  else if s.arrayShut p a || !x.entryFree then s
  else match s.headPass p a with
    | none => s
    | some e =>
      if x.holdShort e then s.bump (marOff p a + 0x30) 1
      else if x.holdAcc e then s.bump (marOff p a + 0x34) 1
      else s

/-! ## One array cycle (R43, R49, R52) -/

/-- Row numbers that enter in this array cycle: those of the slot that begins. -/
def PassRun.dueIn (y : PassRun) : List Nat :=
  let r := rowsPerSlot y.entry.cls
  if !y.dead && (y.phase = .entering || (y.phase = .repeating && y.entry.accMode = 0)) &&
      y.age % cyclesPerSlot y.entry.cls = 0 then
    ((List.range r).map fun i => r * y.front + i).filter fun m => m < y.entry.mRows
  else []

/-- Accumulator rows that a drain-only repeat reads in this array cycle: one a row time (R151). -/
def PassRun.dueRead (y : PassRun) : List Nat :=
  if y.drainOnly && !y.dead then
    ((List.range (rowsPerSlot y.entry.cls)).map fun i => y.entered + i).filter fun m =>
      decide (m < y.entry.mRows ∧ m * halfRowTime y.entry.cls / 2 ≤ y.age)
  else []

/-- The array cycle of a pass in which its output row m enters the drain joint (R43, R151). -/
def PassRun.outAge (y : PassRun) (m : Nat) : Nat :=
  if y.drainOnly then m * halfRowTime y.entry.cls / 2 + 12
  else (m / rowsPerSlot y.entry.cls + 511) * cyclesPerSlot y.entry.cls + 12

/-- Row numbers that leave the drain pipeline in this array cycle. -/
def PassRun.dueOut (y : PassRun) : List Nat :=
  ((List.range (rowsPerSlot y.entry.cls)).map fun i => y.out + i).filter fun m => decide (m < y.rows ∧ y.outAge m ≤ y.age)

/-- The first rows of a joint are these rows of a pass. -/
def jointHas (no : Nat) (want : List Nat) (l : List JointRow) : Bool :=
  ((l.take want.length).map fun r => (r.no, r.m)) = want.map fun m => (no, m)

/-- The counter of the first cause that freezes the array in this array cycle, as an offset in its block (R49, R52). Rows
leave in the order of the passes: only the oldest pass in the array delivers (DEDUCED, log entry 119). -/
def Array8.freeze (x : Array8) : Option Nat :=
  let core := x.inCore
  let leaving := match core with
    | y :: _ => if y.dead then none else some y
    | [] => none
  let noRow := core.any fun y => !jointHas y.entry.no y.dueIn x.inputJoint
  let noSide := match leaving with
    | some y => y.entry.useSide && !jointHas y.entry.no y.dueOut x.sideJoint
    | none => false
  let full := match leaving with
    | some y => y.entry.drainOut && decide (jointCap < x.drainJoint.length + y.dueOut.length)
    | none => false
  let launch := core.any fun y => !y.dead && !y.drainOnly && y.age % cyclesPerSlot y.entry.cls = 0 &&
    decide (y.front < y.entry.kValid) && decide (x.launched y.entry.no ≤ y.front)
  if noRow then some 0x20 else if noSide then some 0x24 else if full then some 0x28 else if launch then some 0x2C
  else none

/-- Change the pass of a number. -/
def Array8.updPass (x : Array8) (no : Nat) (f : PassRun → PassRun) : Array8 :=
  { x with passes := x.passes.map fun y => if y.entry.no = no then f y else y }

/-- Accumulator rows read in this array cycle, with the pass that reads them: a drain-only repeat's, and those that an
ACCUMULATE pass adds to as its rows leave (R39, R151). -/
def Array8.accReads (x : Array8) : List (Nat × Nat) :=
  let one (y : PassRun) (l : List Nat) : List (Nat × Nat) := l.map fun m => (y.entry.no, y.entry.accBase + m)
  ((x.inCore.filter fun y => y.drainOnly).map fun y => one y y.dueRead).flatten ++
  (match x.inCore.head? with
   | some y => if !y.dead && y.entry.accMode = 2 && !y.drainOnly then one y y.dueOut else []
   | none => [])

/-- The accumulator store's check of the rows read in a cycle (R41, R508): corrected words are counted; an uncorrected
error faults the pass, and the record names the first accumulator row read, at the place of an address (DESIGN CHOICE,
log entry 120). -/
def State.accCheck (s : State) (p a corrected : Nat) (bad : Bool) : State :=
  match ((s.pier p).array a).accReads with
  | [] => s
  | (no, row) :: _ =>
    let (inj, s) := s.inject [3] (8 * p + a) 0
    let s := if corrected = 0 then s else (s.bump (marOff p a + 0x48) corrected).score 0 16 corrected
    if bad || inj.isSome then s.failPass p a no ⟨0x0311, row, 0⟩ else s

/-- The rows due enter the array (R43, R71). -/
def State.enterRows (s : State) (p a : Nat) : State :=
  ((s.pier p).array a).inCore.foldl (fun s y =>
    let n := y.dueIn.length
    let s := s.updArray p a fun x =>
      { x.updPass y.entry.no (fun z =>
          { z with entered := z.entered + n + z.dueRead.length,
                   flight := z.flight ++ (x.inputJoint.take n).map fun r => r.runs }) with
        inputJoint := x.inputJoint.drop n }
    if n = 0 then s else s.add64 (marOff p a + 0x18) n) s

/-- The pass sums of the oldest row in flight (R33, R38, R46). -/
def Array8.sumsOf (x : Array8) (y : PassRun) : List Nat :=
  let tile := x.tiles.get [] y.entry.no
  let w := y.entry.weights (tile.map (fun r => r.row) ++ (tile.map fun r => r.scale).filter fun l => l ≠ [])
  passSums y.entry.acc none (List.zip (y.entry.rowElems (y.flight.headD [])) w)

/-- The products behind the pass sums of the oldest row in flight, by column (R79, R156). -/
def Array8.productsOf (x : Array8) (y : PassRun) : List (List Fp) :=
  let tile := x.tiles.get [] y.entry.no
  let w := y.entry.weights (tile.map (fun r => r.row) ++ (tile.map fun r => r.scale).filter fun l => l ≠ [])
  (List.range y.entry.nValid).map fun n =>
    List.zipWith (fun v l => v.mul (l.getD n .nan)) (y.entry.rowElems (y.flight.headD [])) w

/-- The gauge buffer takes the sampled row's pass sums as they leave the columns (R155). A pass that is abandoned before
gives no sample and counts neither in PSQ_GAUGE_SMP nor in PSQ_GAUGE_SKIP (DESIGN CHOICE, log entry 119). -/
def State.gaugeCapture (s : State) (p a : Nat) (y : PassRun) (m : Nat) (sums : List Nat) : State :=
  let x := s.pier p
  match x.gaugeBuf with
  | some g =>
    if !g.full && g.array = a && g.no = y.entry.no && m = y.entry.sampleRow && y.attempts = 0 then
      (s.updPier p fun z => { z with gaugeBuf := some { g with
        full := true, sums := sums.map fun v => BitVec.ofNat 32 v, products := (x.array a).productsOf y } }).bump
        (psqOff p + 0x38) 1
    else s
  | none => s

/-- What the pass sums become in the accumulator store (R39). -/
def Array8.accMeet (x : Array8) (e : Entry) (m : Nat) (sums : List Nat) : List Nat :=
  if e.accMode = 2 then
    (List.zip (List.range sums.length) sums).map fun y =>
      accAdd e.acc (x.accGet e.acc (e.accBase + m) y.1) (elemVal e.acc y.2)
  else sums

/-- The bias of a pass, read before its first output row (R61). -/
def State.biasOf (s : State) (p : Nat) (y : PassRun) : Except MemFault (List Nat) × State :=
  match y.bias with
  | some l => (.ok l, s)
  | none =>
    let runs := if y.entry.drainOut && ddStage y.entry.desc.toNat 2 then [(y.entry.addr 5, 4 * y.entry.nValid)] else []
    match s.readRuns (s.client p y.entry.ser) (s.pier p).tag (reachSram p) 0x052B runs with
    | (.error f, s) => (.error f, s)
    | (.ok b, s) => (.ok (unpack 32 (b.getD 0 [])), s)

/-- An output row: the elements through the drain's stages, packed (R61, R76, R124). -/
def drainRow (y : PassRun) (m : Nat) (bias : List Nat) (side : List Byte) (acc : List Nat) : List ConvResult × List Byte :=
  let e := y.entry
  let d := e.desc.toNat
  let sv := unpack (fmtWidth (ddSideFmt d)) side
  let rs := (List.zip (List.range e.nValid) acc).map fun x =>
    e.drainElem d y.attempts x.2 (fp32.decode (bias.getD x.1 0)) (elemVal (ddSideFmt d) (sv.getD x.1 0))
      (e.aux + 256 * m + x.1)
  (rs, sliceBytes (pack (fmtWidth (fld d 0 4)) (rs.map fun r => r.bits)) 0 (rowBytes (fld d 0 4) e.nValid))

/-- Output row m of the oldest pass: column sums or the accumulator row, the store, the drain's stages, and the row's
place in the drain joint (R39, R61 to R63). -/
def State.outRow (s : State) (p a : Nat) (y : PassRun) (m : Nat) : State :=
  let e := y.entry
  let x := (s.pier p).array a
  match s.biasOf p y with
  | (.error f, s) => s.failPass p a e.no f
  | (.ok bias, s) =>
    let sums := if y.drainOnly then [] else x.sumsOf y
    let v := if y.drainOnly then (List.range e.nValid).map fun n => x.accGet e.acc (e.accBase + m) n
      else x.accMeet e m sums
    let s := if y.drainOnly then s else s.gaugeCapture p a y m sums
    let s := if e.accMode = 0 || y.drainOnly then s
      else s.updArray p a fun x => x.accRow e.acc (e.accBase + m) 0 v
    let s := s.updArray p a fun x => x.updPass e.no fun z =>
      { z with out := z.out + 1, flight := z.flight.drop 1, bias := some bias }
    if !e.drainOut then s
    else
      let side := if e.useSide then ((x.sideJoint.headD { no := 0, m := 0, runs := [] }).runs.getD 0 []) else []
      let (rs, row) := drainRow y m bias side v
      s.updArray p a fun x =>
        { x.updPass e.no (fun z => { z with report := z.report.join (ConvReport.all (rs.map fun r => r.rep)) }) with
          sideJoint := if e.useSide then x.sideJoint.drop 1 else x.sideJoint,
          drainJoint := x.drainJoint ++ [{ no := e.no, m := m, runs := [row] }] }

/-- The rows of the oldest pass that are due leave the drain pipeline. -/
def State.outRows (s : State) (p a : Nat) : State :=
  match ((s.pier p).array a).inCore with
  | [] => s
  | y :: _ => y.dueOut.foldl (fun s m =>
      match ((s.pier p).array a).inCore with
      | z :: _ => if z.dead then s.updArray p a (fun x => x.updPass z.entry.no fun z => { z with out := z.out + 1 })
        else s.outRow p a z m
      | [] => s) s

/-- Every pass in the array grows older by an array cycle. -/
def Array8.older (x : Array8) : Array8 :=
  { x with passes := x.passes.map fun y => if y.inCore then { y with age := y.age + 1 } else y }

/-- One array cycle, unless an event is due first: holds are counted, then the array freezes and counts one cause, or its
rows move on; the launch bus writes either way. -/
def State.arrayCycle (s : State) (p a corrected : Nat) (bad : Bool) : State :=
  if s.eventDue p a then s
  else
    let s := s.countHold p a
    match ((s.pier p).array a).freeze with
    | some off => ((s.bump (marOff p a + off) 1).updArray p a fun x => { x with frozen := true }).launchCycle p a
    | none =>
      let s := (((s.accCheck p a corrected bad).enterRows p a).outRows p a)
      (s.updArray p a fun x => { x.older with frozen := false }).launchCycle p a

/-- The pass that the oldest row of a joint belongs to; of the launch bus, the pass whose tile it writes (R67). -/
def PierState.jointOwner (x : PierState) (a : Nat) : Joint → Option Nat
  | .weight => (x.array a).weightJoint.head?.map fun r => r.no
  | .launch => (x.launchTarget a).map fun e => e.1.no
  | .input => (x.array a).inputJoint.head?.map fun r => r.no
  | .side => (x.array a).sideJoint.head?.map fun r => r.no

/-- One step of array a. -/
def State.arrayStep (s : State) (p a : Nat) (t : ArrayStep) : State :=
  let s := s.sweep p a
  match t with
  | .weight => s.weightStep p a
  | .stream => s.streamStep p a
  | .side => s.sideStep p a
  | .write => s.writeStep p a
  | .parity j => match (s.pier p).jointOwner a j with
    | some no => s.failPass p a no ⟨0x0312, 0, 0⟩
    | none => s
  | .cycle corrected bad => s.arrayCycle p a corrected bad

/-- What happens at array a before its next event. -/
def State.arrayRun (s : State) (p a : Nat) (l : List ArrayStep) : State := l.foldl (fun s t => s.arrayStep p a t) s

end Sys2Proof.Machine
end

