-- ==== Sys2Proof/Machine/Arrays.lean ====
section
/-! DEFINITION. Matrix arrays: a PASS at its dispatch, and the events of its array from admission to completion (chapter
02; R122 to R128, R144, R150 to R155, R554). -/
namespace Sys2Proof.Machine
open Sys2Proof

/-! ## Dispatch (R125, R127, R554) -/

/-- The drain descriptor index of a PASS (R123). -/
def passDd (w1 : Nat) : Nat := fld w1 2 6

/-- The accumulator check of R40. -/
def Entry.accBad (e : Entry) : Bool :=
  if e.accMode = 0 then !e.drainOut else decide ((if e.cls = 4 then 2048 else 4096) < e.accBase + e.mRows)

/-- The checks of a drain descriptor d for the pass that uses it, orders 6 to 10 of R554. -/
def Entry.drainCheck (e : Entry) (d : Nat) : Option Nat :=
  let fmt := fld d 0 4
  let side := ddStage d 3 && funcSide (ddFunc d)
  let stages := ddStage d 1 || ddStage d 2 || ddStage d 3
  if fld d 29 3 ≠ 0 || fld d 200 56 ≠ 0 || 32 ≤ ddStep d || ddDest d % 8 ≠ 0 || ddDest d < rowBytes fmt e.nValid ||
      (side && (ddSide d % 8 ≠ 0 || ddSide d < rowBytes (ddSideFmt d) e.nValid)) then some 0x0521
  else match convCheck (ddConv d) (if e.cls = 4 then 8 else 7) with
    | some c => some c
    | none =>
      if (fmt = 11 && (!e.isInt || stages)) || (e.cls = 4 && fmt ≠ 7 && fmt ≠ 8) then some 0x0228
      else if ddStage d 1 && ((fp32.decode (ddF d)).isNan || (fp32.decode (ddF d)).isInf) then some 0x0227
      else if ddStage d 3 && (!funcOk (ddFunc d) || (e.cls = 4 && ddFunc d ≠ 0 && ddFunc d ≠ 1 && ddFunc d ≠ 0x80)) then
        some 0x0229
      else none

/-- The first failing check of a pass at dispatch, in the order of R554. -/
def Entry.passCheck (e : Entry) (d : Option Nat) : Option Nat :=
  if e.accMode = 3 ∨ e.statSrc = 3 ∨ e.gauge = 3 then some 0x0521
  else if e.drainOut && d.isNone then some 0x0527
  else if passClass e.statFmt e.strmFmt = none then some 0x0221
  else match scaleCheck e.statSdesc e.statFmt, scaleCheck e.strmSdesc e.strmFmt with
    | some c, _ => some c
    | none, some c => some c
    | none, none =>
      if e.accBad then some 0x0222
      else if e.drainOut then e.drainCheck (d.getD 0) else none

/-- Bytes that the staging SRAM of pier p served in the last 1,024 array cycles (R229). The window is in time: a cycle
lasts 1,000 / f ns at f MHz. -/
def State.sramServed (s : State) (p : Nat) : Nat :=
  ((s.sramLog.filter fun x => x.2.1 = p && decide ((s.elapsed - x.1) * s.clockMhz < 1024 * 1000)).map fun x => x.2.2).sum

/-- The load signature at a selection (R229): the SRAM's demand is in 1/256 of 16,384 bytes for each of 1,024 array
cycles (R58). -/
def State.signature (s : State) (p : Nat) : Nat :=
  let x := s.pier p
  let busy := ((List.range 8).filter fun a => !(x.array a).inCore.isEmpty).length
  busy + (s.clockMhz - 300) / 25 * 16 + s.phys.droop.get 0 p * 256 + b2n x.gaugeSkippedHeld * 2 ^ 11 +
    min 255 (s.sramServed p * 256 / (16384 * 1024)) * 2 ^ 12 + (x.queue 8).length * 2 ^ 20

/-- The eligible count of a pier after a pass, and whether the pass is selected (R154, R460). -/
def State.gaugePick (s : State) (p : Nat) (e : Entry) : Bool × Nat :=
  let n := s.rfld (psqOff p + 0x30) 0 16 + 1
  let c := (s.pier p).gaugeCount
  if e.gauge = 2 && e.cls ≤ 2 then (true, c)
  else if e.gauge = 1 && e.cls ≤ 2 then (if n ≤ c + 1 then (true, 0) else (false, c + 1))
  else (false, c)

/-- The entry of a pass with what it captures at dispatch (R126, R128, R154, R155, R228). -/
def State.passEntry (s : State) (p : Nat) (r : RunTask) (w0 w1 : Nat) (d : Option (BitVec 256)) : Entry × Nat :=
  let x := s.pier p
  let e := entryOf r w0 w1
  let e := { e with
    addrs := [x.addr (fld w0 84 24), x.addr (fld w1 8 24), x.addrBytes (fld w1 32 24), x.addr (fld w1 56 24),
              x.addr (fld w1 80 24), x.addr (fld w1 104 24)],
    aux := (ddIndex (d.getD 0).toNat + x.xc.get 0 e.passArray) % 2 ^ 32, desc := d.getD 0, layer := x.layer,
    no := (x.array e.passArray).nextNo }
  match s.gaugePick p e with
  | (false, c) => (e, c)
  | (true, c) =>
    ({ e with
        sampled := true, sampleRow := (s.reg (psqOff p + 0x38)).toNat % e.mRows, signature := s.signature p,
        gaugeT := s.rfld (psqOff p + 0x34) 0 6, mhz := s.clockMhz, droop := s.phys.droop.get 0 p }, c)

/-- PASS at dispatch (R125, R143, R455, R554). -/
def execPass (p : Pier) (s : State) : Host.Outcome State Fault Refusal :=
  .next (s.dispatch p (· = 0x40) fun s r w0 w1 =>
    let x := s.pier p
    let e := entryOf r w0 w1
    let d := x.descs.get none (passDd w1)
    if !bit x.arrOn (e.passArray / 2) then s.seqFaultCode p r.task.ser 13 r.pc 0x0104 []
    else match e.passCheck (d.map fun b => b.toNat) with
      | some c => s.seqFaultCode p r.task.ser 13 r.pc c (passBits p e.passArray c)
      | none =>
        if queueCap e.passArray ≤ (x.queue e.passArray).length then s.bump (psqOff p + 0x50) 1
        else
          let (e', c) := s.passEntry p r w0 w1 d
          s.enqueue p e.passArray 2 r e' fun x => { x with
            gaugeCount := c,
            arrays := x.arrays.put e.passArray { x.array e.passArray with nextNo := (x.array e.passArray).nextNo + 1 },
            xc := if e.drainOut then x.xc.put e.passArray ((x.xc.get 0 e.passArray + 256 * e.mRows) % 2 ^ 32) else x.xc })

/-! ## Admission (R44, R48, R68, R125, R138, R155) -/

/-- The pass-start and pass-end stamps are the array's own (R44, R439). -/
def State.arrayStamp (s : State) (p a : Nat) : Nat × State := s.stamp 2 (8 * p + a)

/-- The gauge buffer is taken for a selected pass at its admission; a buffer that holds an unchecked sample skips it
(R155). -/
def State.gaugeTake (s : State) (p a : Nat) (e : Entry) : State :=
  if !e.sampled then s
  else if (s.pier p).gaugeBuf.isSome then
    (s.updPier p fun x => { x with gaugeSkippedHeld := true }).bump (psqOff p + 0x40) 1
  else
    let g : GaugeSample :=
      { no := e.no, full := false, tag := (s.pier p).tag, array := a, cls := e.cls, layer := e.layer, integer := e.isInt,
        sums := [], products := [], signature := e.signature, thr := e.gaugeT, mhz := e.mhz, droop := e.droop }
    s.updPier p fun x => { x with gaugeBuf := some g }

/-- A pass enters its array. -/
def PassRun.enter (e : Entry) (start : Nat) : PassRun :=
  { entry := e, phase := .entering, age := 0, entered := 0, flight := [], out := 0, bias := none, dead := false,
    start := start, attempts := 0, report := ConvReport.reset, behind := [] }

/-- Admit the head of queue a: the pass-start marker and the marks that wait for it. -/
def State.admitPass (s : State) (p a : Nat) (e : Entry) : State :=
  let (t, s) := s.arrayStamp p a
  let marks := ((s.pier p).array a).marks
  let s := (s.pop p a).updArray p a fun x =>
    { x with passes := x.passes ++ [PassRun.enter e t], marks := [], lastSer := some e.ser }
  let s := s.setReg (marOff p a + 0xC) (BitVec.ofNat 32 (s.pier p).tag)
  marks.foldl (fun s m => s.markRecord p t m) (s.gaugeTake p a e)

/-- PASS_ADMISSION: after what happens at the array before, the head of its queue is admitted if R48 lets it enter in this
array cycle (R42, R45, R48, R68, R151). -/
def execPassAdmission (p : Pier) (a : Arr) (steps : List ArrayStep) (s : State) : Host.Outcome State Fault Refusal :=
  let s := s.arrayRun p a steps
  .next (match s.canAdmit p a with
    | some e => s.admitPass p a e
    | none => s)

/-- PASS_END_MARKER: the last row of the entering pass has left the input joint (R44). -/
def execPassEndMarker (p : Pier) (a : Arr) (steps : List ArrayStep) (s : State) : Host.Outcome State Fault Refusal :=
  let s := s.arrayRun p a steps
  .next (match ((s.pier p).array a).endDue with
    | none => s
    | some y =>
      let (t, s) := s.arrayStamp p a
      s.updArray p a fun x =>
        { x.updPass y.entry.no (fun z => { z with phase := .ended }) with lastEnd := some (y.entry.ser, t) })

/-! ## Drain-complete, repeats and completion (R43, R63, R144, R150 to R153) -/

/-- What the feeders had read ahead for passes not yet admitted gives way to a repeat: the side rows, and for a DIRECT
repeat, which streams and launches again, everything (DESIGN CHOICE, log entry 119). The repeat itself starts over. -/
def PierState.giveWay (x : PierState) (a : Nat) (e : Entry) : PierState :=
  let y := x.array a
  let queued := (x.queue a).map fun q => q.no
  let direct := e.accMode = 0
  let y := if direct then y.keepOnly ((y.passes.map fun z => z.entry.no).filter (· ≠ e.no))
    else { y with
      sideJoint := y.sideJoint.filter fun r => !queued.contains r.no,
      feeds := y.feeds.map fun f =>
        if queued.contains f.1 || f.1 = e.no then (f.1, ({ f.2 with side := 0 } : Feed)) else f }
  let x := { x with arrays := x.arrays.put a y }
  if direct then x.setQueue a ((x.queue a).map fun q => { q with farAsked := none }) else x

/-- The sequencer decides on a drain-out's report (R63, R150): a repeat with a stepped scale, or retirement, whose counts
reach the registers (R152). -/
def State.judge (s : State) (p a : Nat) (y : PassRun) : State :=
  let e := y.entry
  if e.drainOut && y.report.overflow && ddStep e.desc.toNat ≠ 0 && y.attempts < 2 then
    (s.updArray p a fun x => x.updPass e.no fun z => { z with phase := .repeatDue }).updPier p (PierState.giveWay · a e)
  else
    let s := if e.drainOut then s.addReport (marOff p a + 0x3C) (marOff p a + 0x40) (marOff p a + 0x44) y.report else s
    let s := if e.drainOut && y.report.overflow && y.attempts = 2 then s.bump (psqOff p + 0x4C) 1 else s
    s.updArray p a fun x => x.updPass e.no fun z => { z with phase := .retired }

/-- An abandoned pass has passed through: it leaves the array (R158). -/
def State.leavePass (s : State) (p a : Nat) (y : PassRun) : State :=
  ((s.dropPass p a y.entry.no).drop p y.entry.ser).sweep p a

/-- DRAIN_COMPLETE: the last output row of the oldest pass has entered the drain joint (R43, R63). MAR_PASS_CNT counts the
pass, not its repeats (DESIGN CHOICE, log entry 119). -/
def execDrainComplete (p : Pier) (a : Arr) (steps : List ArrayStep) (s : State) : Host.Outcome State Fault Refusal :=
  let s := s.arrayRun p a steps
  .next (match ((s.pier p).array a).drainDue with
    | none => s
    | some y =>
      let s := s.updArray p a fun x => { x with tiles := x.tiles.del y.entry.no }
      if y.dead then s.leavePass p a y
      else (if y.attempts = 0 then s.add64 (marOff p a + 0x10) 1 else s).judge p a y)

/-- A repeat begins (R150, R151): its rows, report and tile start over. -/
def PassRun.again (y : PassRun) : PassRun :=
  { y with
    phase := .repeating, age := 0, entered := 0, flight := [], out := 0, bias := none, attempts := y.attempts + 1,
    report := ConvReport.reset }

/-- OVERFLOW_REISSUE: the repeat that is due enters the array (R150 to R153). -/
def execOverflowReissue (p : Pier) (a : Arr) (steps : List ArrayStep) (s : State) : Host.Outcome State Fault Refusal :=
  let s := s.arrayRun p a steps
  .next (match ((s.pier p).array a).reissueDue with
    | none => s
    | some y => (s.updArray p a fun x => x.updPass y.entry.no PassRun.again).bump (psqOff p + 0x44) 1)

/-- F_a of the retired attempt follows the output rows when FOUT is 1 (R124, R152). -/
def State.writeFactor (s : State) (p : Nat) (y : PassRun) : Option MemFault × State :=
  let e := y.entry
  let d := e.desc.toNat
  if e.drainOut && ddFout d then
    s.writeVa (s.client p e.ser) (s.pier p).tag (reachOwn p) 0x052B ((e.addr 3 + e.mRows * ddDest d) % 2 ^ 64)
      (toBytes (factorAt d y.attempts) 4)
  else (none, s)

/-- PASS_COMPLETION: the oldest pass has retired and its rows have left the drain joint; DONE_TC (R144, R145, R152). -/
def execPassCompletion (p : Pier) (a : Arr) (steps : List ArrayStep) (s : State) : Host.Outcome State Fault Refusal :=
  let s := s.arrayRun p a steps
  let x := (s.pier p).array a
  .next (match x.passes with
    | y :: r =>
      if y.phase = .retired && !(x.drainJoint.any fun q => q.no = y.entry.no) then
        match s.writeFactor p y with
        | (some f, s) => s.failPass p a y.entry.no f
        | (none, s) =>
          ((s.updArray p a fun x => { x with passes := r, feeds := x.feeds.del y.entry.no }).tcAdd p y.entry.passTc 1).completeAll
            p (y.entry.ser :: y.behind)
      else s
    | [] => s)

/-- ACC_ZEROING_DONE: the 4,096 cycles of zeroing have passed (R42). -/
def execAccZeroingDone (p : Pier) (a : Arr) (s : State) : Host.Outcome State Fault Refusal :=
  .next (s.updArray p a fun x => { x with zeroing := false })

/-! ## MAR_CTRL (R68) -/

/-- MAR_CTRL.EN. -/
def execMarCtrlEn (p : Pier) (a : Arr) (v : Bool) (s : State) : Host.Outcome State Fault Refusal :=
  .next (s.setRfld (marOff p a) 0 1 (b2n v))

/-- MAR_CTRL.HALT. -/
def execMarCtrlHalt (p : Pier) (a : Arr) (v : Bool) (s : State) : Host.Outcome State Fault Refusal :=
  .next (s.setRfld (marOff p a) 1 1 (b2n v))

/-- MAR_CTRL.CNT_CLR: the counters at 0x20 to 0x48. -/
def execMarCtrlCntClr (p : Pier) (a : Arr) (s : State) : Host.Outcome State Fault Refusal :=
  .next (s.clearRegs (marOff p a + 0x20) 11)

end Sys2Proof.Machine
end

