-- ==== Sys2Proof/Machine/Adders.lean ====
section
/-! DEFINITION. The memory-side adders: plain reductions, ordered reduction windows and their rounds (R267 to R278). -/
namespace Sys2Proof.Machine
open Sys2Proof

/-! ## Pairs and sums (R267, R269) -/

/-- The sum format of a pair, a format code, if the pair is permitted (R267). -/
def sumFmt (sfmt dfmt : Nat) : Option Nat :=
  if sfmt = 5 ∧ dfmt = 5 then some 7
  else if sfmt = 5 ∧ dfmt = 7 then some 7
  else if sfmt = 7 ∧ dfmt = 7 then some 7
  else if sfmt = 8 ∧ dfmt = 8 then some 8
  else if sfmt = 11 ∧ dfmt = 11 then some 11
  else none

/-- The pair a REDUCE or chunk names is permitted (R267, R268). -/
def pairOk (sfmt dfmt : Nat) (wide ordered : Bool) : Bool :=
  (sumFmt sfmt dfmt).isSome && (!wide || (sfmt = 11 && !ordered))

/-- An element widened to the sum format, as bits: exact, a subnormal at its value (R77), a NaN as the canonical one
(R75). -/
def widen (fmt sum w : Nat) : Nat :=
  match fpFmt sum with
  | some f => f.round 0 (elemVal fmt w)
  | none => w

/-- The addition of a sum format on bits (R269); a widened NaN is written canonically. -/
def sumAdd (sum a b : Nat) : Nat := accAdd sum a (elemVal sum b)

/-- Width in bytes of an element of a format. -/
def fmtBytes (f : Nat) : Nat := fmtWidth f / 8

/-- A plain reduction's element: widen(d) plus the widened values in order, kept in the sum format, and BF16 results by
C once (R269, R270). That values of one REDUCE that fall on one element are converted once, with the single write of
their atom, is DEDUCED (log entry 134). -/
def plainSum (sfmt dfmt : Nat) (wide : Bool) (d : Nat) (l : List Nat) : ConvResult :=
  if wide then { bits := l.foldl (fun a v => wrap (sext a 64 + sext v 32) 64) d, rep := ConvReport.reset }
  else
    let sum := (sumFmt sfmt dfmt).getD 7
    let v := l.foldl (fun a x => sumAdd sum a (widen sfmt sum x)) (widen dfmt sum d)
    if dfmt = 5 then convert (convOf 0x105 0) (elemVal 7 v) v 0 else { bits := v, rep := ConvReport.reset }

/-- Report conversions to a stack's DMC_SAT_CNT, DMC_FTZ_CNT and DMC_RMAX (R269). -/
def State.dmcReport (s : State) (n : Nat) (r : ConvReport) : State :=
  s.addReport (dmcOff n + 0x54) (dmcOff n + 0x58) (dmcOff n + 0x5C) r

/-- Apply values to the element at a local address of stack n. -/
def State.plainPut (s : State) (n sfmt dfmt : Nat) (wide : Bool) (a : Nat) (l : List Nat) : State :=
  let w := if wide then 8 else fmtBytes dfmt
  let r := plainSum sfmt dfmt wide (ofBytes (Memory.readList s.mem a w)) l
  { s.dmcReport n r.rep with mem := Memory.writeList s.mem a (toBytes r.bits w) }

/-- The elements of a plain reduction that fall into the atom of la, by local address: one read and one write of the
atom (R262, R267, R270, R282). -/
def State.plainAtom (s : State) (tag : Nat) (peer : Bool) (ecc : Ecc) (sfmt dfmt : Nat) (wide : Bool) (la va : Nat)
    (l : List (Nat × Nat)) : Option MemFault × State :=
  match place la with
  | .stack n _ =>
    match s.serve la tag peer with
    | (.stale, s) => (some ⟨0x0304, va, la⟩, s)
    | (.fault c, s) => (some ⟨c, va, la⟩, s)
    | (.ok, s) =>
      match (s.add64 (dmcOff n + 0x28) 64).checkAtom n la ecc with
      | (false, s) => (some ⟨0x0321, va, la⟩, s.orReg (dmcOff n + 8) 2)
      | (true, s) =>
        (none, ((l.map (·.1)).eraseDups.foldl (fun s a =>
          s.plainPut n sfmt dfmt wide a ((l.filter fun x => x.1 = a).map (·.2))) s).add64 (dmcOff n + 0x30) 64)
  | .sram _ _ => (some ⟨0x0330, va, la⟩, s)
  | _ => (some ⟨0x0302, va, la⟩, s)

/-- The adders reject a pair with 0x0330 (R267, R288). -/
def State.pairError (s : State) (la : Nat) : State :=
  match place la with
  | .stack n _ => s.orReg (dmcOff n + 8) 0x10
  | _ => s

/-- Elements by address, grouped by the atom they fall into, atoms in the order first met (R267, R270). -/
def atomGroups (l : List (Nat × Nat)) : List (Nat × List (Nat × Nat)) :=
  (l.map fun x => x.1 / 64).eraseDups.map fun a => (64 * a, l.filter fun x => x.1 / 64 = a)

/-- A plain reduction of elements by local address, atom after atom; the first fault stops it. -/
def State.plainAll (s : State) (tag : Nat) (peer : Bool) (ecc : Ecc) (sfmt dfmt : Nat) (wide : Bool) :
    List (Nat × List (Nat × Nat)) → Option MemFault × State
  | [] => (none, s)
  | (la, l) :: r => match s.plainAtom tag peer ecc sfmt dfmt wide la 0 l with
    | (some f, s) => (some f, s)
    | (none, s) => State.plainAll s tag peer ecc sfmt dfmt wide r

/-! ## Windows (R272 to R277) -/

/-- SFMT of a PAIR byte. -/
def pairS (p : Nat) : Nat := fld p 0 4
/-- DFMT of a PAIR byte. -/
def pairD (p : Nat) : Nat := fld p 4 4

/-- The sum format of a window. -/
def Window.sumF (w : Window) : Nat := (sumFmt w.sfmt w.dfmt).getD 7
/-- Segments of a dense window (R274). -/
def Window.segs (w : Window) : Nat := cdiv w.len 64
/-- Destination elements of a window. -/
def Window.elems (w : Window) : Nat :=
  if w.indexed then w.len * 64 / fmtBytes w.dfmt else w.len * 64 / fmtBytes w.sfmt

/-- Local address of byte o of an area of a window, through the page list taken at its open (R273). -/
def areaAddr (pages : List Nat) (va o : Nat) : Nat :=
  pages.getD ((va % 2 ^ 21 + o) / 2 ^ 21) 0 * 2 ^ 21 + (va + o) % 2 ^ 21

/-- Local address of element i of a window's SUM area. -/
def Window.sumAt (w : Window) (i : Nat) : Nat := areaAddr w.sumPages w.sum (i * fmtBytes w.sumF)
/-- Local address of element i of a window's DST. -/
def Window.dstAt (w : Window) (i : Nat) : Nat := areaAddr w.dstPages w.dst (i * fmtBytes w.dfmt)

/-- Element i of a window's SUM area, widened sums as bits. -/
def State.sumGet (s : State) (w : Window) (i : Nat) : Nat :=
  ofBytes (Memory.readList s.mem (w.sumAt i) (fmtBytes w.sumF))

/-- Write element i of a window's SUM area. -/
def State.sumPut (s : State) (w : Window) (i v : Nat) : State :=
  { s with mem := Memory.writeList s.mem (w.sumAt i) (toBytes v (fmtBytes w.sumF)) }

/-- Element i of a window's DST, as bits of DFMT. -/
def State.dstGet (s : State) (w : Window) (i : Nat) : Nat :=
  ofBytes (Memory.readList s.mem (w.dstAt i) (fmtBytes w.dfmt))

/-- Write element i of a window's DST. -/
def State.dstPut (s : State) (w : Window) (i v : Nat) : State :=
  { s with mem := Memory.writeList s.mem (w.dstAt i) (toBytes v (fmtBytes w.dfmt)) }

/-- What an adder reads at a local address: the value there, or a free value where the atom is held uncorrectable, whose
data is never passed on (R282). -/
def State.adderRead (s : State) (la v : Nat) : Nat × State := if s.isBad la then s.free else (v, s)

/-- The start value of an element's running sum (R276). -/
def State.sumStart (s : State) (w : Window) (i : Nat) : Nat × State :=
  if w.init then s.adderRead (w.dstAt i) (widen w.dfmt w.sumF (s.dstGet w i)) else (0, s)

/-- Add elements from index i on, `first` when the running sum starts with them (dense, rank 0). -/
def State.addDense (s : State) (w : Window) (first : Bool) : Nat → List Nat → State
  | _, [] => s
  | i, v :: r =>
    let (a, s) := if first then s.sumStart w i else s.adderRead (w.sumAt i) (s.sumGet w i)
    State.addDense (s.sumPut w i (sumAdd w.sumF a (widen w.sfmt w.sumF v))) w first (i + 1) r

/-- Add indexed elements in list order (R276). -/
def State.addIndexed (s : State) (w : Window) : List (Nat × Nat) → State
  | [] => s
  | (i, v) :: r =>
    let (a, s) := s.adderRead (w.sumAt i) (s.sumGet w i)
    State.addIndexed (s.sumPut w i (sumAdd w.sumF a (widen w.sfmt w.sumF v))) w r

/-- Start every running sum of an indexed window, elements 0 to n - 1 (R276). -/
def State.startSums (s : State) (w : Window) : Nat → State
  | 0 => s
  | n + 1 =>
    let (a, s) := (State.startSums s w n).sumStart w n
    s.sumPut w n a

/-- The whole atoms of an area that the adders have written are correct again (R282). -/
def State.healed (s : State) (pages : List Nat) (va off bytes : Nat) : State :=
  { s with badAtoms := s.badAtoms.filter fun a =>
      !((List.range (bytes / 64)).any fun j => areaAddr pages va (off + 64 * j) = 64 * a) }

/-- Count the bytes that the adders read and write on a stack's channels (R290). -/
def State.adderBytes (s : State) (n rd wr : Nat) : State := (s.add64 (dmcOff n + 0x28) rd).add64 (dmcOff n + 0x30) wr

/-- Record an error against a round: the lowest failing rank is kept (R275, R277, R282). -/
def Window.fail (w : Window) (rank cause : Nat) : Window :=
  { w with err := match w.err with
    | some (r, c) => if rank < r then some (rank, cause) else some (r, c)
    | none => some (rank, cause) }

/-- The chunk is next at the window (R275 action 6). -/
def Window.isNext (w : Window) (c : ChunkReq) : Bool :=
  if w.indexed then c.rank = w.rank && c.seg = w.seg else c.rank = w.nextRank.get 0 c.seg

/-- The chunk duplicates one already added or parked (R275 action 5). -/
def Window.isDup (w : Window) (c : ChunkReq) : Bool :=
  (w.parked.any fun x => x.2.rank = c.rank && x.2.seg = c.seg) ||
  (if w.indexed then decide (c.rank < w.rank) || (c.rank = w.rank && decide (c.seg < w.seg))
   else decide (c.rank < w.nextRank.get 0 c.seg))

/-- Source bytes that segment j of a dense window holds (R274). -/
def Window.segBytes (w : Window) (j : Nat) : Nat := min 4096 (w.len * 64 - j * 4096)

/-- The chunk does not fit its window (R275 action 5). -/
def Window.misfit (w : Window) (c : ChunkReq) : Bool :=
  decide (w.n ≤ c.rank) || w.isDup c || pairS c.pair.toNat ≠ w.sfmt || pairD c.pair.toNat ≠ w.dfmt ||
  c.indexed ≠ w.indexed ||
  (if w.indexed then c.indices.any fun i => decide (w.elems ≤ i.toNat)
   else decide (w.segs ≤ c.seg) || c.data.length ≠ w.segBytes c.seg)

/-- Every contribution of the round has been added (R277). -/
def Window.done (w : Window) : Bool :=
  if w.indexed then decide (w.n ≤ w.rank)
  else (List.range w.segs).all fun j => decide (w.n ≤ w.nextRank.get 0 j)

/-- Source elements of a chunk. -/
def chunkElems (sfmt : Nat) (c : ChunkReq) : List Nat := unpack (fmtWidth sfmt) c.data

/-- The first element of DST or SUM that a chunk of a dense window touches. -/
def Window.segBase (w : Window) (c : ChunkReq) : Nat := c.seg * (4096 / fmtBytes w.sfmt)

/-- Local addresses that the adders read to add a chunk of k elements: the running sums, or DST where INIT starts them
(R276). -/
def Window.chunkReads (x : Window) (c : ChunkReq) (k : Nat) : List Nat :=
  if x.indexed then
    (if x.added = 0 && x.init then (List.range x.elems).map x.dstAt else []) ++
      c.indices.map fun i => x.sumAt i.toNat
  else
    let l := (List.range k).map (x.segBase c + ·)
    if c.rank ≠ 0 then l.map x.sumAt else if x.init then l.map x.dstAt else []

/-- Bytes that the adders read and write to add a chunk of k elements; an indexed chunk reads and writes each atom it
touches once (R270, R271). -/
def Window.chunkTraffic (x : Window) (c : ChunkReq) (k : Nat) : Nat × Nat :=
  if x.indexed then
    let m := 64 * ((c.indices.map fun i => x.sumAt i.toNat / 64).dedup).length
    (m + (if x.added = 0 && x.init then x.elems * fmtBytes x.dfmt else 0),
     m + (if x.added = 0 then x.elems * fmtBytes x.sumF else 0))
  else
    (if c.rank ≠ 0 then k * fmtBytes x.sumF else if x.init then k * fmtBytes x.dfmt else 0, k * fmtBytes x.sumF)

/-- Add a chunk that is next at window w of stack n (R275 action 6, R276). An uncorrectable atom that the adders read
fails the round (R282). -/
def State.addChunk (s : State) (n w : Nat) (c : ChunkReq) : State :=
  let x := s.win n w
  let v := chunkElems x.sfmt c
  let reads := x.chunkReads c v.length
  let bytes := x.chunkTraffic c v.length
  let la := reads.headD c.dst.toNat
  let (inj, s) := (s.adderBytes n bytes.1 bytes.2).inject [1, 2] n la
  let ecc := eccWith c.ecc inj
  let s := if ecc = .uncorrectable then
      { s with badAtoms := (la / 64) :: s.badAtoms.filter (· ≠ la / 64) }
    else if ecc = .corrected then s.noteCe n la
    else s
  let found := ((s.badAtoms.filter fun a => a = la / 64 && ecc = .uncorrectable || reads.any fun r => r / 64 = a))
  let bad := !found.isEmpty
  let s := found.foldl (fun s a => s.noteUe n (a * 64 % 2 ^ 36)) s
  let s :=
    if x.indexed then
      let s := if x.added = 0 then (s.startSums x x.elems).healed x.sumPages x.sum 0 (x.elems * fmtBytes x.sumF) else s
      s.addIndexed x (List.zip (c.indices.map (·.toNat)) v)
    else
      let s := s.addDense x (c.rank = 0) (x.segBase c) v
      if c.rank = 0 then s.healed x.sumPages x.sum (x.segBase c * fmtBytes x.sumF) (v.length * fmtBytes x.sumF) else s
  s.updWin n w fun x =>
    let x := { x with added := x.added + 1 }
    let x := if bad then x.fail c.rank 0x0320 else x
    if x.indexed then
      (if c.last then { x with rank := x.rank + 1, seg := 0 } else { x with seg := x.seg + 1 })
    else { x with nextRank := x.nextRank.put c.seg (c.rank + 1) }

/-- 64-byte units that a chunk takes where it is parked. -/
def chunkUnits (c : ChunkReq) : Nat := cdiv (c.data.length + 4 * c.indices.length) 64

/-- Add every parked chunk that has become next, in rank and segment order (R275 action 6). -/
def State.addParked (s : State) (n w : Nat) : Nat → State
  | 0 => s
  | k + 1 =>
    let x := s.win n w
    match x.parked.find? fun c => x.isNext c.2 with
    | some c =>
      let s := (s.updWin n w fun x => { x with parked := x.parked.erase c }).adderBytes n (64 * chunkUnits c.2) 0
      State.addParked (s.addChunk n w c.2) n w k
    | none => s

/-- Units of the 16 MiB park buffer of a stack in use (R272). -/
def State.parkUsed (s : State) (n : Nat) : Nat :=
  ((s.stack n).windows.map fun w => ((w.2.parked.filter fun c => !c.1).map fun c => chunkUnits c.2).sum).sum

/-- The window that matches a tag and a first DST atom (R274). -/
def State.winMatch (s : State) (n tag dst : Nat) : Option Nat :=
  ((s.stack n).windows.find? fun w => w.2.state ≠ .closed && w.2.tag = tag && w.2.dstLa = dst).map (·.1)

/-- a - b of two 32-bit numbers as a signed number (R275). -/
def epochDiff (a b : Nat) : Int := sext (a + 2 ^ 32 - b % 2 ^ 32) 32

/-- A round is complete: it begins to finish (R277). -/
def State.winSettle (s : State) (n w : Nat) : State :=
  if (s.win n w).done then s.updWin n w fun x => { x with state := .finishing } else s

/-- One arriving chunk at stack n: the first action of R275 that applies. -/
def State.chunkAct (s : State) (n : Nat) (c : ChunkReq) : ReplyKind × State :=
  let refuse (s : State) : ReplyKind × State := (.refusedChunk, s.bump (dmcOff n + 0x48) 1)
  match s.winMatch n c.tag.toNat c.dst.toNat with
  | none => refuse s
  | some w =>
    let x := s.win n w
    let d := epochDiff c.epoch.toNat x.epoch
    if x.state ≠ .opn then refuse s
    else if 0 < d then refuse s
    else if d < 0 ∨ (c.round.toNat ≠ x.round ∧ c.round.toNat ≠ (x.round + 1) % 2 ^ 16) then
      (.accepted, s.bump (dmcOff n + 0x40) 1)
    else if c.round.toNat ≠ x.round then refuse s
    else if x.misfit c then
      (.fault 0x0331, (s.orReg (dmcOff n + 8) 0x10).updWin n w fun x => x.fail c.rank 0x0331)
    else if x.isNext c then
      (.accepted, ((s.addChunk n w c).addParked n w x.parked.length).winSettle n w)
    else if s.parkUsed n + chunkUnits c ≤ 16 * 2 ^ 20 / 64 then
      (.accepted, (s.adderBytes n 0 (64 * chunkUnits c)).updWin n w fun x => { x with parked := x.parked ++ [(false, c)] })
    else if ((x.parked.filter (·.1)).map fun c => chunkUnits c.2).sum + chunkUnits c ≤ x.parkLen then
      (.accepted, (s.adderBytes n 0 (64 * chunkUnits c)).updWin n w fun x => { x with parked := x.parked ++ [(true, c)] })
    else refuse s

/-- A chunk request as the base die takes it: the stack's service, a pier reset, which refuses it, and the fence first
(R262, R266, R279, R284). -/
def State.chunkServe (s : State) (c : ChunkReq) : ReplyKind × State :=
  match place c.dst.toNat with
  | .stack n _ =>
    if !s.stackUp n then (.fault 0x0323, s)
    else if (s.stack n).resetting then (.refusedChunk, s.bump (dmcOff n + 0x48) 1)
    else if (s.stack n).fenced = some c.tag.toNat then (.stale, s.bump (dmcOff n + 0x40) 1)
    else match s.ownerRule n c.dst.toNat c.tag.toNat c.peer with
      | (.ok, s) => s.chunkAct n c
      | (_, s) => (.stale, s)
  | .sram _ _ => (.fault 0x0330, s)
  | _ => (.fault 0x0302, s)

/-- An element of a finished round as it goes to DST (R269, R277). -/
def Window.final (w : Window) (v : Nat) : ConvResult :=
  if w.dfmt = 5 then convert (convOf w.conv 0) (elemVal 7 v) v 0 else { bits := v, rep := ConvReport.reset }

/-- Write elements 0 to k - 1 of SUM to DST and report their conversions (R277). -/
def State.finishDst (s : State) (n w : Nat) : Nat → State
  | 0 => s
  | k + 1 =>
    let s := State.finishDst s n w k
    let x := s.win n w
    let (v, s) := s.adderRead (x.sumAt k) (s.sumGet x k)
    let r := x.final v
    (s.dmcReport n r.rep).dstPut x k r.bits

/-- The adders write a finished round to DST: an uncorrectable atom of SUM that they read fails the round, at rank 0
where no rank has failed (R277, R282). -/
def State.finishRound (s : State) (n w : Nat) : State :=
  let x := s.win n w
  let found := s.badAtoms.filter fun a => (List.range x.elems).any fun i => x.sumAt i / 64 = a
  let s := found.foldl (fun s a => s.noteUe n (a * 64 % 2 ^ 36)) s
  let s := (s.finishDst n w x.elems).adderBytes n (x.elems * fmtBytes x.sumF) (x.elems * fmtBytes x.dfmt)
  let s := s.healed x.dstPages x.dst 0 (x.elems * fmtBytes x.dfmt)
  if found.isEmpty then s
  else s.updWin n w fun x => { x with err := x.err.or (some (0, 0x0320)) }

/-- A round in FINISHING is stopped: each DST element is the result or its former value, unstated which (R266, R278). -/
def State.mixDst (s : State) (n w : Nat) : Nat → State
  | 0 => s
  | k + 1 =>
    let (f, s) := (State.mixDst s n w k).free
    let x := s.win n w
    s.dstPut x k (if f % 2 = 1 then (x.final (s.sumGet x k)).bits else s.dstGet x k)

/-- A window after its round: nothing added, nothing parked. -/
def Window.clean (w : Window) : Window :=
  { w with nextRank := [], rank := 0, seg := 0, parked := [], added := 0, err := none }

/-- What an abandoned window had completed: segments of a dense window, ranks of an indexed one (R278). -/
def Window.progress (w : Window) : Nat :=
  if w.indexed then w.rank else ((List.range w.segs).filter fun j => decide (w.n ≤ w.nextRank.get 0 j)).length

/-- SUM after an abandoned round holds values that nothing states (R278). -/
def State.undefSums (s : State) (w : Window) : Nat → State
  | 0 => s
  | k + 1 => let (f, s) := (State.undefSums s w k).free; s.sumPut w k f

/-- Abandon window w of stack n into a state, with or without its event; a FINISHING round is stopped if `stop`, and
left to complete otherwise (R266, R278, R279). -/
def State.abandonWin (s : State) (n w : Nat) (dest : WinState) (event stop : Bool) : State :=
  let x := s.win n w
  if x.state = .closed ∨ (x.state = .finishing ∧ !stop) ∨ (x.state = .abandoned ∧ dest = .abandoned) then s
  else
    let fresh := x.state ≠ .abandoned
    let s := if x.state = .finishing then s.mixDst n w x.elems else s
    let s := if fresh then (s.undefSums x x.elems).bump (dmcOff n + 0x4C) 1 else s
    let s := s.updWin n w fun x => { x.clean with state := if x.closing.isSome then .closed else dest }
    if event then s.record 4 n 0x0333 false (some x.tag)
      (detail [(w, 1), (0, 1), (x.round, 2), (x.progress, 4), (x.epoch, 4)])
    else s

/-- Abandon every window of a stack that a test picks. -/
def State.abandonWins (s : State) (n : Nat) (pick : Window → Bool) (dest : WinState) (event stop : Bool) : State :=
  ((s.stack n).windows.filter fun w => pick w.2).foldl (fun s w => s.abandonWin n w.1 dest event stop) s

end Sys2Proof.Machine
end

