-- ==== Sys2Proof/Machine/Keys.lean ====
section
/-! DEFINITION. Host memory, interrupts and the mailbox fields: what the keystone uses to answer the host (R428 to R436,
R442, R444, R445, R449). -/
namespace Sys2Proof.Machine
open Sys2Proof

/-- HP_BAY.ROLE: 0 ALONE, 1 LANDING, 2 MEMBER. -/
def State.role (s : State) : Nat := s.rfld (hpOff + 0xC) 0 2
/-- HP_BAY.LANDING. -/
def State.landing (s : State) : Nat := s.rfld (hpOff + 0xC) 16 13

/-! ## Host memory (R430, R442, R449, R452) -/

/-- A write to host memory; a member's goes to its landing module (R449). It fails while the host port is down. -/
def State.hostWrite (s : State) (addr : Nat) (d : List Byte) : State :=
  if s.role = 2 then (s.sendMsg 0 s.landing 3 (toBytes addr 8 ++ d)).add64 (hpOff + 0x18) d.length
  else if s.hp.up then (s.emit (.hostWrite addr d)).add64 (hpOff + 0x18) d.length
  else s.orReg (hpOff + 4) 0x10

/-- Ask host memory for bytes on behalf of mailbox m (R430, R449). -/
def State.hostAsk (s : State) (m addr n : Nat) : State :=
  if s.role = 2 then s.sendMsg 0 s.landing 4 (toBytes m 2 ++ toBytes addr 8 ++ toBytes n 8)
  else s.emit (.hostRead m addr n)

/-! ## Interrupts (R444, R445) -/

/-- The vector control word's mask bit; a bay member's own table has been consulted before its message (R449). -/
def State.vecMasked (s : State) (v : Nat) : Bool := decide (v < 2048) && bit (s.reg (0x51000C + 16 * v)).toNat 0

/-- Send a vector's message, or set its pending bit while it is masked. -/
def State.msixSend (s : State) (v : Nat) : State :=
  if s.vecMasked v then
    { s with hp := { s.hp with pendingBits := if s.hp.pendingBits.contains v then s.hp.pendingBits
                                              else v :: s.hp.pendingBits } }
  else ({ s with hp := { s.hp with lastMsg := s.hp.lastMsg.put v s.elapsed } }.emit (.msix v)).bump (hpOff + 0x20) 1

/-- A vector is due: sent, held back within HOLDOFF µs of its last message, or merged into the one held (R445). -/
def State.msixDue (s : State) (v : Nat) : State :=
  if s.hp.held.contains v then s.bump (hpOff + 0x24) 1
  else
    let close := match s.hp.lastMsg.find v with
      | some t => decide (s.elapsed < t + 1000 * s.rfld (hpOff + 8) 0 8)
      | none => false
    if close then { s with hp := { s.hp with held := v :: s.hp.held } } else s.msixSend v

/-- Raise a vector; a member's goes to its landing module unless the member's table masks it (R444, R449). -/
def State.msix (s : State) (v : Nat) : State :=
  if 2048 ≤ v then s
  else if s.role = 2 && !s.vecMasked v then s.sendMsg 0 s.landing 2 (toBytes v 2)
  else s.msixDue v

/-! ## Mailbox fields (R428, R432, R436) -/

/-- n bytes of a mailbox from an offset. -/
def Mailbox.read (x : Mailbox) (o : Nat) : Nat → List Byte
  | 0 => []
  | n + 1 => x.bytes.get 0 o :: x.read (o + 1) n

/-- Bytes written into a mailbox. -/
def Mailbox.write (x : Mailbox) (o : Nat) (d : List Byte) : Mailbox := { x with bytes := x.bytes.putList o d }

/-- Write bytes of the RESULT area. -/
def State.mbResult (s : State) (m o : Nat) (d : List Byte) : State := s.updMb m fun x => x.write (0x800 + o) d

/-- The command taken from mailbox m, if it holds this opcode. -/
def State.takenCmd (s : State) (m opcode : Nat) : Option Taken :=
  match (s.mb m).taken with
  | some t => if t.opcode = opcode then some t else none
  | none => none

/-- PROG with DONE and BP (R436). -/
def progWord (done total : Nat) : Nat := done % 2 ^ 48 + (if total = 0 then 0 else 10000 * done / total) * 2 ^ 48

/-- Write PROG; TOTAL stands (R436). -/
def State.mbProg (s : State) (m done : Nat) : State :=
  s.updMb m fun x =>
    let total := (x.taken.map fun t => t.total).getD 0
    { x.write 0x20 (toBytes (progWord done total) 8) with taken := x.taken.map fun t => { t with done := done } }

/-- Write TOTAL and keep it with the command (R436). -/
def State.mbTotal (s : State) (m total : Nat) : State :=
  s.updMb m fun x =>
    { x.write 0x28 (toBytes total 8) with taken := x.taken.map fun t => { t with total := total } }

/-- Complete the command of mailbox m with a status (R432): STATUS, STAMP, OWN, then its event and its vector. -/
def State.mbDone (s : State) (m status : Nat) : State :=
  match (s.mb m).taken with
  | none => s
  | some t =>
    let (st, s) := s.stamp 11 m
    let s := s.updMb m fun x =>
      { (x.write 0x10 (toBytes status 2)).write 0x18 (toBytes st 8) with owner := false, cancel := false, taken := none }
    let s := if bit t.flags 0 then
        s.record 11 m 0x0511 false (if t.ctx < 64 then some t.tag else none)
          (detail [(m, 2), (t.opcode, 2), (t.seq, 4), (status, 2)])
      else s
    if bit t.flags 1 && (s.mb m).vector ≠ 0xFFFF then s.msix (s.mb m).vector else s

/-- Complete a command that reports progress: DONE equals TOTAL and BP is 10,000 (R436). -/
def State.mbDoneAll (s : State) (m : Nat) : State :=
  let total := ((s.mb m).taken.map fun t => t.total).getD 0
  (s.updMb m fun x => x.write 0x20 (toBytes (total % 2 ^ 48 + 10000 * 2 ^ 48) 8)).mbDone m 0

/-- The immediate part of the command in mailbox m, which its row runs once, after the host memory it asked for has
come (R430, R433). -/
def State.command (s : State) (m opcode : Nat) (f : State → Taken → State) : State :=
  match s.takenCmd m opcode with
  | some t => if t.waits || (t.ask.isSome && t.data.isNone) then s else f s t
  | none => s

/-- The command of mailbox m stays until its completion event (R433). -/
def State.mbWait (s : State) (m : Nat) (f : Taken → Taken) : State :=
  s.updMb m fun x => { x with taken := x.taken.map fun t => { f t with waits := true } }

/-- Mailboxes whose waiting command satisfies a test, in order. -/
def State.waitingMbs (s : State) (p : Taken → Bool) : List Nat :=
  (s.ks.mbs.filter fun x => match x.2.taken with
    | some t => t.waits && p t
    | none => false).map (·.1)

/-- A little-endian argument of a command: n bytes at offset o of ARGS. -/
def Taken.arg (t : Taken) (o n : Nat) : Nat := leAt t.args o n

end Sys2Proof.Machine
end

