-- ==== Sys2Proof/Machine/Vector.lean ====
section
/-! DEFINITION. The vector engine: dispatch checks, element arithmetic, loads, stores and the optimiser primitive
(chapter 05). -/
namespace Sys2Proof.Machine
open Sys2Proof

/-! ## Fields (R176 to R178) -/

/-- VD. -/
def vVD (w : Nat) : Nat := fld w 8 5
/-- VA. -/
def vVA (w : Nat) : Nat := fld w 13 5
/-- VB. -/
def vVB (w : Nat) : Nat := fld w 18 5
/-- VC. -/
def vVC (w : Nat) : Nat := fld w 23 5
/-- TYPE: 0 FP32, 1 FP64, 2 INT32. -/
def vType (w : Nat) : Nat := fld w 28 2
/-- VL. -/
def vVL (w : Nat) : Nat := fld w 32 11 + 1
/-- RMODE. -/
def vRmode (w : Nat) : Nat := fld w 43 3
/-- IMMB. -/
def vImmb (w : Nat) : Bool := bit w 46
/-- FUNC of a one-word instruction. -/
def vFunc (w : Nat) : Nat := fld w 47 8
/-- SUB of a one-word instruction. -/
def vSub (w : Nat) : Nat := fld w 55 8
/-- IMM of a one-word instruction. -/
def vImm (w : Nat) : Nat := fld w 64 64
/-- The format code of a TYPE. -/
def typeFmt (t : Nat) : Nat := if t = 0 then 7 else if t = 1 then 8 else 11
/-- The rounding format of a TYPE. -/
def typeFp (t : Nat) : FpFmt := if t = 1 then fp64 else fp32

/-- What a vector instruction uses of word 0: VD, VA, VB, VC, RMODE, IMMB, FUNC bits, SUB, IMM. -/
structure VUse where
  vd : Bool
  va : Bool
  vb : Bool
  vc : Bool
  rm : Bool
  immb : Bool
  func : Nat
  sub : Bool
  imm : Bool
deriving DecidableEq, Repr

/-- The fields each one-word instruction uses (R176, R177); VB and the immediate replace each other under IMMB. -/
def vUse (w : Nat) : VUse :=
  let ib := vImmb w
  let base : VUse :=
    { vd := true, va := true, vb := false, vc := false, rm := false, immb := false, func := 0, sub := false,
      imm := false }
  let two (u : VUse) : VUse := { u with vb := !ib, immb := true, imm := ib }
  match opc w with
  | 0x80 => { two base with vc := true, rm := true }
  | 0x84 => { two base with rm := true }
  | 0x88 => { two base with rm := true }
  | 0x8C =>
    let u := { base with sub := true }
    match vSub w with
    | 0 => two u
    | 1 => two u
    | 4 => { two u with vc := true }
    | 5 => { u with vb := true, rm := true }
    | _ => u
  | 0x90 => let u := { base with sub := true, rm := true }; if vSub w = 3 then two u else u
  | 0x94 => let u := { base with func := 8, rm := true }; if funcSide (vFunc w) then two u else u
  | 0x98 =>
    let u := { base with sub := true, func := 3 }
    if fld (vFunc w) 0 3 = 4 then two u else if fld (vFunc w) 0 3 = 1 then { u with imm := true } else u
  | _ => { base with sub := true, func := 4, rm := vSub w ≤ 1 }

/-- R555 order 1 for a one-word instruction: reserved and unused fields, reserved TYPE, SUB, modes. -/
def vReserved1 (w : Nat) : Bool :=
  let u := vUse w
  let immBits := if u.imm then (if vType w = 1 then 64 else 32) else 0
  !onlyFields w ([(0, 8), (28, 2), (32, 11), (47, u.func)] ++
    (if u.vd then [(8, 5)] else []) ++ (if u.va then [(13, 5)] else []) ++ (if u.vb then [(18, 5)] else []) ++
    (if u.vc then [(23, 5)] else []) ++ (if u.rm then [(43, 3)] else []) ++ (if u.immb then [(46, 1)] else []) ++
    (if u.sub then [(55, 8)] else []) ++ [(64, immBits)]) ||
  vType w = 3 ||
  (match opc w with
   | 0x8C => decide (5 < vSub w) || (vSub w = 5 && (decide (4 ≤ vVB w) || vVB w = 3))
   | 0x90 => decide (7 < vSub w)
   | 0x98 => decide (4 < fld (vFunc w) 0 3)
   | 0x9C => decide (3 < vSub w)
   | _ => false)

/-- R555 order 1 for a two-word instruction. -/
def vReserved2 (w0 w1 : Nat) : Bool :=
  match opc w0 with
  | 0xA0 => !onlyFields w0 [(0, 8), (8, 5), (28, 2), (32, 11), (47, 4), (51, 8), (64, 24), (88, 24)] ||
      !onlyFields w1 [(0, 2), (8, 16)] || vType w0 = 3
  | 0xA4 => !onlyFields w0 [(0, 8), (13, 5), (28, 2), (32, 11), (47, 16), (63, 1), (64, 24), (88, 24)] ||
      !onlyFields w1 [(0, 2), (8, 16), (32, 32), (64, 32)] || vType w0 = 3
  | 0xA8 => !onlyFields w0 [(0, 8), (13, 5), (28, 2), (32, 11), (47, 16), (63, 1), (64, 24), (88, 24)] ||
      !onlyFields w1 [(0, 2), (8, 8), (32, 24)] || vType w0 = 3
  | _ => !onlyFields w0 [(0, 15), (32, 96)] || !onlyFields w1 [(0, 2), (8, 24), (32, 24), (64, 32), (96, 32)] ||
      fld w0 12 2 = 3

/-- R191: the pairings of MFMT and TYPE that VLD permits. -/
def vldPair (mfmt t : Nat) : Bool :=
  (t = 0 && mfmt ≤ 7) || (t = 1 && (mfmt = 7 || mfmt = 8)) || (t = 2 && (mfmt = 9 || mfmt = 10 || mfmt = 11))

/-- R555 order 2: operations, function codes and pairings that are not defined. -/
def vUndefined (w0 : Nat) : Bool :=
  let t := vType w0
  match opc w0 with
  | 0x90 => t = 2 || (4 ≤ vSub w0 && t ≠ 0)
  | 0x94 => t ≠ 0 || !funcOk (vFunc w0)
  | 0xA0 => !vldPair (fld w0 47 4) t
  | 0xA8 => t ≠ 0
  | 0xB0 => !(fld w0 8 4 = 5 || fld w0 8 4 = 7)
  | _ => false

/-- ESTRIDE is bad for a format (R178, R179). -/
def badEstride (fmt es : Nat) : Bool :=
  fmtOk fmt && es ≠ 0 && (decide (fmtWidth fmt < 8) || es % (fmtWidth fmt / 8) ≠ 0)

/-- R555 order 3: VL, SEGLOG and ESTRIDE. -/
def vRange (w0 w1 : Nat) : Bool :=
  let t := vType w0
  let o := opc w0
  let wide := t = 1 || (o = 0x8C && vSub w0 = 5 && vVB w0 = 1)
  (o ≠ 0xB0 && wide && decide (1024 < vVL w0)) ||
  (o = 0x9C && (fld (vFunc w0) 0 4 = 0 || decide ((if t = 1 then 10 else 11) < fld (vFunc w0) 0 4))) ||
  (o = 0xA0 && badEstride (fld w0 47 4) (fld w1 8 16)) ||
  (o = 0xA4 && badEstride (fld w0 47 4) (fld w1 8 16))

/-- R555 order 4: scale descriptors. -/
def vScaleCheck (w0 w1 : Nat) : Option Nat :=
  match opc w0 with
  | 0xA0 => if bit (fld w0 51 8) 3 then some 0x0226 else scaleCheck (fld w0 51 8) (fld w0 47 4)
  | 0xA8 =>
    let d := fld w1 8 8
    if bit d 3 || fld d 0 3 = 0 || fld d 0 3 = 7 || fld d 5 3 ≠ 0 then some 0x0226 else none
  | _ => none

/-- R555 order 5: CONV of VST and VQST. -/
def vConvCheck (w0 : Nat) : Option Nat :=
  match opc w0 with
  | 0xA4 => convCheck (fld w0 47 16) (typeFmt (vType w0))
  | 0xA8 => match convCheck (fld w0 47 16) 7 with
    | some c => some c
    | none => if fld w0 47 4 ≤ 4 then none else some 0x0226
  | _ => none

/-- R555 order 6: RMODE of word 0. -/
def vModeCheck (w0 : Nat) : Option Nat :=
  let used := opc w0 < 0xA0 && (vUse w0).rm
  if used && 6 ≤ vRmode w0 then some 0x0224
  else if used && vRmode w0 = 4 then some 0x0223
  else none

/-- The dispatch checks of a vector instruction in the order of R555. -/
def vecCheck (w0 w1 : Nat) : Option Nat :=
  if (if opc w0 < 0xA0 then vReserved1 w0 else vReserved2 w0 w1) then some 0x0521
  else if vUndefined w0 then some 0x0229
  else if vRange w0 w1 then some 0x022A
  else match vScaleCheck w0 w1 with
    | some c => some c
    | none => match vConvCheck w0 with
      | some c => some c
      | none => vModeCheck w0

/-- The error bits of VEC_ERR that a status sets (R199). -/
def vecBits (p code : Nat) : List (Nat × Nat) :=
  if code = 0x0313 then [(vecOff p + 8, 0)] else if code = 0x052B then [(vecOff p + 8, 1)]
  else if code = 0x0229 then [(vecOff p + 8, 2)] else if code = 0x022A then [(vecOff p + 8, 3)] else []

/-- The address operands of a two-word vector instruction, in the order ADDR or G, SADDR or RADDR or S, SN, P, O. -/
def vecAddrs (x : PierState) (w0 w1 : Nat) : List Nat :=
  match opc w0 with
  | 0xA0 => [x.addr (fld w0 64 24), x.addr (fld w0 88 24)]
  | 0xA4 => [x.addr (fld w0 64 24), x.addr (fld w0 88 24)]
  | 0xA8 => [x.addr (fld w0 64 24), x.addr (fld w0 88 24), x.addr (fld w1 32 24)]
  | 0xB0 => [x.addr (fld w0 32 24), x.addr (fld w0 56 24), x.addr (fld w0 80 24), x.addr (fld w0 104 24),
      x.addr (fld w1 8 24)]
  | _ => []

/-- Dispatch of a vector instruction to VQ: reserved fields are checked a cycle before the rest (R119, R125, R148, R174,
R455). A rejected one is never queued, so that its fault names FE (R164). -/
def State.vecDispatch (s : State) (p o : Nat) : State :=
  s.dispatch p (· = o) fun s r w0 w1 =>
    let x := s.pier p
    let fail (c : Nat) : State := s.seqFaultCode p r.task.ser 13 r.pc c (vecBits p c)
    match vecCheck w0 w1 with
    | some c => fail (if c = 0x0521 || x.vecOn then c else 0x0104)
    | none =>
      if !x.vecOn then fail 0x0104
      else s.enqueue p 8 (if isTwoWord o then 2 else 1) r { entryOf r w0 w1 with addrs := vecAddrs x w0 w1 } id

/-! ## The register file (R170) -/

/-- The vector register word of an element. -/
def vword (reg : Nat) (wide : Bool) (i : Nat) : Nat := reg * 1024 + (if wide then i else i / 2)

/-- Element i of a register as bits. -/
def PierState.vget (x : PierState) (reg : Nat) (wide : Bool) (i : Nat) : Nat :=
  let w := (x.vregs.get 0 (vword reg wide i)).toNat
  if wide then w else fld w (32 * (i % 2)) 32

/-- The first n elements of a register as bits. -/
def PierState.vread (x : PierState) (reg t n : Nat) : List Nat := (List.range n).map fun i => x.vget reg (t = 1) i

/-- Set element i of a register. -/
def PierState.vset (x : PierState) (reg : Nat) (wide : Bool) (i v : Nat) : PierState :=
  let k := vword reg wide i
  let w := (x.vregs.get 0 k).toNat
  { x with vregs := x.vregs.put k (BitVec.ofNat 64 (if wide then v else setFld w (32 * (i % 2)) 32 v)) }

/-- Write elements from i on; elements past them keep their values. -/
def PierState.vwrite (x : PierState) (reg : Nat) (wide : Bool) : Nat → List Nat → PierState
  | _, [] => x
  | i, v :: r => (x.vset reg wide i v).vwrite reg wide (i + 1) r

/-- An element's value in a TYPE. -/
def tval (t w : Nat) : Fp := elemVal (typeFmt t) w

/-- Bits with a NaN replaced by the canonical NaN of TYPE (R75). -/
def canon (t w : Nat) : Nat := if t = 2 then w else if (tval t w).isNan then (typeFp t).nan else w

/-! ## Element operations -/

/-- An exact result rounded once to TYPE by a mode; INT32 is taken modulo 2^32 (R180). -/
def toType (t mode : Nat) (v : Fp) : Nat :=
  if t = 2 then (match v with | .fin n m e => wrap (Fp.signed n (m * 2 ^ e.toNat)) 32 | _ => 0)
  else (typeFp t).round mode v

/-- d = a * b + c, rounded once (R180). -/
def vfmaElem (t mode a b c : Nat) : Nat := toType t mode (Fp.add mode ((tval t a).mul (tval t b)) (tval t c))
/-- d = a + b, rounded once (R180). -/
def vaddElem (t mode a b : Nat) : Nat := toType t mode (Fp.add mode (tval t a) (tval t b))
/-- d = a * b, rounded once (R180). -/
def vmulElem (t mode a b : Nat) : Nat := toType t mode ((tval t a).mul (tval t b))

/-- MIN orders -0 below +0 and returns NaN if either operand is NaN (R181). -/
def vmin (t a b : Nat) : Nat :=
  let x := tval t a
  let y := tval t b
  if x.isNan || y.isNan then (typeFp t).nan
  else if Fp.cmp x y < 0 then a else if 0 < Fp.cmp x y then b else if x.neg then a else b

/-- MAX, the other choice of MIN. -/
def vmax (t a b : Nat) : Nat :=
  let x := tval t a
  let y := tval t b
  if x.isNan || y.isNan then (typeFp t).nan
  else if Fp.cmp x y < 0 then b else if 0 < Fp.cmp x y then a else if x.neg then b else a

/-- The sign bit of a TYPE. -/
def signBit (t : Nat) : Nat := if t = 1 then 2 ^ 63 else 2 ^ 31

/-- VCMP but for CVT (R181). -/
def vcmpElem (t sub a b c : Nat) : Nat :=
  match sub with
  | 0 => vmin t a b
  | 1 => vmax t a b
  | 2 => if t = 2 then wrap (sext a 32).natAbs 32 else canon t (a % signBit t)
  | 3 => if t = 2 then wrap (-(sext a 32)) 32 else canon t (a ^^^ signBit t)
  | _ => canon t (if !(tval t c).isNan && decide (0 < Fp.cmp (tval t c) (.fin false 0 0)) then a else b)

/-- VSPEC (R182). -/
def vspecElem (t mode sub a b : Nat) : Nat :=
  let x := tval t a
  let v := match sub with
    | 0 => x.sqrt
    | 1 => x.rsqrt
    | 2 => (Fp.fin false 1 0).div x
    | 3 => x.div (tval t b)
    | 4 => x.exp
    | 5 => x.exp2
    | 6 => x.log
    | _ => x.log2
  (typeFp t).round mode v

/-- VSHF (R183): a and b are whole registers of VL elements. -/
def vshfElem (t : Nat) (a b : List Nat) (vl : Nat) (s : Int) (mode imm i : Nat) : Nat :=
  let j : Int := (i : Int) + s
  let at' (l : List Nat) (k : Int) : Nat := l.getD k.toNat 0
  canon t (
    if 0 ≤ j ∧ j < vl then at' a j
    else match mode with
      | 0 => 0
      | 1 => imm
      | 2 => if j < 0 then at' a 0 else at' a (vl - 1)
      | 3 => at' a (j % vl)
      | _ => if vl ≤ j ∧ j < 2 * vl then at' b (j - vl)
             else if j < 0 ∧ -(vl : Int) ≤ j then at' b (j + vl) else 0)

/-- One level of VRED's tree: pairs combine, a node with no right child keeps its left (R184). -/
def treeLevel (f : Nat → Nat → Nat) : List Nat → List Nat
  | a :: b :: r => f a b :: treeLevel f r
  | l => l

/-- The tree of SEGLOG levels (R184). -/
def tree (f : Nat → Nat → Nat) : Nat → List Nat → List Nat
  | 0, l => l
  | n + 1, l => tree f n (treeLevel f l)

/-- VRED over a vector: one result for each segment of 2^SEGLOG elements (R184). -/
def vredAll (t mode sub seglog : Nat) (l : List Nat) : List Nat :=
  let l := if sub = 1 then l.map fun a => vmulElem t mode a a else l
  let f := match sub with
    | 2 => vmax t
    | 3 => vmin t
    | _ => vaddElem t mode
  let one (x : List Nat) : Nat := match x with
    | [a] => canon t a
    | _ => (tree f seglog x).headD 0
  (pieces (2 ^ seglog) l.length l).map one

/-! ## Running an instruction at the head of VQ (R170, R174) -/

/-- The source registers of a vector instruction (R176 to R178). -/
def vReads (w : Nat) : List Nat :=
  if opc w = 0xA4 ∨ opc w = 0xA8 then [vVA w]
  else if 0xA0 ≤ opc w then []
  else
    let u := vUse w
    (if u.va then [vVA w] else []) ++ (if u.vb && !(opc w = 0x8C && vSub w = 5) then [vVB w] else []) ++
      (if u.vc then [vVC w] else [])

/-- The latency of a vector instruction in array cycles; a store or load of the stack takes 6 and the time of its
accesses, which is left out (R196, log entry 121). -/
def vecLatency (w : Nat) : Nat :=
  match opc w with
  | 0x98 => 4
  | 0x9C => 6 + 2 * fld (vFunc w) 0 4
  | 0x94 => 12
  | 0x90 => if vType w = 1 then 40 else if vSub w ≤ 2 then 14 else 20
  | 0xA0 => 8
  | 0xA4 => 8
  | 0xA8 => 16
  | 0xB0 => 64
  | _ => if vType w = 1 then 8 else 6

/-- The counters of an issue (R200). -/
def State.countIssue (s : State) (p w : Nat) (v : VIssue) : State :=
  let s := ((s.bump (vecOff p + 0x18) v.dep).bump (vecOff p + 0x1C) v.unit).bump (vecOff p + 0x20) v.idle
  let until' := s.elapsed + cdiv (vecLatency w * 1000) s.clockMhz
  (s.add64 (vecOff p + 0x10) 1).updPier p fun x => { x with vecBusy := max x.vecBusy until' }

/-- Run the head of VQ if its opcode is o: the register-file check first where the instruction reads a register. An
uncorrected word faults the task and the record names its register, at the place of an address (R170; DESIGN CHOICE, log
entry 120). -/
def State.vecRun (s : State) (p o : Nat) (v : VIssue) (k : State → Entry → State) : State :=
  match s.head p 8 with
  | none => s
  | some e =>
    if opc e.w0.toNat ≠ o ∨ (s.pier p).vecZeroing then s
    else
      let s := (s.pop p 8).countIssue p e.w0.toNat v
      match vReads e.w0.toNat with
      | [] => k s e
      | r :: l =>
        let (inj, s) := s.inject [4] p 0
        let s := if v.corrected = 0 then s else (s.bump (vecOff p + 0x38) v.corrected).score 0 16 v.corrected
        let bad := if inj.isSome then some r else (v.bad.map fun b => b.toNat).filter fun b => (r :: l).contains b
        match bad with
        | some b => (s.drop p e.ser).seqFault p e.ser 8 e.word ⟨0x0313, b, 0⟩ 0 (vecBits p 0x0313)
        | none => k s e

/-- A vector instruction that faults after it started. -/
def State.vecFault (s : State) (p : Nat) (e : Entry) (f : MemFault) : State :=
  (s.drop p e.ser).seqFault p e.ser 8 e.word f 0 (vecBits p f.code)

/-- Write a result and complete. -/
def State.vecResult (s : State) (p : Nat) (e : Entry) (t : Nat) (l : List Nat) : State :=
  (s.updPier p fun x => x.vwrite (vVD e.w0.toNat) (t = 1) 0 l).complete p e.ser

/-- The second operand, or the immediate broadcast (R176). -/
def PierState.vbOr (x : PierState) (w : Nat) : List Nat :=
  if vImmb w then List.replicate (vVL w) (vImm w) else x.vread (vVB w) (vType w) (vVL w)

/-- An element-wise operation of two operands. -/
def State.vecTwo (s : State) (p o : Nat) (ph : VPhase) (f : Nat → Nat → Nat → Nat) : State :=
  match ph with
  | .dispatch => s.vecDispatch p o
  | .run v => s.vecRun p o v fun s e =>
    let w := e.w0.toNat
    let x := s.pier p
    s.vecResult p e (vType w) (List.zipWith (f w) (x.vread (vVA w) (vType w) (vVL w)) (x.vbOr w))

/-- An element-wise operation of three operands. -/
def State.vecThree (s : State) (p o : Nat) (ph : VPhase) (f : Nat → Nat → Nat → Nat → Nat) : State :=
  match ph with
  | .dispatch => s.vecDispatch p o
  | .run v => s.vecRun p o v fun s e =>
    let w := e.w0.toNat
    let x := s.pier p
    let ab := List.zip (x.vread (vVA w) (vType w) (vVL w)) (x.vbOr w)
    s.vecResult p e (vType w) (List.zipWith (fun ab c => f w ab.1 ab.2 c) ab (x.vread (vVC w) (vType w) (vVL w)))

/-- VFMA (R180). -/
def execVfma (p : Pier) (ph : VPhase) (s : State) : Host.Outcome State Fault Refusal :=
  .next (s.vecThree p 0x80 ph fun w a b c => vfmaElem (vType w) (vRmode w) a b c)

/-- VADD (R180). -/
def execVadd (p : Pier) (ph : VPhase) (s : State) : Host.Outcome State Fault Refusal :=
  .next (s.vecTwo p 0x84 ph fun w a b => vaddElem (vType w) (vRmode w) a b)

/-- VMUL (R180). -/
def execVmul (p : Pier) (ph : VPhase) (s : State) : Host.Outcome State Fault Refusal :=
  .next (s.vecTwo p 0x88 ph fun w a b => vmulElem (vType w) (vRmode w) a b)

/-- A conversion report reaches the VEC_ counters (R98, R192, R200). -/
def State.vecReport (s : State) (p : Nat) (r : ConvReport) : State :=
  let s := s.addReport (vecOff p + 0x28) (vecOff p + 0x2C) (vecOff p + 0x30) r
  if r.nanSeen then s.bump (vecOff p + 0x34) 1 else s

/-- VCMP: MIN, MAX, ABS, NEG, SEL and CVT (R181). -/
def execVcmp (p : Pier) (ph : VPhase) (s : State) : Host.Outcome State Fault Refusal :=
  .next (match ph with
    | .dispatch => s.vecDispatch p 0x8C
    | .run v => s.vecRun p 0x8C v fun s e =>
      let w := e.w0.toNat
      let x := s.pier p
      let t := vType w
      if vSub w = 5 then
        let st := vVB w
        let c : Conv := { fmt := typeFmt t, rmode := vRmode w, ftz := false, ovf := t ≠ 2, seed := 0 }
        let r := convertList c (typeFmt st) 0 (x.vread (vVA w) st (vVL w))
        (s.vecReport p (ConvReport.all (r.map (·.rep)))).vecResult p e t (r.map (·.bits))
      else
        let ab := List.zip (x.vread (vVA w) t (vVL w)) (x.vbOr w)
        s.vecResult p e t
          (List.zipWith (fun ab c => vcmpElem t (vSub w) ab.1 ab.2 c) ab (x.vread (vVC w) t (vVL w))))

/-- VSPEC (R182). -/
def execVspec (p : Pier) (ph : VPhase) (s : State) : Host.Outcome State Fault Refusal :=
  .next (s.vecTwo p 0x90 ph fun w a b => vspecElem (vType w) (vRmode w) (vSub w) a b)

/-- VACT (R185, R189). -/
def execVact (p : Pier) (ph : VPhase) (s : State) : Host.Outcome State Fault Refusal :=
  .next (s.vecTwo p 0x94 ph fun w a b =>
    fp32.round (vRmode w) (actFn (vFunc w) (vRmode w) (fp32.decode a) (fp32.decode b)))

/-- VSHF (R183). -/
def execVshf (p : Pier) (ph : VPhase) (s : State) : Host.Outcome State Fault Refusal :=
  .next (match ph with
    | .dispatch => s.vecDispatch p 0x98
    | .run v => s.vecRun p 0x98 v fun s e =>
      let w := e.w0.toNat
      let x := s.pier p
      let a := x.vread (vVA w) (vType w) (vVL w)
      let b := x.vbOr w
      s.vecResult p e (vType w) ((List.range (vVL w)).map fun i =>
        vshfElem (vType w) a b (vVL w) (sext (vSub w) 8) (fld (vFunc w) 0 3) (vImm w) i))

/-- VRED (R184): the elements of VD past the last segment are written zero. -/
def execVred (p : Pier) (ph : VPhase) (s : State) : Host.Outcome State Fault Refusal :=
  .next (match ph with
    | .dispatch => s.vecDispatch p 0x9C
    | .run v => s.vecRun p 0x9C v fun s e =>
      let w := e.w0.toNat
      let t := vType w
      let r := vredAll t (vRmode w) (vSub w) (fld (vFunc w) 0 4) ((s.pier p).vread (vVA w) t (vVL w))
      s.vecResult p e t (r ++ List.replicate ((if t = 1 then 1024 else 2048) - r.length) 0))

/-! ## Loads and stores (R172, R191 to R193) -/

/-- Memory elements: packed, or ESTRIDE bytes apart; the runs of bytes they occupy. -/
def elemRuns (fmt n a es : Nat) : List (Nat × Nat) :=
  if es = 0 then [(a, rowBytes fmt n)]
  else (List.range n).map fun i => (a + i * es, fmtWidth fmt / 8)

/-- The elements in the bytes that elemRuns reads. -/
def elemsOf (fmt n es : Nat) (d : List (List Byte)) : List Nat :=
  if es = 0 then (unpack (fmtWidth fmt) d.flatten).take n else d.map ofBytes

/-- VLD (R191). -/
def execVld (p : Pier) (ph : VPhase) (s : State) : Host.Outcome State Fault Refusal :=
  .next (match ph with
    | .dispatch => s.vecDispatch p 0xA0
    | .run v => s.vecRun p 0xA0 v fun s e =>
      let w := e.w0.toNat
      let t := vType w
      let fmt := fld w 47 4
      let sd := fld w 51 8
      let n := vVL w
      let es := fld e.w1.toNat 8 16
      let tag := (s.pier p).tag
      let b := scaleBlock sd
      match s.readRuns (s.client p e.ser) tag (reachOwn p) 0x052B (elemRuns fmt n (e.addr 0) es) with
      | (.error f, s) => s.vecFault p e f
      | (.ok d, s) =>
        match (if b = 0 then (.ok [], s) else s.readVa (s.client p e.ser) tag (reachOwn p) 0x052B (e.addr 1) (cdiv n b)) with
        | (.error f, s) => s.vecFault p e f
        | (.ok sc, s) =>
          let xs := elemsOf fmt n es d
          let scaled (i v : Nat) : Nat :=
            if t = 2 then wrap (sext v (fmtWidth fmt)) 32
            else
              let x := elemVal fmt v
              (typeFp t).round 0 (if b = 0 then x
                else scaleElem x (scaleVal (b2n (bit sd 4)) (sc.getD (i / b) 0).toNat))
          s.vecResult p e t (xs.mapIdx scaled))

/-- Store converted elements and their report (R192). -/
def State.vecStore (s : State) (p : Nat) (e : Entry) (runs : List (Nat × List Byte)) (r : ConvReport) (raddr : Nat) :
    State :=
  let s := s.vecReport p r
  let rep := if bit e.w0.toNat 63 then [(raddr, r.trailer)] else []
  match s.writeRuns (s.client p e.ser) (s.pier p).tag (reachOwn p) 0x052B (runs ++ rep) with
  | (some f, s) => s.vecFault p e f
  | (none, s) => s.complete p e.ser

/-- Elements as runs of bytes: packed with zeros in unused positions, or ESTRIDE bytes apart. -/
def storeRuns (fmt a es : Nat) (l : List Nat) : List (Nat × List Byte) :=
  if es = 0 then [(a, sliceBytes (pack (fmtWidth fmt) l) 0 (rowBytes fmt l.length))]
  else l.mapIdx fun i v => (a + i * es, toBytes v (fmtWidth fmt / 8))

/-- VST (R192). -/
def execVst (p : Pier) (ph : VPhase) (s : State) : Host.Outcome State Fault Refusal :=
  .next (match ph with
    | .dispatch => s.vecDispatch p 0xA4
    | .run v => s.vecRun p 0xA4 v fun s e =>
      let w := e.w0.toNat
      let w1 := e.w1.toNat
      let c := convOf (fld w 47 16) (fld w1 32 32)
      let r := convertList c (typeFmt (vType w)) (fld w1 64 32) ((s.pier p).vread (vVA w) (vType w) (vVL w))
      s.vecStore p e (storeRuns c.fmt (e.addr 0) (fld w1 8 16) (r.map (·.bits)))
        (ConvReport.all (r.map (·.rep))) (e.addr 1))

/-- ⌊log2⌋ of a nonzero finite magnitude. -/
def Fp.ilog2 : Fp → Int
  | .fin _ m e => (bitLen m : Int) - 1 + e
  | _ => 0

/-- e_max of R193. -/
def quantEmax (fmt : Nat) : Int := match fmt with | 3 => 8 | 4 => 15 | 1 => 2 | 2 => 4 | _ => 2

/-- The largest |v| of a block, NaNs skipped (R193). -/
def blockMax (l : List Fp) : Fp :=
  l.foldl (fun a v => if v.isNan then a else if Fp.cmp a v.abs < 0 then v.abs else a) (.fin false 0 0)

/-- The scale byte of a block whose largest magnitude is A (R193). -/
def scaleByte (sfmt fmt : Nat) (A : Fp) : Nat :=
  if A.isZero then (if sfmt = 0 then 0x7F else 0x38)
  else if A.isInf then (if sfmt = 0 then 0xFE else 0x7E)
  else if sfmt = 0 then (max 0 (min 0xFE (A.ilog2 - quantEmax fmt + 127))).toNat
  else match fpFmt 3, fpFmt fmt with
    | some g, some f => match A.div (f.decode f.maxCode) with
      | .fin _ m e => max 1 (min 0x7E (g.roundCode 2 false m e))
      | _ => 0x7E
    | _, _ => 0x7E

/-- VQST of one block: its scale byte and its converted elements (R193). -/
def quantBlock (c : Conv) (sfmt : Nat) (l : List Nat) : Nat × List ConvResult :=
  let v := l.map fp32.decode
  let b := scaleByte sfmt c.fmt (blockMax v)
  (b, v.map fun x => convert c (x.div (scaleVal sfmt b)) 0 0)

/-- VQST (R193). -/
def execVqst (p : Pier) (ph : VPhase) (s : State) : Host.Outcome State Fault Refusal :=
  .next (match ph with
    | .dispatch => s.vecDispatch p 0xA8
    | .run v => s.vecRun p 0xA8 v fun s e =>
      let w := e.w0.toNat
      let c := convOf (fld w 47 16) 0
      let sd := fld e.w1.toNat 8 8
      let l := (s.pier p).vread (vVA w) 0 (vVL w)
      let q := (pieces (scaleBlock sd) l.length l).map (quantBlock c (b2n (bit sd 4)))
      let r := (q.map (·.2)).flatten
      s.vecStore p e
        (storeRuns c.fmt (e.addr 0) 0 (r.map (·.bits)) ++ [(e.addr 1, q.map fun x => BitVec.ofNat 8 x.1)])
        (ConvReport.all (r.map (·.rep))) (e.addr 2))

/-! ## The optimiser primitive (R194, R195) -/

/-- The parameter block of R194. -/
structure OptParams where
  b1 : Fp
  a1 : Fp
  b2 : Fp
  a2 : Fp
  c1 : Fp
  c2 : Fp
  eps : Fp
  lrm : Fp
  wd : Fp
  gscale : Fp
  lre : Int
  uconv : Nat
  wconv : Nat
deriving DecidableEq, Repr

/-- Read the parameter block. -/
def optParams (d : List Byte) : OptParams :=
  let f (o : Nat) : Fp := fp32.decode (leAt d o 4)
  { b1 := f 0, a1 := f 4, b2 := f 8, a2 := f 12, c1 := f 16, c2 := f 20, eps := f 24, lrm := f 28, wd := f 32,
    gscale := f 36, lre := sext (leAt d 40 4) 32, uconv := leAt d 44 2, wconv := leAt d 46 2 }

/-- The block is refused (R194, R195): LRE out of range, a descriptor that R92 or R94 reject, or, for OUT_SEL 2, a
WCONV other than SR to BF16. -/
def optBad (o : OptParams) (sel : Nat) : Bool :=
  decide (o.lre < -128) || decide (127 < o.lre) || (convCheck o.uconv 7).isSome || (convCheck o.wconv 7).isSome ||
    (sel = 2 && !(fld o.wconv 0 4 = 5 && fld o.wconv 4 3 = 4))

/-- One parameter's new state and outputs (R195). -/
structure OptResult where
  w : Nat
  m : Nat
  v : Nat
  delta : ConvResult
  work : ConvResult
deriving DecidableEq, Repr

/-- A square root plus an FP32 value, exactly enough to round once (R195 step 5). -/
def sqrtPlus (v eps : Fp) : Fp :=
  match v with
  | .fin false m e =>
    if m = 0 then Fp.add 0 v eps
    else
      let odd := (e % 2).toNat
      let x := m * 2 ^ (odd + 1200)
      let r := isqrt x
      Fp.add 0 (.fin false (2 * r + b2n (r * r ≠ x)) ((e - (odd : Int)) / 2 - 600 - 1)) eps
  | _ => Fp.add 0 v.sqrt eps

/-- Steps 1 to 9 of R195 for parameter number i. -/
def optStep (o : OptParams) (seed index i : Nat) (w m v g : Fp) : OptResult :=
  let once (x : Fp) : Fp := fp32.decode (fp32.round 0 x)
  let g := once (g.mul o.gscale)
  let m' := fp32.round 0 (Fp.add 0 (o.b1.mul m) (o.a1.mul g))
  let v' := fp32.round 0 (Fp.add 0 (o.b2.mul v) (o.a2.mul (g.mul g)))
  let mh := once ((fp32.decode m').mul o.c1)
  let vh := once ((fp32.decode v').mul o.c2)
  let den := once (sqrtPlus vh o.eps)
  let q := once (mh.div den)
  let uc := convOf o.uconv seed
  let mode := if fmtWidth uc.fmt < 32 then 5 else uc.rmode
  let d := fp32.round mode (o.lrm.mul (Fp.add mode q (o.wd.mul w)))
  let du := convert uc (fp32.decode d) d ((index + i) % 2 ^ 32)
  let w' := fp32.round 0 (Fp.add 0 w (((Fp.fin false 1 o.lre).mul (elemVal uc.fmt du.bits)).flip))
  { w := w', m := m', v := v', delta := du,
    work := convert (convOf o.wconv seed) (fp32.decode w') w' ((index + i + 2 ^ 31) % 2 ^ 32) }

/-- The FP32 words of a 64-byte piece. -/
def words32 (d : List Byte) : List Fp := (unpack 32 d).map fp32.decode

/-- VOPT over all its groups (R194, R195). -/
def optRun (o : OptParams) (seed index gfmt : Nat) (st gr : List Byte) (n : Nat) : List OptResult :=
  let gs := (unpack (fmtWidth gfmt) gr).map (elemVal gfmt)
  (List.range n).map fun i =>
    let grp := (st.drop (192 * (i / 16))).take 192
    let at' (k : Nat) : Fp := fp32.decode (leAt grp (64 * k + 4 * (i % 16)) 4)
    optStep o seed index i (at' 0) (at' 1) (at' 2) (gs.getD i .nan)

/-- The new state in the layout of R194. -/
def optState (l : List OptResult) : List Byte :=
  ((pieces 16 l.length l).map fun g =>
    pack 32 (g.map (·.w)) ++ pack 32 (g.map (·.m)) ++ pack 32 (g.map (·.v))).flatten

/-- VOPT (R194, R195). -/
def execVopt (p : Pier) (ph : VPhase) (s : State) : Host.Outcome State Fault Refusal :=
  .next (match ph with
    | .dispatch => s.vecDispatch p 0xB0
    | .run v => s.vecRun p 0xB0 v fun s e =>
      let w := e.w0.toNat
      let w1 := e.w1.toNat
      let sel := fld w 12 2
      let gfmt := fld w 8 4
      let n := 16 * (fld w1 32 24 + 1)
      let tag := (s.pier p).tag
      match s.readVa (s.client p e.ser) tag (reachOwn p) 0x052B (e.addr 3) 64 with
      | (.error f, s) => s.vecFault p e f
      | (.ok pb, s) =>
        let o := optParams pb
        if optBad o sel then s.vecFault p e ⟨0x022A, e.addr 3, 0⟩
        else match s.readRuns (s.client p e.ser) tag (reachOwn p) 0x052B
            [(e.addr 1, 12 * n), (e.addr 0, n * fmtWidth gfmt / 8)] with
          | (.error f, s) => s.vecFault p e f
          | (.ok d, s) =>
            let r := optRun o (fld w1 64 32) (fld w1 96 32) gfmt (d.getD 0 []) (d.getD 1 []) n
            let reps := r.map (·.delta.rep) ++ (if sel = 2 then r.map (·.work.rep) else [])
            let rep := ConvReport.all reps
            let s := s.vecReport p rep
            let ufmt := fld o.uconv 0 4
            let outs := if sel = 1 then [(e.addr 4, pack (fmtWidth ufmt) (r.map (·.delta.bits)))]
              else if sel = 2 then [(e.addr 4, pack 16 (r.map (·.work.bits)))] else []
            let tr := if bit w 14 then [(e.addr 3 + 64, rep.trailer)] else []
            match s.writeRuns (s.client p e.ser) tag (reachOwn p) 0x052B ([(e.addr 2, optState r)] ++ outs ++ tr) with
            | (some f, s) => s.vecFault p e f
            | (none, s) => s.complete p e.ser)

/-- VECTOR_ZEROING_DONE: the zeroing that follows a tag write ends (R173). -/
def execVectorZeroingDone (p : Pier) (s : State) : Host.Outcome State Fault Refusal :=
  .next (s.updPier p fun x => { x with vecZeroing := false })

/-- VEC_CTRL.CNT_CLR: the counters at 0x18 to 0x38 (R199). -/
def execVecCtrlCntClr (p : Pier) (s : State) : Host.Outcome State Fault Refusal :=
  .next (s.clearRegs (vecOff p + 0x18) 9)

end Sys2Proof.Machine
end

