-- ==== Sys2Proof/Machine/Coll.lean ====
section
/-! DEFINITION. The collective engines: contributions, partials and results of a descriptor, its rounds, and how it is
opened, re-armed, closed and abandoned (R330 to R338). -/
namespace Sys2Proof.Machine
open Sys2Proof

/-! ## Elements (R332, R335, R336) -/

/-- The format a descriptor sums in. -/
def Collective.sumF (x : Collective) : Nat := (sumFmt x.sfmt x.dfmt).getD 7

/-- One FOLD element: the stored partial, in DFMT, plus the contribution, as a conversion result in DFMT (R332). -/
def Collective.foldElem (x : Collective) (partial_ : Option Nat) (c : Nat) : ConvResult :=
  let a := match partial_ with
    | some w => widen x.dfmt x.sumF w
    | none => 0
  let v := sumAdd x.sumF a (widen x.sfmt x.sumF c)
  if x.dfmt = 5 then convert (convOf x.conv 0) (elemVal 7 v) v 0 else { bits := v, rep := ConvReport.reset }

/-- A FOLD chunk: the partial of rank r - 1, if any, with the contribution. -/
def Collective.foldChunk (x : Collective) (partial_ : Option (List Byte)) (c : List Byte) : List Byte × ConvReport :=
  let cs := unpack (fmtWidth x.sfmt) c
  let ps := match partial_ with
    | some p => (unpack (fmtWidth x.dfmt) p).map some
    | none => List.replicate cs.length none
  let rs := (List.zip ps cs).map fun y => x.foldElem y.1 y.2
  (pack (fmtWidth x.dfmt) (rs.map fun r => r.bits), ConvReport.all (rs.map fun r => r.rep))

/-- Signed order of INT32 values. -/
def intPick (max_ : Bool) (a b : Nat) : Nat := if (sext a 32 < sext b 32) == max_ then b else a

/-- One element of a tree operation (R335). -/
def treeElem (op fmt a b : Nat) : Nat :=
  match op with
  | 1 => (a + b) % 2 ^ 32
  | 2 => if fmt = 11 then intPick false a b else vmin 0 a b
  | 3 => if fmt = 11 then intPick true a b else vmax 0 a b
  | 4 => a ||| b
  | _ => a &&& b

/-- A vote record before it combines: the rank stands only beside a cause (R336). -/
def voteReady (r : List Byte) : List Byte :=
  if leAt r 16 1 = 0 then spliceBytes (sliceBytes r 0 64) 20 (toBytes 0xFFFFFFFF 4) else sliceBytes r 0 64

/-- Two vote records combined; STEP is the first one's (R336). -/
def voteJoin (epoch : Nat) (a b : List Byte) : List Byte :=
  let a := voteReady a
  let b := voteReady b
  sliceBytes a 0 8 ++ toBytes epoch 8 ++ toBytes (leAt a 16 1 ||| leAt b 16 1) 1 ++ [0, 0, 0] ++
    toBytes (min (leAt a 20 4) (leAt b 20 4)) 4 ++ List.replicate 40 0

/-- The value of one rank alone: what a leaf sends, and the start of a combination. MIN and MAX write a NaN as the
canonical one (R75). -/
def Collective.treeOwn (x : Collective) (c : List Byte) : List Byte :=
  if x.op = 6 then voteJoin x.epoch c c
  else if x.op = 2 ∨ x.op = 3 then pack (fmtWidth x.sfmt) ((unpack (fmtWidth x.sfmt) c).map (widen x.sfmt x.sfmt))
  else c

/-- Two values of a tree operation combined. -/
def Collective.treeJoin (x : Collective) (a b : List Byte) : List Byte :=
  if x.op = 6 then voteJoin x.epoch a b
  else
    let w := fmtWidth x.sfmt
    pack w ((List.zip (unpack w a) (unpack w b)).map fun y => treeElem x.op x.sfmt y.1 y.2)

/-! ## Places in the chain and the tree (R332, R334, R335) -/

/-- Index of the lowest set bit. -/
def lowSet (r : Nat) : Nat := (lowBit r 16).getD 16

/-- The parent of rank r > 0: r with its lowest set bit cleared. -/
def treeParent (r : Nat) : Nat := r - 2 ^ lowSet r

/-- The children of rank r among n ranks. -/
def treeChildren (r n : Nat) : List Nat :=
  ((List.range (if r = 0 then 16 else lowSet r)).map fun i => r + 2 ^ i).filter fun q => decide (q < n)

/-- Segments of a descriptor. -/
def Collective.segs (x : Collective) : Nat := cdiv x.len 64

/-- Source bytes of segment j. -/
def Collective.segBytes (x : Collective) (j : Nat) : Nat := min 4096 (x.len * 64 - j * 4096)

/-- Bytes of a result for n source bytes. -/
def Collective.outBytes (x : Collective) (n : Nat) : Nat :=
  if x.sfmt = x.dfmt then n else n / fmtBytes x.sfmt * fmtBytes x.dfmt

/-- The module that holds a rank. -/
def State.rankModule (s : State) (x : Collective) (r : Nat) : Nat := (s.ks.groups.get [] x.group).getD r 0

/-- Chunk-buffer bytes of the engine of die k in use (R330, R333). -/
def State.collUsed (s : State) (k : Nat) : Nat :=
  ((s.colls.filter fun y => y.1 % 4 = k).map fun y =>
    ((y.2.mine.map fun z => z.2.length) ++ (y.2.partials.map fun z => z.2.length)).sum).sum

/-- A COLL packet of one chunk: KIND 1 partial, 2 result. -/
def State.collPkt (s : State) (d kind dst seg : Nat) (v : List Byte) : Packet :=
  let x := s.coll d
  { Packet.empty with
    type := 4, dst := s.rankModule x dst, tag := x.tag, stag := x.tag, len := v.length, flow := 0x38 + d % 4,
    spec := toBytes x.rank 2 ++ toBytes x.round 2 ++ toBytes seg 4 ++ toBytes 1 2 ++ toBytes d 1 ++ toBytes kind 1 ++
      List.replicate 4 0,
    payload := v }

/-- Send one chunk; a partial is kept until it is accepted (R333, R337). -/
def State.collSend (s : State) (d : Nat) (p : Packet) : State :=
  let (id, s) := s.farSend (d % 4) p 0 (.coll d) none 0
  s.updColl d fun x => { x with sent := x.sent ++ [id] }

/-! ## Results and rounds (R334, R337) -/

/-- Write a result chunk at its DST, atom by atom under the descriptor's tag. -/
def State.collWrite (s : State) (d seg : Nat) (v : List Byte) : State :=
  let x := s.coll d
  let off := seg * x.outBytes 4096
  (s.writeVa none x.tag reachMemory 0x0302 (x.dst + off) v).2

/-- The member receives the result. -/
def Collective.receives (x : Collective) : Bool := x.all || x.rank = x.owner

/-- The result of a VOTE descriptor reaches the open steps that contributed to it (R238). -/
def State.voteDeliver (s : State) (d : Nat) (v : List Byte) : State :=
  let give (r : StepRun) : StepRun := if r.contributed = some d then { r with result := some v } else r
  s.updKs fun k => { k with ctxs := k.ctxs.map fun c => (c.1, { c.2 with step := c.2.step.map give }) }

/-- As many bytes that nothing states (log entry 3). -/
def State.freeBytes (s : State) (n : Nat) : List Byte × State :=
  let (l, s) := s.frees n
  (l.map fun v => BitVec.ofNat 8 v, s)

/-- Take a result chunk: written, or delivered to the keystone, and kept as written (R334, R337). -/
def State.collTake (s : State) (d seg : Nat) (v : List Byte) : State :=
  let s := if (s.coll d).ks then s.voteDeliver d v else s.collWrite d seg v
  s.updColl d fun x => { x with written := x.written.put seg v }

/-- A result chunk is complete at this member: taken, and passed on down the chain or the tree (R334, R335). -/
def State.collResult (s : State) (d seg : Nat) (v : List Byte) : State :=
  let x := s.coll d
  let s := if x.receives then s.collTake d seg v else s
  if x.op = 0 then
    if x.all then (if 0 < x.rank then s.collSend d (s.collPkt d 2 (x.rank - 1) seg v) else s)
    else if x.rank = x.n - 1 ∧ x.rank ≠ x.owner then s.collSend d (s.collPkt d 2 x.owner seg v) else s
  else (treeChildren x.rank x.n).foldl (fun s q => s.collSend d (s.collPkt d 2 q seg v)) s

/-- The round is complete at this member (R337): its result stands, or its last partial has been accepted. -/
def Collective.over (x : Collective) : Bool :=
  x.state = .opn &&
  (if x.receives then (List.range x.segs).all fun j => (x.written.find j).isSome
   else ((List.range x.segs).all fun j => (x.formed.find j).isSome) && x.sent.isEmpty && x.refused.isEmpty)

/-- Mark a round that has become complete. -/
def State.collSettle (s : State) (d : Nat) : State :=
  if (s.coll d).over then s.updColl d fun x => { x with complete := true } else s

/-- Add conversions to the engine's counts (R332). -/
def State.collReport (s : State) (d : Nat) (r : ConvReport) : State :=
  s.updDie (d % 4) fun x => { x with conv := x.conv.join r }

/-! ## FOLD (R332, R333) -/

/-- Both sides of segment j are there: form the sum and send it on. -/
def State.foldForm (s : State) (d seg : Nat) (partial_ : Option (List Byte)) (c : List Byte) : State :=
  let x := s.coll d
  let (v, rep) := x.foldChunk partial_ c
  let s := (s.collReport d rep).updColl d fun x =>
    { x with mine := x.mine.del seg, partials := x.partials.del seg, formed := x.formed.put seg [] }
  if x.rank + 1 < x.n then s.collSend d (s.collPkt d 1 (x.rank + 1) seg v) else s.collResult d seg v

/-- The module's own contribution chunk (R331, R333): whether it is accepted. -/
def State.foldMine (s : State) (d seg : Nat) (c : List Byte) : Bool × State :=
  let x := s.coll d
  if x.rank = 0 then (true, s.foldForm d seg none c)
  else match x.partials.find seg with
    | some p => (true, s.foldForm d seg (some p) c)
    | none =>
      if s.collUsed (d % 4) + c.length ≤ 8 * 2 ^ 20 then (true, s.updColl d fun x => { x with mine := x.mine.put seg c })
      else (false, s)

/-- A partial from rank r - 1 (R333): whether it is accepted. -/
def State.foldPartial (s : State) (d seg : Nat) (p : List Byte) : Bool × State :=
  let x := s.coll d
  match x.mine.find seg with
  | some c => (true, s.foldForm d seg (some p) c)
  | none =>
    if s.collUsed (d % 4) + p.length ≤ 8 * 2 ^ 20 then
      (true, s.updColl d fun x => { x with partials := x.partials.put seg p })
    else (false, s)

/-! ## Tree operations (R335, R336) -/

/-- Own value and every child's value are there: combine and send up, or down from rank 0. -/
def State.treeForm (s : State) (d : Nat) : State :=
  let x := s.coll d
  match x.mine.find 0 with
  | none => s
  | some c =>
    let kids := treeChildren x.rank x.n
    if !(kids.all fun q => (x.partials.find q).isSome) then s
    else
      let v := kids.foldl (fun v q => x.treeJoin v (x.partials.get [] q)) (x.treeOwn c)
      let s := s.updColl d fun x => { x with mine := [], partials := [], formed := x.formed.put 0 [] }
      if x.rank = 0 then s.collResult d 0 v else s.collSend d (s.collPkt d 1 (treeParent x.rank) 0 v)

/-! ## Chunks as they arrive (R333, R337, R338) -/

/-- A chunk duplicates one already held or used (R337): the lowest failing rank is kept. -/
def State.collDup (s : State) (d rank : Nat) : State :=
  s.updColl d fun x => { x with err := some (match x.err with | some r => min r rank | none => rank) }

/-- Count a refused chunk (R348). -/
def State.collRefuse (s : State) (d : Nat) : State := s.bump (swOff (d % 4) + 0x3C) 1

/-- Every value that the combination of this rank takes is there. -/
def Collective.treeFull (x : Collective) : Bool :=
  (x.mine.find 0).isSome && (treeChildren x.rank x.n).all fun q => (x.partials.find q).isSome

/-- The STEP that the records a VOTE descriptor holds name: its round is keyed by GROUP and STEP (R238). -/
def Collective.voteStep (x : Collective) : Option Nat := ((x.mine ++ x.partials).head?).map fun y => leAt y.2 0 8

/-- A vote record of another STEP than the round's: it is no part of this round, and is refused until its own (DEDUCED,
log entry 128; R238, R333). -/
def Collective.otherStep (x : Collective) (v : List Byte) : Bool :=
  x.op = 6 && (match x.voteStep with
    | some n => leAt v 0 8 ≠ n
    | none => false)

/-- A value arrives at a tree operation: it completes the combination, or is parked, or finds no room (R333, R335). -/
def State.treeTake (s : State) (d : Nat) (v : List Byte) (f : Collective → Collective) : Bool × State :=
  if (s.coll d).otherStep v then (false, s.collRefuse d)
  else if (f (s.coll d)).treeFull || decide (s.collUsed (d % 4) + v.length ≤ 8 * 2 ^ 20) then
    (true, ((s.updColl d f).treeForm d).collSettle d)
  else (false, s.collRefuse d)

/-- A contribution chunk of this rank reaches its engine (R331, R333). -/
def State.collOwn (s : State) (d seg : Nat) (c : List Byte) : Bool × State :=
  let x := s.coll d
  if (x.mine.find seg).isSome || (x.formed.find seg).isSome then (true, s.collDup d x.rank)
  else if x.op = 0 then
    match s.foldMine d seg c with
    | (true, s) => (true, s.collSettle d)
    | (false, s) => (false, s.collRefuse d)
  else s.treeTake d c fun x => { x with mine := x.mine.put 0 c }

/-- A contribution chunk from a transfer engine or the keystone: one for the round after is refused (R331, R333). -/
def State.collMine (s : State) (d round seg : Nat) (c : List Byte) : Bool × State :=
  let x := s.coll d
  if x.state ≠ .opn ∨ round ≠ x.round then (false, s.collRefuse d) else s.collOwn d seg c

/-- What becomes of one chunk of a COLL packet, by its KIND: 0 a contribution, 1 a partial, 2 a result (R308, R333,
R337): accepted, or refused. -/
def State.collChunk (s : State) (d kind rank seg : Nat) (v : List Byte) : Bool × State :=
  let x := s.coll d
  if kind = 0 then s.collOwn d seg v
  else if kind = 2 then
    if (x.written.find seg).isSome then (true, s.collDup d rank) else (true, (s.collResult d seg v).collSettle d)
  else if x.op = 0 then
    if (x.partials.find seg).isSome || (x.formed.find seg).isSome then (true, s.collDup d rank)
    else match s.foldPartial d seg v with
      | (true, s) => (true, s.collSettle d)
      | (false, s) => (false, s.collRefuse d)
  else if (x.partials.find rank).isSome || (x.formed.find 0).isSome then (true, s.collDup d rank)
  else s.treeTake d v fun x => { x with partials := x.partials.put rank v }

/-- The chunks of a COLL packet in order; the bitmap of the refused ones. -/
def State.collChunks (s : State) (d kind rank : Nat) : Nat → Nat → List (List Byte) → Nat × State
  | _, _, [] => (0, s)
  | c, seg, v :: r =>
    match s.collChunk d kind rank seg v with
    | (true, s) => State.collChunks s d kind rank (c + 1) (seg + 1) r
    | (false, s) => match State.collChunks s d kind rank (c + 1) (seg + 1) r with
      | (m, s) => (m + 2 ^ c, s)

/-! ## Rounds, opening and closing (R330, R337, R338, R437) -/

/-- A descriptor with nothing held. -/
def Collective.clean (x : Collective) : Collective :=
  { x with mine := [], partials := [], formed := [], written := [], sent := [], refused := [], err := none,
           complete := false }

/-- The number of result chunks written. -/
def Collective.chunks (x : Collective) : Nat := x.written.length

/-- Detail of 0x0432 to 0x0434. -/
def Collective.detail (x : Collective) (d rank : Nat) : List Byte :=
  Sys2Proof.Machine.detail [(d, 1), (0, 1), (x.round, 2), (x.chunks, 4), (rank, 2)]

/-- A DST that holds part of a result holds an unstated mix of it and its former contents; log entry 15 (R338). -/
def State.collMix (s : State) (d : Nat) : State :=
  let x := s.coll d
  if x.ks then s
  else x.written.foldl (fun s y =>
    let (v, s) := s.freeBytes y.2.length
    s.collWrite d y.1 v) s

/-- A round with a duplicated chunk or an unreadable element has an undefined result, written or delivered (R337). -/
def State.collUndef (s : State) (d : Nat) : State :=
  if (s.coll d).err.isNone then s
  else if (s.coll d).ks then
    let (v, s) := s.freeBytes 64
    s.voteDeliver d v
  else s.collMix d

/-- COLLECTIVE_ROUND_COMPLETE (R337). -/
def execCollectiveRoundComplete (d : Coll) (s : State) : Host.Outcome State Fault Refusal :=
  let x := s.coll d
  .next (
    if !x.complete then s
    else
      let s := s.collUndef d
      let s := if x.doneEn then s.tcSend (32 + d % 4) x.donePier x.tag x.doneTc x.doneInc else s
      let s := if x.event then s.record 6 (d % 4) 0x0432 false (some x.tag) (x.detail d 0) else s
      let s := match x.err with
        | some r => (s.orReg (swOff (d % 4) + 0xC) 0x20).record 6 (d % 4) 0x0434 true (some x.tag) (x.detail d r)
        | none => s
      let s := s.bump (swOff (d % 4) + 0x34) 1
      s.updColl d fun x => { x.clean with round := (x.round + 1) % 2 ^ 16 })

/-- COLL_CHUNK_REPEAT: refused chunks are sent again (R333). -/
def execCollChunkRepeat (d : Coll) (s : State) : Host.Outcome State Fault Refusal :=
  let l := (s.coll d).refused
  .next (l.foldl (fun s p => s.collSend d p) (s.updColl d fun x => { x with refused := [] }))

/-- The descriptor that 64 bytes spell (R330). -/
def descColl (b : List Byte) : Collective :=
  let f := leAt b 6 1
  { Collective.reset with
    group := leAt b 0 2, op := leAt b 2 1, sfmt := pairS (leAt b 3 1), dfmt := pairD (leAt b 3 1), conv := leAt b 4 2,
    all := bit f 0, ks := bit f 1, event := bit f 2, doneEn := bit f 3, dst := leAt b 8 8, len := leAt b 16 4,
    round := leAt b 20 2, owner := leAt b 22 2, n := leAt b 24 2, rank := leAt b 26 2, epoch := leAt b 28 4,
    tag := leAt b 32 4 % 2 ^ 18, donePier := leAt b 36 1, doneTc := leAt b 37 1, doneInc := sext (leAt b 38 2) 16 }

/-- The group's list serves n ranks with this module at a rank (R330). -/
def State.groupOk (s : State) (group n rank : Nat) : Bool :=
  match s.ks.groups.find group with
  | some l => decide (n ≤ l.length) && l.getD rank 8192 = s.moduleId
  | none => false

/-- Every page of an extent translates with WR and is OWNED by the tag (R330). -/
def State.dstOwned (s : State) (tag va bytes : Nat) : Bool :=
  (List.range ((va % 2 ^ 21 + bytes + 2 ^ 21 - 1) / 2 ^ 21)).all fun i =>
    match s.translate tag ((va / 2 ^ 21 + i) * 2 ^ 21) .wr with
    | .here la => fld (s.owner (pageOf la)) 18 3 = 1 && fld (s.owner (pageOf la)) 0 18 = tag
    | _ => false

/-- The open is rejected with 0x0430 (R330). -/
def State.collRejects (s : State) (b : List Byte) : Bool :=
  let x := descColl b
  let convBad := x.dfmt = 5 && (fld x.conv 0 4 ≠ 5 || (convCheck x.conv 7).isSome || fld x.conv 4 3 = 4)
  6 < x.op || fld (leAt b 6 1) 4 4 ≠ 0 || leAt b 7 1 ≠ 0 || leAt b 32 4 / 2 ^ 18 ≠ 0 || leAt b 40 24 ≠ 0 ||
  16 ≤ x.donePier || 64 ≤ x.doneTc || !(1 ≤ x.len && x.len ≤ 2 ^ 24) || !(1 ≤ x.n && x.n ≤ 8192) ||
  1023 < x.group || !fmtOk x.sfmt || !fmtOk x.dfmt ||
  decide (x.n ≤ x.rank) || decide (x.n ≤ x.owner) ||
  (x.op = 0 && !pairOk x.sfmt x.dfmt false true) || convBad ||
  (x.op = 1 && !(x.sfmt = 11 && x.dfmt = 11)) ||
  ((x.op = 2 || x.op = 3) && !(x.sfmt = x.dfmt && (x.sfmt = 7 || x.sfmt = 11))) ||
  ((x.op = 4 || x.op = 5) && x.sfmt ≠ x.dfmt) ||
  (x.op ≠ 0 && (64 < x.len || !x.all)) || (x.op = 6 && (x.len ≠ 1 || !x.ks)) ||
  (!x.ks && !s.dstOwned x.tag x.dst (x.outBytes (x.len * 64))) ||
  !s.groupOk x.group x.n x.rank

/-- Open descriptor d: its status (R330, R437). -/
def State.openColl (s : State) (d : Nat) (b : List Byte) : Nat × State :=
  if (s.coll d).state ≠ .closed then (0x0509, s)
  else if s.collRejects b then (0x0430, s.orReg (swOff (d % 4) + 0xC) 0x20)
  else (0, s.updColl d fun _ => { descColl b with state := .opn })

/-- Re-arm an ABANDONED descriptor: ROUND is kept (R338). -/
def State.rearmColl (s : State) (d epoch n rank owner : Nat) : Nat × State :=
  let x := s.coll d
  if x.state ≠ .abandoned then (0x0509, s)
  else if n = 0 ∨ 8192 < n ∨ n ≤ rank ∨ n ≤ owner ∨ s.groupOk x.group n rank = false then
    (0x0430, s.orReg (swOff (d % 4) + 0xC) 0x20)
  else (0, s.updColl d fun x => { x.clean with state := .opn, epoch := epoch, n := n, rank := rank, owner := owner })

/-- Close descriptor d at once (R329, R437 COLL_CLOSE). -/
def State.closeColl (s : State) (d : Nat) : State :=
  if (s.coll d).state = .closed then s
  else
    let s := if (s.coll d).state = .opn && !(s.coll d).complete then s.collMix d else s
    s.updColl d fun x => { x.clean with state := .closed }

/-- A membership epoch abandons a descriptor whose round is not complete (R338). -/
def State.abandonColl (s : State) (d : Nat) : State :=
  let x := s.coll d
  if x.state ≠ .opn ∨ x.complete = true then s
  else
    let s := (s.collMix d).bump (swOff (d % 4) + 0x38) 1
    let s := s.record 6 (d % 4) 0x0433 false (some x.tag) (x.detail d 0)
    s.updColl d fun x => { x.clean with state := .abandoned }

end Sys2Proof.Machine
end

