-- ==== Sys2Proof/Machine/MemoryCmds.lean ====
section
/-! DEFINITION. The commands of the base die: requests, windows, fencing, scrub and refresh bands (chapter 07). -/
namespace Sys2Proof.Machine
open Sys2Proof

/-! ## Requests (R248, R253 to R255, R262, R270, R275) -/

/-- Add an answer of the memory. -/
def State.reply (s : State) (addr tag : Nat) (k : ReplyKind) : State :=
  { s with replies := s.replies ++ [{ addr := addr, tag := tag, kind := k }] }

/-- The answer to a request that stopped. -/
def faultReply (f : MemFault) : ReplyKind := if f.code = 0x0304 then .stale else .fault f.code

/-- READ: one 64-byte atom (R253, R262, R282). -/
def execRead (r : MemReq) (s : State) : Host.Outcome State Fault Refusal :=
  let la := atomOf r.addr.toNat
  .next (match s.readAtom la 64 r.tag.toNat r.peer r.ecc 0 with
    | (.ok d, s) => s.reply la r.tag.toNat (.data d)
    | (.error f, s) => s.reply la r.tag.toNat (faultReply f))

/-- WRITE: one 64-byte atom under a byte mask (R254, R262, R282). -/
def execWrite (r : MemReq) (data : BitVec 512) (mask : BitVec 64) (s : State) : Host.Outcome State Fault Refusal :=
  let la := atomOf r.addr.toNat
  let d := (List.zip (toBytes data.toNat 64) (List.range 64)).map fun x => (x.1, bit mask.toNat x.2)
  .next (match s.writeAtom none la d r.tag.toNat r.peer r.ecc 0 with
    | (none, s) => s.reply la r.tag.toNat .acked
    | (some f, s) => s.reply la r.tag.toNat (faultReply f))

/-- PLAIN: a plain reduction of up to 64 bytes of source elements (R267 to R270). -/
def execPlain (r : MemReq) (pair : Byte) (wide : Bool) (data : List Byte) (s : State) :
    Host.Outcome State Fault Refusal :=
  let sf := pairS pair.toNat
  let df := pairD pair.toNat
  let la := r.addr.toNat
  .next (
    if !pairOk sf df wide false then (s.pairError la).reply la r.tag.toNat (.fault 0x0330)
    else
      let w := if wide then 8 else fmtBytes df
      let v := unpack (fmtWidth sf) (data.take 64)
      match s.plainAll r.tag.toNat r.peer r.ecc sf df wide
          (atomGroups ((List.zip (List.range v.length) v).map fun x => (la + w * x.1, x.2))) with
      | (none, s) => s.reply la r.tag.toNat .acked
      | (some f, s) => s.reply la r.tag.toNat (faultReply f))

/-- CHUNK: one chunk of an ordered contribution at its window (R275). -/
def execChunk (c : ChunkReq) (s : State) : Host.Outcome State Fault Refusal :=
  .next (match s.chunkServe c with
    | (k, s) => s.reply c.dst.toNat c.tag.toNat k)

/-- ZERO: an owned page begins to be zeroed (R263 step 3, R264, R265). -/
def State.zeroPage (s : State) (page : Nat) : State :=
  if fld (s.owner page) 18 3 = 1 then s.setOwner page (setFld (s.owner page) 18 4 2) else s

/-- ZERO (R248, R264, R265). -/
def execZero (page : BitVec 27) (s : State) : Host.Outcome State Fault Refusal := .next (s.zeroPage page.toNat)

/-! ## Windows (R272, R273, R278) -/

/-- The pages that an extent spans. -/
def extentPages (va bytes : Nat) : Nat := if bytes = 0 then 0 else (va % 2 ^ 21 + bytes + 2 ^ 21 - 1) / 2 ^ 21

/-- Every page of an extent translates with RED to stack n and is OWNED by the tag (R273). -/
def State.extentOk (s : State) (n tag va bytes : Nat) : Bool :=
  (List.range (extentPages va bytes)).all fun i =>
    match s.translate tag ((va / 2 ^ 21 + i) * 2 ^ 21) .red with
    | .here la => (match place la with | .stack m _ => m = n | _ => false) &&
        fld (s.owner (pageOf la)) 18 3 = 1 && fld (s.owner (pageOf la)) 0 18 = tag
    | _ => false

/-- The local pages of an extent, as the base die translates them through its replica; each reads one atom of it (R259,
R273). -/
def State.pageList (s : State) (tag va bytes : Nat) : List Nat :=
  (List.range (extentPages va bytes)).map fun i =>
    match s.translate tag ((va / 2 ^ 21 + i) * 2 ^ 21) .red with
    | .here la => pageOf la
    | _ => 0

/-- The window that a 64-byte descriptor describes (R272). -/
def descWindow (d : List Byte) : Window :=
  { Window.reset with
    tag := fld (leAt d 0 4) 0 18, sfmt := pairS (leAt d 4 1), dfmt := pairD (leAt d 4 1),
    init := bit (leAt d 5 1) 0, indexed := bit (leAt d 5 1) 1, event := bit (leAt d 5 1) 2, doneEn := bit (leAt d 5 1) 3,
    conv := leAt d 6 2, dst := leAt d 8 8, sum := leAt d 16 8, park := leAt d 24 8, len := leAt d 32 4,
    parkLen := leAt d 36 4, n := leAt d 40 2, round := leAt d 42 2, epoch := leAt d 44 4, donePier := leAt d 48 1,
    doneTc := leAt d 49 1, doneInc := sext (leAt d 50 2) 16 }

/-- Bytes of DST and of SUM that a window spans (R272). -/
def Window.dstBytes (w : Window) : Nat :=
  if w.indexed then w.len * 64 else w.len * 64 / fmtBytes w.sfmt * fmtBytes w.dfmt
/-- Bytes of SUM. -/
def Window.sumBytes (w : Window) : Nat := w.elems * fmtBytes w.sumF

/-- The open is rejected with 0x0330 (R273). -/
def State.winRejects (s : State) (n : Nat) (d : List Byte) : Bool :=
  let w := descWindow d
  fld (leAt d 0 4) 18 14 ≠ 0 || fld (leAt d 5 1) 4 4 ≠ 0 || leAt d 52 12 ≠ 0 ||
  !(1 ≤ w.len && w.len ≤ 2 ^ 24) || !(1 ≤ w.n && w.n ≤ 8192) || 16 ≤ w.donePier || 64 ≤ w.doneTc ||
  !pairOk w.sfmt w.dfmt false true || fld w.conv 0 4 ≠ w.dfmt || (convCheck w.conv w.sumF).isSome ||
  fld w.conv 4 3 = 4 ||
  !s.extentOk n w.tag w.dst w.dstBytes || !s.extentOk n w.tag w.sum w.sumBytes ||
  !s.extentOk n w.tag w.park (w.parkLen * 64) ||
  (s.winMatch n w.tag (atomOf (areaAddr (s.pageList w.tag w.dst w.dstBytes) w.dst 0))).isSome

/-- Open window w of stack n from a descriptor; the status of the open (R273, R437). -/
def State.openWin (s : State) (n w : Nat) (d : List Byte) : Nat × State :=
  if (s.win n w).state ≠ .closed then (0x0509, s)
  else if s.winRejects n d then (0x0330, s.orReg (dmcOff n + 8) 0x10)
  else
    let x := descWindow d
    let dp := s.pageList x.tag x.dst x.dstBytes
    let sp := s.pageList x.tag x.sum x.sumBytes
    let pp := s.pageList x.tag x.park (x.parkLen * 64)
    (0, (s.add64 (dmcOff n + 0x28) (64 * (dp.length + sp.length + pp.length))).updWin n w fun _ =>
      { x with state := .opn, dstLa := atomOf (areaAddr dp x.dst 0), dstPages := dp, sumPages := sp, parkPages := pp })

/-- Re-arm an ABANDONED window: ROUND is kept (R278). -/
def State.rearmWin (s : State) (n w epoch ranks : Nat) : Nat × State :=
  if (s.win n w).state ≠ .abandoned then (0x0509, s)
  else (0, s.updWin n w fun x => { x.clean with state := .opn, epoch := epoch, n := ranks })

/-- Close a window: a FINISHING round completes first, with mailbox m waiting; else at once (R437 WIN_CLOSE). -/
def State.closeWin (s : State) (n w m : Nat) : State :=
  if (s.win n w).state = .finishing then s.updWin n w fun x => { x with closing := some m }
  else s.updWin n w fun x => { x.clean with state := .closed, closing := none }

/-- WINDOW: a window command from the keystone (R272). -/
def execWindow (n : Stk) (w : Win) (op : WindowOp) (s : State) : Host.Outcome State Fault Refusal :=
  .next (match op with
    | .opn d => (s.openWin n w d).2
    | .rearm e r => if 1 ≤ r ∧ r ≤ 8192 then (s.rearmWin n w e.toNat r).2 else s
    | .close => s.closeWin n w 256)

/-- WIN_CLOSE commands whose window has closed complete (R437). -/
def State.settleCloses (s : State) (n : Nat) : State :=
  ((s.stack n).windows.filter fun w => w.2.state = .closed && w.2.closing.isSome).foldl (fun s w =>
    (s.updWin n w.1 fun x => { x with closing := none }).mbDone (w.2.closing.getD 256) 0) s

/-- ROUND_FINISH: DST is written, then DONE, the event and the next round (R277). -/
def State.roundFinish (s : State) (n w : Nat) : State :=
  let x := s.win n w
  if x.state ≠ .finishing then s
  else
    let s := (s.finishRound n w).bump (dmcOff n + 0x50) 1
    let s := if x.doneEn then s.tcSend (16 + n) x.donePier x.tag x.doneTc x.doneInc else s
    let s := if x.event then
        s.record 4 n 0x0334 false (some x.tag) (detail [(w, 1), (0, 1), (x.round, 2), (x.n, 4), (x.epoch, 4)])
      else s
    let s := match (s.win n w).err with
      | some (r, c) => (s.orReg (dmcOff n + 8) 2).record 4 n 0x0321 true (some x.tag)
          (detail [(w, 1), (0, 1), (x.round, 2), (r, 2), (c, 2)])
      | none => s
    let s := s.updWin n w fun x =>
      { x.clean with state := if x.closing.isSome then .closed else .opn, round := (x.round + 1) % 2 ^ 16 }
    s.settleCloses n

/-- ROUND_FINISH (R277). -/
def execRoundFinish (n : Stk) (w : Win) (s : State) : Host.Outcome State Fault Refusal := .next (s.roundFinish n w)

/-! ## Registers and fencing (R266, R288) -/

/-- DMC_CTRL.SCRUB_EN (R288). -/
def execDmcCtrlScrubEn (n : Stk) (v : Bool) (s : State) : Host.Outcome State Fault Refusal :=
  .next (s.setRfld (dmcOff n) 0 1 (b2n v))

/-- DMC_CTRL.CNT_CLR: the counters at 0x038 to 0x05C (R288). -/
def execDmcCtrlCntClr (n : Stk) (s : State) : Host.Outcome State Fault Refusal :=
  .next (s.clearRegs (dmcOff n + 0x38) 10)

/-- A write of DMC_FENCE.TAG: the tag's windows close without a record, a FINISHING round stops, and the tag is
dropped from now on (R266). -/
def State.fenceStack (s : State) (n tag : Nat) : State :=
  let s := s.abandonWins n (fun w => w.tag = tag) .closed false true
  let s := s.updStack n fun x => { x with fenced := some tag, quiet := false }
  (s.setRfld (dmcOff n + 0x20) 0 18 tag).settleCloses n

/-- DMC_FENCE_TAG (R266). -/
def execDmcFenceTag (n : Stk) (tag : Tag) (s : State) : Host.Outcome State Fault Refusal :=
  .next (s.fenceStack n tag.toNat)

/-! ## Scrub and refresh (R280 to R283) -/

/-- Bytes of a stack that are populated and not withdrawn (R250, R285). -/
def State.stackBytes (s : State) (n : Nat) : Nat :=
  if (s.stack n).mapped.isNone then 24576 * 2 ^ 21 else 23808 * 2 ^ 21

/-- An uncorrectable atom found by a scrub (R282, R283). -/
def State.scrubUe (s : State) (n o : Nat) : State :=
  let la := stackAddr n o
  let s := { s with badAtoms := (la / 64) :: s.badAtoms.filter (· ≠ la / 64) }
  let w := s.owner (pageOf la)
  ((s.orReg (dmcOff n + 8) 1).record 4 n 0x0324 true (if fld w 18 3 = 1 then some (fld w 0 18) else none)
    (s.atomDetail la 0 0)).noteUe n o

/-- A scrub pass over a stack: what its checks find, and every atom the state holds uncorrectable (R283). -/
def State.scrubPass (s : State) (n : Nat) (found : List (Nat × Ecc)) : State :=
  let held := (s.badAtoms.filter fun a => a * 64 / 2 ^ 36 = n).map fun a => (a * 64 % 2 ^ 36, Ecc.uncorrectable)
  let fresh := found.filter fun x => !(held.any fun h => h.1 / 64 = x.1 / 64)
  (held ++ fresh).foldl (fun s x => match x.2 with
    | .clean => s
    | .corrected => s.noteCe n (stackAddr n x.1)
    | .uncorrectable => s.scrubUe n x.1) (s.add64 (dmcOff n + 0x28) (s.stackBytes n))

/-- PATROL_SCRUB (R283). -/
def execPatrolScrub (n : Stk) (found : List (BitVec 36 × Ecc)) (s : State) : Host.Outcome State Fault Refusal :=
  .next (if s.stackUp n && bit (s.reg (dmcOff n)).toNat 0 then
      s.scrubPass n (found.map fun x => (x.1.toNat, x.2))
    else s)

/-- A threshold of DMC_BAND_CFG, k = 1 to 3, in units of 0.25 °C (R289). -/
def State.bandT (s : State) (n k : Nat) : Int := 4 * (s.rfld (dmcOff n + 0x14) (8 * (k - 1)) 8 : Int)

/-- The band falls while the temperature is HYST below the lower threshold of the band (R280). -/
def bandFall (t : Nat → Int) (hyst core : Int) : Nat → Nat
  | 0 => 0
  | k + 1 => if core ≤ t (k + 1) - hyst then bandFall t hyst core k else k + 1

/-- The band of a temperature (R280). -/
def State.newBand (s : State) (n band : Nat) (core : Int) : Nat :=
  let t := s.bandT n
  let raw := if t 3 < core then 3 else if t 2 < core then 2 else if t 1 < core then 1 else 0
  if band ≤ raw then raw else max raw (bandFall t (4 * (s.rfld (dmcOff n + 0x14) 24 4 : Int)) core band)

/-- REFRESH_BAND_SAMPLE: the temperatures are read and the band follows (R280, R281). -/
def execRefreshBandSample (n : Stk) (core base : BitVec 16) (s : State) : Host.Outcome State Fault Refusal :=
  let s := s.setReg (dmcOff n + 0x10) (BitVec.ofNat 32 (core.toNat + 2 ^ 16 * base.toNat))
  let old := s.rfld (dmcOff n + 4) 0 2
  let b := s.newBand n old (sext core.toNat 16)
  .next (
    if b = old then s
    else
      let s := s.setRfld (dmcOff n + 4) 0 2 b
      let s := s.record 4 n 0x0335 false none (detail [(old, 1), (b, 1), (core.toNat, 2)])
      if b = 3 then
        (s.orReg (dmcOff n + 8) 0x20).record 4 n 0x0336 true none (detail [(old, 1), (b, 1), (core.toNat, 2)])
      else s)

end Sys2Proof.Machine
end

