-- ==== Sys2Proof/Machine/Transfers.lean ====
section
/-! DEFINITION. The transfer engines: XFER, GATHER and REDUCE from dispatch to completion, local and far (R113, R129 to
R133, R325, R331, R352, R357, R358). -/
namespace Sys2Proof.Machine
open Sys2Proof

/-! ## Fields (R129 to R132) -/

/-- TE. -/
def tTe (w : Nat) : Nat := fld w 8 2
/-- DONE_TC. -/
def tDone (w : Nat) : Nat := fld w 10 6
/-- An entry's first word. -/
def Entry.n0 (e : Entry) : Nat := e.w0.toNat
/-- An entry's second word. -/
def Entry.n1 (e : Entry) : Nat := e.w1.toNat

/-- Bits that R129 to R132 define in the two words. -/
def xferFields (o w0 w1 : Nat) : Bool :=
  match o with
  | 0x50 => onlyFields w0 [(0, 8), (8, 8), (16, 7), (24, 24), (48, 24), (72, 24), (96, 16)] &&
      onlyFields w1 [(0, 2), (8, 24), (32, 24), (56, 4)]
  | 0x54 => onlyFields w0 [(0, 8), (8, 8), (16, 1), (24, 24), (48, 24), (72, 24), (96, 16)] &&
      onlyFields w1 [(0, 2), (2, 6), (8, 24), (32, 24), (56, 24)]
  | _ => onlyFields w0 [(0, 8), (8, 8), (16, 3), (24, 24), (48, 24), (72, 24), (96, 8), (112, 16)] &&
      onlyFields w1 [(0, 2), (8, 13), (32, 24), (56, 8)]

/-- ORDERED, INDEXED and TARGET of a REDUCE. -/
def Entry.ordered (e : Entry) : Bool := bit e.n0 16
/-- INDEXED. -/
def Entry.indexed (e : Entry) : Bool := bit e.n0 17
/-- TARGET. -/
def Entry.target (e : Entry) : Bool := bit e.n0 18
/-- SFMT. -/
def Entry.rSfmt (e : Entry) : Nat := fld e.n0 96 4
/-- DFMT. -/
def Entry.rDfmt (e : Entry) : Nat := fld e.n0 100 4
/-- ROUND; bit 0 is WIDE in plain mode (R268). -/
def Entry.round (e : Entry) : Nat := fld e.n0 112 16
/-- WIDE. -/
def Entry.wide (e : Entry) : Bool := !e.ordered && bit e.round 0
/-- RANK. -/
def Entry.rank (e : Entry) : Nat := fld e.n1 8 13
/-- COLL. -/
def Entry.collNo (e : Entry) : Nat := fld e.n1 56 8

/-! ## Transfers by number -/

/-- Transfers of an engine, oldest first. -/
def State.xfers (s : State) (p te : Nat) : List Transfer := (s.pier p).transfers.get [] te

/-- Change a transfer of an engine. -/
def State.updXfer (s : State) (p te id : Nat) (f : Transfer → Transfer) : State :=
  s.updPier p fun x =>
    let l := (x.transfers.get [] te).map fun t => if t.id = id then f t else t
    { x with transfers := x.transfers.put te l }

/-- Find a transfer. -/
def State.xfer (s : State) (p te id : Nat) : Option Transfer := (s.xfers p te).find? fun t => t.id = id

/-- RSH_ERR bits of a fault, in the blocks of all four dies: VERSION for 0x0541, LOST for 0x0543, raised on this module
(R384). -/
def shardBits (code : Nat) : List (Nat × Nat) :=
  if code = 0x0541 then [0, 1, 2, 3].map fun k => (rshOff k + 8, 3)
  else if code = 0x0543 then [0, 1, 2, 3].map fun k => (rshOff k + 8, 4)
  else []

/-- A version fault counts in AD0's block (R385). -/
def State.noteVersion (s : State) (code : Nat) : State := if code = 0x0541 then s.bump (rshOff 0 + 0x5C) 1 else s

/-- A transfer faults its task; it sends nothing more (R158). -/
def State.xferFault (s : State) (p te id : Nat) (f : MemFault) : State :=
  match s.xfer p te id with
  | none => s
  | some t =>
    let s := s.updXfer p te id fun t => { t with fault := some (t.fault.getD f.code), refused := [], todo := [] }
    (s.noteVersion f.code).seqFault p t.entry.ser (9 + te) t.entry.word f 0 (shardBits f.code)

/-- A shard fault: its record has the layout of 0x0541 to 0x0544 and the reshard blocks count it (R357, R384, R385). -/
def State.shardFault (s : State) (p te id code : Nat) (d : List Byte) : State :=
  match s.xfer p te id with
  | none => s
  | some t =>
    let s := s.updXfer p te id fun t => { t with fault := some (t.fault.getD code), refused := [], todo := [] }
    let s := (s.noteVersion code).seqFault p t.entry.ser (9 + te) t.entry.word ⟨code, 0, 0⟩ 0 (shardBits code)
    s.updPier p fun x => { x with fault := x.fault.map fun g =>
      if g.ser = t.entry.ser ∧ g.code = code ∧ g.word = t.entry.word then { g with detail := d } else g }

/-! ## Moving one piece (R133, R325, R326) -/

/-- FLOW of an engine (R315). -/
def teFlow (p te : Nat) : Nat := 4 * p + te

/-- The die whose fence drops an access from pier p to another pier's memory (R21, R329). -/
def State.crossFenced (s : State) (p la tag : Nat) : Option Nat :=
  let q := match place la with
    | .stack n _ => n
    | .sram n _ => n
    | _ => p
  if q ≠ p && (s.die ((p + q) % 4)).fenced = some tag then some ((p + q) % 4) else none

/-- Read n bytes at a local address, atom by atom. -/
def State.readLa (s : State) (la tag va : Nat) : Nat → Nat → Except MemFault (List Byte) × State
  | 0, _ => (.ok [], s)
  | k + 1, n =>
    if n = 0 then (.ok [], s)
    else match s.readAtom la (atomPart la n) tag false .clean va with
      | (.error f, s) => (.error f, s)
      | (.ok d, s) =>
        match State.readLa s (la + atomPart la n) tag (va + atomPart la n) k (n - atomPart la n) with
        | (.ok r, s) => (.ok (d ++ r), s)
        | (.error f, s) => (.error f, s)

/-- Write bytes at a local address, atom by atom. -/
def State.writeLa (s : State) (who : Client) (la tag : Nat) (peer : Bool) (va : Nat) : Nat → List Byte → Option MemFault × State
  | 0, _ => (none, s)
  | k + 1, d =>
    if d = [] then (none, s)
    else
      let n := atomPart la d.length
      match s.writeAtom who la ((d.take n).map fun b => (b, true)) tag peer .clean va with
      | (some f, s) => (some f, s)
      | (none, s) => State.writeLa s who (la + n) tag peer (va + n) k (d.drop n)

/-- Atoms that n bytes may touch. -/
def atomsOf (n : Nat) : Nat := n / 64 + 2

/-- The task of a transfer, as the memory's client. -/
def State.xferClient (s : State) (p te id : Nat) : Client :=
  (s.xfer p te id).bind fun t => s.client p t.entry.ser

/-- Wait for a far request. -/
def State.xferWait (s : State) (p te id tx : Nat) : State :=
  s.updXfer p te id fun t => { t with waiting := t.waiting ++ [tx] }

/-- Keep the bytes of the row now moving, for its check. -/
def State.rowBytesAt (s : State) (p te id off : Nat) (d : List Byte) : State :=
  s.updXfer p te id fun t => { t with row := t.row.put off d }

/-- A request number that no answer carries: a request dropped under a fence is never answered (R329). -/
def neverAnswered : Nat := 2 ^ 32

/-- Send bytes that have been read to their destination: written here, or sent as a WRITE packet. -/
def State.sendBytes (s : State) (p te id tag dst : Nat) (d : List Byte) : State :=
  match s.translateAt p tag dst .wr with
  | (.fault c, s) => s.xferFault p te id ⟨c, dst, 0⟩
  | (.here la, s) =>
    match s.crossFenced p la tag with
    | some k => (s.swStale k).xferWait p te id neverAnswered
    | none =>
      if !reachMemory (place la) then s.xferFault p te id ⟨0x0302, dst, la⟩
      else match s.writeLa (s.xferClient p te id) la tag false dst (atomsOf d.length) d with
        | (some f, s) => s.xferFault p te id f
        | (none, s) => s
  | (.far m la rtag, s) =>
    let (tx, s) := s.farSend (dieOf p) (writePkt m rtag tag la (teFlow p te) d) 0 (.engine p te id) none 0
    s.xferWait p te id tx

/-! ## The reply port (R325, R556) -/

/-- Bytes that engine te of pier p is reading into its reply port. -/
def State.portBytes (s : State) (p te : Nat) : Nat :=
  (([0, 1, 2, 3].map fun k => (s.die k).far).flatten.filter fun r =>
    r.raddr = portAddr p te && (match r.unit with
      | .engine q u _ => q = p && u = te
      | .feeder _ _ => false
      | .refetch _ _ _ => false
      | .coll _ => false
      | .reshard _ => false
      | .hostCopy _ => false
      | .bay _ => false
      | .keystone => false)).map (fun r => r.len) |>.sum

/-- The port has room for a read: at most 2 MiB come into it at a time (R325). -/
def State.portRoom (s : State) (p te n : Nat) : Bool := decide (s.portBytes p te + n ≤ 2 ^ 21)

/-- Issue a read into the port: its data go on to a remote destination, or fill a piece that the engine fetches. -/
def State.portIssue (s : State) (p te id : Nat) (r : PortRead) : State :=
  let (tx, s) := s.farSend (dieOf p) r.packet (portAddr p te) (.engine p te id) r.relay r.off
  match r.fetch with
  | none => s.xferWait p te id tx
  | some i =>
    let own (f : FetchPiece) : FetchPiece :=
      if f.idx = i ∧ f.off = r.off ∧ f.data = none ∧ f.txid = none then { f with txid := some tx } else f
    s.updXfer p te id fun t => { t with fetch := t.fetch.map own }

/-- A read into the port, now or when there is room. -/
def State.portRead (s : State) (p te id : Nat) (r : PortRead) : State :=
  if s.portRoom p te r.packet.len && (s.xfers p te).all (fun t => t.todo = []) then s.portIssue p te id r
  else s.updXfer p te id fun t => { t with todo := t.todo ++ [r] }

/-- Issue the reads that wait for the port, oldest transfer first, while there is room. -/
def State.portGo (s : State) (p te : Nat) : Nat → State
  | 0 => s
  | k + 1 =>
    match (s.xfers p te).find? fun t => t.todo ≠ [] with
    | none => s
    | some t =>
      match t.todo with
      | [] => s
      | r :: rest =>
        if s.portRoom p te r.packet.len then
          State.portGo ((s.updXfer p te t.id fun t => { t with todo := rest }).portIssue p te t.id r) p te k
        else s

/-- Move one piece that crosses no page at either end; `off` is its offset in its row. -/
def State.movePiece (s : State) (p te id tag src dst n off : Nat) : State :=
  match s.translateAt p tag src .rd with
  | (.fault c, s) => s.xferFault p te id ⟨c, src, 0⟩
  | (.here la, s) =>
    match s.crossFenced p la tag with
    | some k => (s.swStale k).xferWait p te id neverAnswered
    | none =>
      if !reachMemory (place la) then s.xferFault p te id ⟨0x0302, src, la⟩
      else match s.readLa la tag src (atomsOf n) n with
        | (.error f, s) => s.xferFault p te id f
        | (.ok d, s) => (s.rowBytesAt p te id off d).sendBytes p te id tag dst d
  | (.far m la rtag, s) =>
    match s.translateAt p tag dst .wr with
    | (.fault c, s) => s.xferFault p te id ⟨c, dst, 0⟩
    | (.here dla, s) =>
      let (tx, s) := s.farSend (dieOf p) (readPkt m rtag tag la n dla (teFlow p te)) dla (.engine p te id) none off
      s.xferWait p te id tx
    | (.far dm dla dtag, s) =>
      s.portRead p te id { packet := readPkt m rtag tag la n (portAddr p te) (teFlow p te),
                           relay := some (dm, dla, dtag), off := off, fetch := none }

/-- Bytes that stay in the page of an address. -/
def pageLeft (va : Nat) : Nat := 2 ^ 21 - va % 2 ^ 21

/-- Send bytes from one buffer on, split wherever the destination crosses a page (R309, R325). -/
def State.sendSplit (s : State) (p te id tag : Nat) : Nat → Nat → List Byte → State
  | 0, _, _ => s
  | k + 1, dst, d =>
    if d = [] then s
    else
      let n := min d.length (pageLeft dst)
      State.sendSplit (s.sendBytes p te id tag dst (d.take n)) p te id tag k ((dst + n) % 2 ^ 64) (d.drop n)

/-- Move a row, split wherever its source or its destination crosses a page (R325); a fault stops it. Rows move in order,
and each piece is read whole before it is written: where source and destination overlap, that gives the result (DESIGN
CHOICE, log entry 124: R130 is silent on overlap). -/
def State.moveRow (s : State) (p te id tag : Nat) : Nat → Nat → Nat → Nat → Nat → State
  | 0, _, _, _, _ => s
  | k + 1, src, dst, n, off =>
    if n = 0 ∨ ((s.xfer p te id).bind fun t => t.fault).isSome = true then s
    else
      let m := min n (min (pageLeft src) (pageLeft dst))
      State.moveRow (s.movePiece p te id tag src dst m off) p te id tag k ((src + m) % 2 ^ 64) ((dst + m) % 2 ^ 64)
        (n - m) (off + m)

/-- Pieces that a row of n bytes may have. -/
def rowPieces (n : Nat) : Nat := 2 * (n / 2 ^ 21) + 3

/-! ## Fetching what an instruction reads first -/

/-- A transfer contributes to a collective descriptor (R331). -/
def Transfer.toColl (t : Transfer) : Bool := opc t.entry.n0 = 0x58 && t.entry.target

/-- Read a local source atom by atom. For a contribution to a collective an atom that cannot be read (0x0320) does not
stop it: its bytes are free, and the round's result will be undefined (R337; log entry 136). -/
def State.readSource (s : State) (p te id la tag va : Nat) (open' : Bool) : Nat → Nat → Except MemFault (List Byte) × State
  | 0, _ => (.ok [], s)
  | k + 1, n =>
    if n = 0 then (.ok [], s)
    else
      let m := atomPart la n
      let (d, s) : Except MemFault (List Byte) × State := match s.readAtom la m tag false .clean va with
        | (.ok d, s) => (.ok d, s)
        | (.error f, s) =>
          if open' && f.code = 0x0320 then
            let (v, s) := s.freeBytes m
            (.ok v, s.updXfer p te id fun t => { t with unread := some (t.unread.getD (f.va, f.la)) })
          else (.error f, s)
      match d with
      | .error f => (.error f, s)
      | .ok d =>
        match State.readSource s p te id (la + m) tag (va + m) open' k (n - m) with
        | (.ok r, s) => (.ok (d ++ r), s)
        | (.error f, s) => (.error f, s)

/-- Read a range that may lie anywhere; far parts are asked for into the engine's reply port (R325, R556). -/
def State.fetchRange (s : State) (p te id tag : Nat) (idx : Bool) : Nat → Nat → Nat → Nat → State
  | 0, _, _, _ => s
  | k + 1, va, n, off =>
    if n = 0 ∨ ((s.xfer p te id).bind fun t => t.fault).isSome = true then s
    else
      let m := min n (pageLeft va)
      let coll := !idx && ((s.xfer p te id).map Transfer.toColl).getD false
      let add (s : State) (tx : Option Nat) (d : Option (List Byte)) : State :=
        s.updXfer p te id fun t =>
          { t with fetch := t.fetch ++ [{ idx := idx, off := off, len := m, txid := tx, data := d }] }
      let s := match s.translateAt p tag va .rd with
        | (.fault c, s) => s.xferFault p te id ⟨c, va, 0⟩
        | (.here la, s) =>
          match s.crossFenced p la tag with
          | some j => add (s.swStale j) (some neverAnswered) none
          | none =>
            if !reachMemory (place la) then s.xferFault p te id ⟨0x0302, va, la⟩
            else match s.readSource p te id la tag va coll (atomsOf m) m with
              | (.error f, s) => s.xferFault p te id f
              | (.ok d, s) => add s none (some d)
        | (.far mo la rtag, s) =>
          (add s none none).portRead p te id
            { packet := readPkt mo rtag tag la m (portAddr p te) (teFlow p te), relay := none, off := off,
              fetch := some idx }
      State.fetchRange s p te id tag idx k ((va + m) % 2 ^ 64) (n - m) (off + m)

/-- The bytes fetched for a list or a source, in order. -/
def Transfer.fetched (t : Transfer) (idx : Bool) : List Byte :=
  ((t.fetch.filter fun f => f.idx = idx).map fun f => f.data.getD []).flatten

/-- Every byte has come. -/
def Transfer.allFetched (t : Transfer) : Bool := t.fetch.all fun f => f.data.isSome

/-- Index i of a fetched list. -/
def Transfer.index (t : Transfer) (i : Nat) : Nat := leAt (t.fetched true) (4 * i) 4

/-! ## GATHER (R131, R352, R357) -/

/-- COUNT of a GATHER. -/
def gCount (e : Entry) : Nat := fld e.n0 96 16 + 1
/-- ROWLEN of a GATHER in bytes. -/
def gLen (e : Entry) : Nat := 64 * (fld e.n1 8 24 + 1)
/-- VCHK. -/
def gVchk (e : Entry) : Bool := bit e.n0 16

/-- Source address of row i. -/
def Transfer.gSrc (t : Transfer) (i : Nat) : Nat :=
  (t.entry.addr 0 + 64 * t.index i * fld t.entry.n1 32 24) % 2 ^ 64
/-- Destination address of row i. -/
def Transfer.gDst (t : Transfer) (i : Nat) : Nat :=
  (t.entry.addr 1 + 64 * i * fld t.entry.n1 56 24) % 2 ^ 64

/-- What the check of a row finds (R352). -/
inductive RowCheck where
  | good
  | corrupt
  | version (found : Nat)
deriving DecidableEq, Repr

/-- Check a row as the shard block (shard, seq, version) (R352). -/
def checkRow (row : List Byte) (shard seq version : Nat) : RowCheck :=
  if leAt row 8 4 ≠ shard ∨ leAt row 4 4 ≠ seq then .corrupt
  else if leAt row 0 4 ≠ version then .version (leAt row 0 4)
  else if 64 + leAt row 12 4 ≤ row.length ∧
      sliceBytes row 16 32 ≠ shake256 (sliceBytes row 64 (leAt row 12 4)) 32 then .corrupt
  else .good

/-- The module that holds a row's source: this one, or the module of its remote page. -/
def State.rowModule (s : State) (t : Transfer) (i : Nat) : Nat :=
  match s.translate t.tag (t.gSrc i) .rd with
  | .far m _ _ => m
  | _ => s.moduleId

/-- Source j of shard entry n in the context's shard source table (R356). -/
def State.shardSource (s : State) (tag n j : Nat) : Option (List Byte) :=
  match (s.ctx (tagCtx tag)).shardTable with
  | none => none
  | some (addr, count) =>
    if count ≤ n then none
    else match s.readVa none tag reachMemory 0x0302 (addr + 64 * n + 20 * j) 20 with
      | (.ok d, _) => if bit (leAt d 0 2) 15 then some d else none
      | (.error _, _) => none

/-- Fields of a source record (R356): the holder, the tag under which it keeps the shard, and its slot for a version. -/
def srcModule (d : List Byte) : Nat := fld (leAt d 0 2) 0 13
/-- The holder's context tag. -/
def srcTag (d : List Byte) : Nat := leAt d 2 3 % 2 ^ 18
/-- Slot (version mod 2). -/
def srcSlot (d : List Byte) (version : Nat) : Nat := if version % 2 = 0 then leAt d 6 6 else leAt d 12 6

/-- Index of a module in the sources of a shard, or 0xFF (R440). -/
def State.sourceIndex (s : State) (tag n m : Nat) : Nat :=
  (([0, 1, 2].find? fun j => match s.shardSource tag n j with
    | some d => srcModule d = m
    | none => false)).getD 0xFF

/-- Expected version and shard of a GATHER with VCHK (R352). -/
def Transfer.wantVersion (t : Transfer) : Nat := t.entry.aux % 2 ^ 32
/-- Expected shard. -/
def Transfer.wantShard (t : Transfer) : Nat := t.entry.aux / 2 ^ 32 % 2 ^ 32

/-- Detail of 0x0541 to 0x0544 for the row now moving (R440). -/
def State.shardDetail (s : State) (t : Transfer) (found : Nat) : List Byte :=
  let m := s.rowModule t t.nextRow
  detail [(t.wantShard, 4), (t.index t.nextRow, 4), (m, 2), (s.sourceIndex t.tag t.wantShard m, 1), (0, 1),
    (t.wantVersion, 4), (found, 4)]

/-- The bytes of the row now moving. -/
def Transfer.rowData (t : Transfer) : List Byte := (t.row.map fun x => x.2).flatten

/-- Go on with a GATHER under VCHK: each row that has come whole is checked, and the next one starts (R352, R357). -/
def State.gatherGo (s : State) (p te id : Nat) : Nat → State
  | 0 => s
  | k + 1 =>
    match s.xfer p te id with
    | none => s
    | some t =>
      if t.refetch.isSome || t.fault.isSome || t.waiting ≠ [] || t.todo ≠ [] || gCount t.entry ≤ t.nextRow then s
      else if t.row = [] then
        let s := s.moveRow p te id t.tag (rowPieces (gLen t.entry)) (t.gSrc t.nextRow) (t.gDst t.nextRow) (gLen t.entry) 0
        State.gatherGo s p te id k
      else
        match checkRow t.rowData t.wantShard (t.index t.nextRow) t.wantVersion with
        | .good => State.gatherGo (s.updXfer p te id fun t => { t with nextRow := t.nextRow + 1, row := [] }) p te id k
        | .version v => s.shardFault p te id 0x0541 (s.shardDetail t v)
        | .corrupt =>
          let s := (s.bump (rshOff 0 + 0x54) 1).record 1 p 0x0542 false (some t.tag)
            (s.shardDetail t (leAt t.rowData 0 4))
          s.updXfer p te id fun t => { t with refetch := some { next := 0, got := [], waiting := none, expelled := false } }

/-! ## REDUCE (R132, R267 to R275, R331) -/

/-- The installed epoch's low bits. -/
def State.epoch32 (s : State) : Nat := (s.reg (swOff 0 + 8)).toNat

/-- PAIR of a REDUCE. -/
def Entry.pair (e : Entry) : Nat := e.rSfmt + 16 * e.rDfmt

/-- The chunks of a contribution: 4 KiB of source each; an indexed one carries its indices (R274). -/
def chunksOf (t : Transfer) (tag la epoch : Nat) (src : List Byte) : List ChunkReq :=
  let e := t.entry
  let per := 4096 / (fmtBytes e.rSfmt)
  let parts := pieces 4096 (src.length / 4096 + 1) src
  (List.zip (List.range parts.length) parts).map fun x =>
    { tag := BitVec.ofNat 18 tag, dst := BitVec.ofNat 48 la, rank := e.rank, round := BitVec.ofNat 16 e.round,
      epoch := BitVec.ofNat 32 epoch, seg := x.1, last := x.1 + 1 = parts.length, indexed := e.indexed,
      pair := BitVec.ofNat 8 e.pair,
      indices := if e.indexed then
          (List.range (x.2.length / fmtBytes e.rSfmt)).map fun i => BitVec.ofNat 32 (t.index (per * x.1 + i))
        else [],
      data := x.2, peer := false, pier := none, ecc := .clean }

/-- The bytes of a chunk in a CHUNK packet: an indexed one is its count, its indices and its elements, padded (R308). -/
def chunkBytes (c : ChunkReq) : List Byte :=
  if c.indexed then
    let b := toBytes c.indices.length 4 ++ (c.indices.map fun i => toBytes i.toNat 4).flatten ++ c.data
    sliceBytes b 0 (roundUp b.length 64)
  else c.data

/-- A CHUNK packet of consecutive chunks (R308). -/
def chunkPkt (m rtag stag flow : Nat) (wide : Bool) (ordered : Bool) (l : List ChunkReq) : Packet :=
  match l with
  | [] => Packet.empty
  | c :: _ =>
    let last := (l.getLast?.map fun x => x.last).getD false
    let d := (l.map chunkBytes).flatten
    { Packet.empty with
      type := 3, dst := m, tag := rtag, stag := stag, addr := c.dst.toNat, len := d.length, flow := flow,
      spec := toBytes c.rank 2 ++ toBytes c.round.toNat 2 ++ toBytes c.seg 4 ++ toBytes l.length 2 ++
        toBytes (b2n ordered + 2 * b2n c.indexed + 4 * b2n wide + 8 * b2n last) 1 ++ toBytes c.pair.toNat 1 ++
        List.replicate 4 0,
      payload := d }

/-- Chunks gathered into packets: at most 512 chunks, within the rest of ADDR's page (R308, R309, R325). ADDR is the
window's first DST atom and a chunk is never split, so where that rest is shorter than one chunk the packet holds one
chunk (DESIGN CHOICE, log entry 141: the two rules leave no other packet). -/
def packChunks (room : Nat) : List ChunkReq → List ChunkReq → Nat → List (List ChunkReq)
  | [], cur, _ => if cur = [] then [] else [cur]
  | c :: r, cur, n =>
    let b := (chunkBytes c).length
    if cur = [] then packChunks room r [c] b
    else if cur.length < 512 && decide (n + b ≤ room) then packChunks room r (cur ++ [c]) (n + b)
    else cur :: packChunks room r [c] b

/-- A chunk of an ordered REDUCE on the module: added, parked, stale, refused or faulting (R275), or dropped on its way
under a fence (R329). -/
def State.sendChunk (s : State) (p te id : Nat) (c : ChunkReq) : State :=
  match s.crossFenced p c.dst.toNat c.tag.toNat with
  | some k => (s.swStale k).xferWait p te id neverAnswered
  | none =>
    match s.chunkServe c with
    | (.accepted, s) => s
    | (.refusedChunk, s) =>
      s.updXfer p te id fun t => { t with refused := t.refused ++ [{ req := c, remote := none, coll := none }] }
    | (.stale, s) => s.xferFault p te id ⟨0x0304, 0, c.dst.toNat⟩
    | (.fault code, s) => s.xferFault p te id ⟨code, 0, c.dst.toNat⟩
    | (_, s) => s

/-- The transfer has faulted. -/
def State.xferBad (s : State) (p te id : Nat) : Bool := ((s.xfer p te id).bind fun t => t.fault).isSome

/-- Send a CHUNK packet and wait for its answer. -/
def State.sendChunkPkt (s : State) (p te id : Nat) (q : Packet) : State :=
  let (tx, s) := s.farSend (dieOf p) q 0 (.engine p te id) none 0
  s.xferWait p te id tx

/-- An ordered REDUCE to memory-side adders (R267, R274, R275, R325). -/
def State.reduceOrdered (s : State) (p te id : Nat) (t : Transfer) : State :=
  let e := t.entry
  let dst := e.addr 1
  match s.translateAt p t.tag dst .red with
  | (.fault c, s) => s.xferFault p te id ⟨c, dst, 0⟩
  | (.here la, s) =>
    match place la with
    | .sram _ _ => s.xferFault p te id ⟨0x0330, dst, la⟩
    | _ =>
      (chunksOf t t.tag la s.epoch32 (t.fetched false)).foldl (fun s c =>
        if s.xferBad p te id then s else s.sendChunk p te id c) s
  | (.far m la rtag, s) =>
    (packChunks (pageLeft la) (chunksOf t rtag la s.epoch32 (t.fetched false)) [] 0).foldl (fun s l =>
      s.sendChunkPkt p te id (chunkPkt m rtag t.tag (teFlow p te) false true l)) s

/-- Elements in runs of at most n, the source part of a chunk (R308). -/
def elemParts (n : Nat) : Nat → List (Nat × Nat) → List (List (Nat × Nat))
  | 0, _ => []
  | k + 1, l => if l = [] then [] else l.take n :: elemParts n k (l.drop n)

/-- The elements of a plain REDUCE that fall into one destination atom, by address: added here, or sent in one packet to
the remote module's adders (R267, R270, R325). -/
def State.plainGroup (s : State) (p te id : Nat) (t : Transfer) (va : Nat) (l : List (Nat × Nat)) : State :=
  let e := t.entry
  let w := if e.wide then 8 else fmtBytes e.rDfmt
  match s.translateAt p t.tag va .red with
  | (.fault c, s) => s.xferFault p te id ⟨c, va, 0⟩
  | (.here la, s) =>
    match s.crossFenced p la t.tag with
    | some k => (s.swStale k).xferWait p te id neverAnswered
    | none =>
      match s.plainAtom t.tag false .clean e.rSfmt e.rDfmt e.wide la va (l.map fun x => (la + (x.1 - va), x.2)) with
      | (some f, s) => s.xferFault p te id f
      | (none, s) => s
  | (.far m la rtag, s) =>
    let start := if e.indexed then la else la + ((l.head?.map (·.1)).getD va - va)
    let parts := elemParts (4096 / fmtBytes e.rSfmt) (l.length + 1) l
    let chunks := (List.zip (List.range parts.length) parts).map fun y =>
      let c : ChunkReq :=
        { tag := BitVec.ofNat 18 rtag, dst := BitVec.ofNat 48 start, rank := 0, round := 0, epoch := 0, seg := y.1,
          last := true, indexed := e.indexed, pair := BitVec.ofNat 8 e.pair,
          indices := if e.indexed then y.2.map fun x => BitVec.ofNat 32 ((x.1 - va) / w) else [],
          data := (y.2.map fun x => toBytes x.2 (fmtBytes e.rSfmt)).flatten, peer := false, pier := none, ecc := .clean }
      c
    (packChunks (pageLeft start) chunks [] 0).foldl (fun s l =>
      s.sendChunkPkt p te id (chunkPkt m rtag t.tag (teFlow p te) e.wide false l)) s

/-- A plain REDUCE: each destination atom in turn, with the elements of its places or indices (R132, R267, R270). -/
def State.reducePlain (s : State) (p te id : Nat) (t : Transfer) : State :=
  let e := t.entry
  let w := if e.wide then 8 else fmtBytes e.rDfmt
  let v := unpack (fmtWidth e.rSfmt) (t.fetched false)
  let els := (List.zip (List.range v.length) v).map fun x =>
    ((e.addr 1 + w * (if e.indexed then t.index x.1 else x.1)) % 2 ^ 64, x.2)
  let go (s : State) : State := (atomGroups els).foldl (fun s g =>
    if s.xferBad p te id then s else s.plainGroup p te id t g.1 g.2) s
  match s.translateAt p t.tag (e.addr 1) .red with
  | (.here la, s) =>
    (match place la with
     | .sram _ _ => s.xferFault p te id ⟨0x0330, e.addr 1, la⟩
     | _ => go s)
  | (_, s) => go s

/-- A REDUCE to a collective descriptor matches it (R331). -/
def State.collMatches (s : State) (t : Transfer) : Bool :=
  let e := t.entry
  let x := s.coll e.collNo
  x.state = .opn && !x.ks && x.tag = t.tag && e.rank = x.rank && fld e.n0 72 24 + 1 = x.len &&
    e.rSfmt = x.sfmt && e.rDfmt = x.dfmt && e.ordered && !e.indexed &&
    (e.round = x.round || e.round = (x.round + 1) % 2 ^ 16)

/-- One chunk to a collective engine. -/
def State.sendColl (s : State) (p te id : Nat) (t : Transfer) (c : ChunkReq) : State :=
  match s.collMine t.entry.collNo t.entry.round c.seg c.data with
  | (true, s) => if t.unread.isSome then s.collDup t.entry.collNo t.entry.rank else s
  | (false, s) =>
    s.updXfer p te id fun x =>
      { x with refused := x.refused ++ [{ req := c, remote := none, coll := some t.entry.collNo }] }

/-- A REDUCE to a collective engine (R331): its contribution in segment order. -/
def State.reduceColl (s : State) (p te id : Nat) (t : Transfer) : State :=
  if s.collMatches t then
    (chunksOf t t.tag 0 s.epoch32 (t.fetched false)).foldl (fun s c => s.sendColl p te id t c) s
  else
    (s.orReg (swOff (t.entry.collNo % 4) + 0xC) 0x20).xferFault p te id ⟨0x0431, 0, 0⟩

/-! ## Starting, settling and retiring (R113, R133, R144) -/

/-- Everything read first has come: rows or chunks begin to move. -/
def State.xferBegin (s : State) (p te id : Nat) : State :=
  match s.xfer p te id with
  | none => s
  | some t =>
    let e := t.entry
    let s := s.updXfer p te id fun t => { t with begun := true }
    if opc e.n0 = 0x54 then
      if gVchk e then s.gatherGo p te id (2 * gCount e + 1)
      else (List.range (gCount e)).foldl (fun s i =>
        s.moveRow p te id t.tag (rowPieces (gLen e)) (t.gSrc i) (t.gDst i) (gLen e) 0) s
    else if e.target then s.reduceColl p te id t
    else if e.ordered then s.reduceOrdered p te id t
    else s.reducePlain p te id t

/-- A transfer is over: nothing is awaited and nothing is left to move. -/
def Transfer.over (t : Transfer) : Bool :=
  t.waiting = [] && t.todo = [] && (if t.fault.isSome then true
    else t.begun && t.refused = [] && (!(opc t.entry.n0 = 0x54 && gVchk t.entry) || decide (gCount t.entry ≤ t.nextRow)))

/-- A contribution with an atom that could not be read has been sent whole: its task now faults with 0x0320 (R337; log
entry 136). -/
def State.faultUnread (s : State) (p te : Nat) (t : Transfer) : State :=
  match t.unread with
  | some (va, la) => if t.fault.isNone then s.xferFault p te t.id ⟨0x0320, va, la⟩ else s
  | none => s

/-- Retire finished transfers in order: DONE_TC, then the XFER's remote increment (R130, R133, R144). -/
def State.retireXfers (s : State) (p te : Nat) : Nat → State
  | 0 => s
  | k + 1 =>
    match s.xfers p te with
    | t :: r =>
      if !t.over then s
      else
        let s := s.faultUnread p te t
        let s := s.updPier p fun x => { x with transfers := x.transfers.put te r }
        let s := if t.fault.isSome || t.unread.isSome then (s.drop p t.entry.ser).completeAll p t.behind
          else
            let s := (s.tcAdd p (tDone t.entry.n0) 1).completeAll p (t.entry.ser :: t.behind)
            if opc t.entry.n0 = 0x50 && bit t.entry.n0 22 then
              s.tcSend p (fld t.entry.n1 56 4) t.tag (fld t.entry.n0 16 6) 1
            else s
        State.retireXfers s p te k
    | [] => s

/-- Reads of an engine that wait for its port. -/
def State.portQueue (s : State) (p te : Nat) : Nat := ((s.xfers p te).map fun t => t.todo.length).sum

/-- After an answer or a start: issue the reads that waited for the port, begin what can begin, go on with a gather,
retire what is over. -/
def State.settleXfer (s : State) (p te id : Nat) : State :=
  let s := s.portGo p te (s.portQueue p te)
  let s := match s.xfer p te id with
    | some t =>
      if t.fault.isSome then s
      else if !t.begun then (if t.allFetched then s.xferBegin p te id else s)
      else if opc t.entry.n0 = 0x54 && gVchk t.entry then s.gatherGo p te id (2 * gCount t.entry + 1)
      else s
    | none => s
  s.retireXfers p te ((s.xfers p te).length)

/-- A fresh transfer for the entry at the head of an engine's queue. -/
def newXfer (id tag : Nat) (e : Entry) (begun : Bool) : Transfer :=
  { id := id, entry := e, tag := tag, fetch := [], begun := begun, waiting := [], todo := [], unread := none,
    refused := [], nextRow := 0, row := [],
    refetch := none, fault := none, behind := [] }

/-- Start the entry at the head of the queue of engine te if its opcode is o and fewer than 16 are in flight (R113). -/
def State.startXfer (s : State) (p te o : Nat) (k : State → Nat → Entry → State) : State :=
  match s.head p (9 + te) with
  | none => s
  | some e =>
    if opc e.n0 ≠ o ∨ 16 ≤ (s.xfers p te).length then s
    else
      let id := s.ks.txid + 2 ^ 33
      let s := (s.pop p (9 + te)).updKs fun x => { x with txid := x.txid + 1 }
      let s := s.updPier p fun x =>
        let l := x.transfers.get [] te ++ [newXfer id x.tag e (o = 0x50)]
        { x with transfers := x.transfers.put te l }
      (k s id e).settleXfer p te id

/-- Dispatch a transfer instruction: reserved fields, then its own checks, then its queue (R125, R129, R143). -/
def State.xferDispatch (s : State) (p o : Nat) (addrs : PierState → Nat → Nat → List Nat)
    (aux : PierState → Nat → Nat) (check : Nat → Nat → Option Nat) : State :=
  s.dispatch p (· = o) fun s r w0 w1 =>
    if !xferFields o w0 w1 then s.seqFaultCode p r.task.ser 13 r.pc 0x0521 []
    else match check w0 w1 with
      | some c => s.seqFaultCode p r.task.ser 13 r.pc c []
      | none =>
        let x := s.pier p
        s.enqueue p (9 + tTe w0) 2 r { entryOf r w0 w1 with addrs := addrs x w0 w1, aux := aux x w1 } id

/-- XFER (R130). -/
def execXfer (p : Pier) (ph : TPhase) (s : State) : Host.Outcome State Fault Refusal :=
  .next (match ph with
    | .dispatch => s.xferDispatch p 0x50 (fun x w0 _ => [x.addr (fld w0 24 24), x.addr (fld w0 48 24)]) (fun _ _ => 0)
        fun _ _ => none
    | .run te => s.startXfer p te 0x50 fun s id e =>
      let n := 64 * (fld e.n0 72 24 + 1)
      let tag := (s.pier p).tag
      (List.range (fld e.n0 96 16 + 1)).foldl (fun s r =>
        s.moveRow p te id tag (rowPieces n) ((e.addr 0 + 64 * r * fld e.n1 8 24) % 2 ^ 64)
          ((e.addr 1 + 64 * r * fld e.n1 32 24) % 2 ^ 64) n 0) s)

/-- GATHER (R131, R352). -/
def execGather (p : Pier) (ph : TPhase) (s : State) : Host.Outcome State Fault Refusal :=
  .next (match ph with
    | .dispatch => s.xferDispatch p 0x54
        (fun x w0 _ => [x.addr (fld w0 24 24), x.addr (fld w0 48 24), x.addr (fld w0 72 24)])
        (fun x w1 => x.base (fld w1 2 6)) fun _ _ => none
    | .run te => s.startXfer p te 0x54 fun s id e =>
      s.fetchRange p te id (s.pier p).tag true (rowPieces (4 * gCount e)) (e.addr 2) (4 * gCount e) 0)

/-- The checks of a REDUCE before admission (R267, R268). -/
def reduceCheck (w0 : Nat) : Option Nat :=
  let ordered := bit w0 16
  let round := fld w0 112 16
  let wide := !ordered && bit round 0
  if bit w0 18 then none
  else if !pairOk (fld w0 96 4) (fld w0 100 4) wide ordered || (!ordered && 1 < round) then some 0x0330 else none

/-- REDUCE (R132, R267, R331). -/
def execReduce (p : Pier) (ph : TPhase) (s : State) : Host.Outcome State Fault Refusal :=
  .next (match ph with
    | .dispatch => s.xferDispatch p 0x58
        (fun x w0 w1 => [x.addr (fld w0 24 24), x.addr (fld w0 48 24), x.addr (fld w1 32 24)]) (fun _ _ => 0)
        fun w0 _ => reduceCheck w0
    | .run te => s.startXfer p te 0x58 fun s id e =>
      let n := 64 * (fld e.n0 72 24 + 1)
      let tag := (s.pier p).tag
      let s := s.fetchRange p te id tag false (rowPieces n) (e.addr 0) n 0
      if e.indexed then
        let m := 4 * (n / fmtBytes e.rSfmt)
        s.fetchRange p te id tag true (rowPieces m) (e.addr 2) m 0
      else s)

/-! ## Repeats and shards (R275, R325, R333, R357, R358) -/

/-- A refused chunk is sent again. -/
def State.repeatChunk (s : State) (p te id : Nat) (t : Transfer) (c : PendingChunk) : State :=
  match c.coll, c.remote with
  | some _, _ => s.sendColl p te id t c.req
  | none, some (m, rtag) => s.sendChunkPkt p te id (chunkPkt m rtag t.tag (teFlow p te) false true [c.req])
  | none, none => if s.xferBad p te id then s else s.sendChunk p te id c.req

/-- CHUNK_REPEAT: every refused chunk of an engine is repeated (R275, R325, R333). -/
def execChunkRepeat (p : Pier) (te : Te) (s : State) : Host.Outcome State Fault Refusal :=
  .next ((s.xfers p te).foldl (fun s t =>
    let l := t.refused
    let s := s.updXfer p te t.id fun x => { x with refused := [] }
    (l.foldl (fun s c => s.repeatChunk p te t.id t c) s).settleXfer p te t.id) s)

/-- The fault of a block no copy of which passes (R357): 0x0541 if each copy fetched differs in its version alone; where
none was fetched, 0x0543. -/
def copyFault (got : List (List Byte)) (shard seq version : Nat) : Nat :=
  if got ≠ [] && got.all (fun d => leAt d 8 4 = shard && leAt d 4 4 = seq && leAt d 0 4 ≠ version) then 0x0541
  else 0x0543

/-- Where the row now moving lies in its shard: its place at its holder from that holder's slot base, which is the same at
each holder (R356, R357). -/
def State.rowOffset (s : State) (t : Transfer) : Nat :=
  let j := s.sourceIndex t.tag t.wantShard (s.rowModule t t.nextRow)
  let base := ((s.shardSource t.tag t.wantShard (if j < 3 then j else 0)).map fun d => srcSlot d t.wantVersion).getD 0
  match s.translate t.tag (t.gSrc t.nextRow) .rd with
  | .here la => la - base
  | .far _ la _ => la - base
  | .fault _ => 0

/-- A copy of the block has come: one that passes its check is written at the row's destination and the engine resumes at
the next row; another is kept for the fault's status (R357). -/
def State.refetchTake (s : State) (p te id : Nat) (c : List Byte) : State :=
  match s.xfer p te id with
  | none => s
  | some t =>
    if checkRow c t.wantShard (t.index t.nextRow) t.wantVersion = .good then
      let s := s.updXfer p te id fun x => { x with refetch := none, nextRow := x.nextRow + 1, row := [] }
      s.sendSplit p te id t.tag (rowPieces c.length) (t.gDst t.nextRow) c
    else s.updXfer p te id fun x =>
      { x with refetch := x.refetch.map fun r => { r with got := r.got ++ [c], waiting := none } }

/-- The keystone asks a holder for a row's block: read here, or by a READ of its share of the die (R357). RADDR names no
place that the spec gives, so it is 0 (DESIGN CHOICE, log entry 142). -/
def State.refetchAsk (s : State) (p te id : Nat) (t : Transfer) (d : List Byte) : State :=
  let la := srcSlot d t.wantVersion + s.rowOffset t
  let n := gLen t.entry
  if srcModule d = s.moduleId then
    match s.readLa la (srcTag d) 0 (atomsOf n) n with
    | (.ok c, s) => s.refetchTake p te id c
    | (.error _, s) => s
  else
    let k := dieOf p
    let (tx, s) := s.farSend k (readPkt (srcModule d) (srcTag d) t.tag la n 0 (0x3C + k)) 0 (.refetch p te id) none 0
    s.updXfer p te id fun x => { x with refetch := x.refetch.map fun r => { r with waiting := some tx } }

/-- The keystone goes on with a stopped row: the valid sources in order, and the fault after the last (R357). A row
stopped because its holder left skips every holder that is no member (R359). -/
def State.refetchGo (s : State) (p te id : Nat) : Nat → State
  | 0 => s
  | k + 1 =>
    match s.xfer p te id with
    | none => s
    | some t =>
      match t.refetch with
      | none => s
      | some x =>
        if x.waiting.isSome || t.fault.isSome then s
        else if 3 ≤ x.next then
          let code := copyFault x.got t.wantShard (t.index t.nextRow) t.wantVersion
          s.shardFault p te id code (s.shardDetail t ((x.got.head?.map fun d => leAt d 0 4).getD 0))
        else
          let s := s.updXfer p te id fun y => { y with refetch := y.refetch.map fun r => { r with next := r.next + 1 } }
          let s := match s.shardSource t.tag t.wantShard x.next with
            | none => s
            | some d =>
              if x.expelled && !s.ks.truss.record.members.contains (srcModule d) then s else s.refetchAsk p te id t d
          State.refetchGo s p te id k

/-- The answer of a holder: its bytes, or none where it refused or was silent. -/
def State.refetchAnswer (s : State) (p te id txid : Nat) (c : Option (List Byte)) : State :=
  match (s.xfer p te id).bind fun t => t.refetch with
  | none => s
  | some x =>
    if x.waiting ≠ some txid then s
    else
      let s := s.updXfer p te id fun y => { y with refetch := y.refetch.map fun r => { r with waiting := none } }
      let s := match c with
        | some d => s.refetchTake p te id d
        | none => s
      (s.refetchGo p te id 4).settleXfer p te id

/-- SHARD_REFETCH: the keystone fetches the block of an engine's stopped row again (R357, R359). -/
def execShardRefetch (p : Pier) (te : Te) (s : State) : Host.Outcome State Fault Refusal :=
  .next (match (s.xfers p te).find? fun t => t.refetch.isSome && t.fault.isNone with
    | none => s
    | some t => (s.refetchGo p te t.id 4).settleXfer p te t.id)

/-- SHARD_TIMEOUT: the request of the row now moving is retired and issued again (R358). -/
def execShardTimeout (p : Pier) (te : Te) (s : State) : Host.Outcome State Fault Refusal :=
  .next (match (s.xfers p te).find? fun t => t.begun && gVchk t.entry && opc t.entry.n0 = 0x54 && t.waiting ≠ [] with
    | none => s
    | some t =>
      (t.waiting.filterMap fun tx => s.farFind tx).foldl (fun s y =>
        let (k, r) := y
        if r.packet.type ≠ 2 then s
        else
          let s := (s.farEnd k r.txid).bump (rshOff 0 + 0x58) 1
          let s := s.record 1 p 0x0544 false (some t.tag) (s.shardDetail t 0)
          let s := s.record 0 0 0x0817 false none (detail [(r.dst, 2), (1, 1)])
          let s := s.updXfer p te t.id fun x => { x with waiting := x.waiting.erase r.txid }
          let (tx, s) := s.farSend k r.packet r.raddr r.unit r.relay r.off
          s.xferWait p te t.id tx) s)

end Sys2Proof.Machine
end

