-- ==== Sys2Proof/Machine/Packets.lean ====
section
/-! DEFINITION. What a delivered packet does: far requests served, and answers taken by the units that asked (R274,
R275, R307, R325 to R329, R333, R354, R364, R365, R556). -/
namespace Sys2Proof.Machine
open Sys2Proof

/-! ## WRITE and landing ranges (R326, R364, R365) -/

/-- Word w of landing range n in the block of die k (R386). -/
def State.lrWord (s : State) (k n w : Nat) : Nat := (s.reg (rshOff k + 0x100 + 32 * n + 4 * w)).toNat
/-- BASE of a landing range. -/
def State.lrBase (s : State) (k n : Nat) : Nat := s.lrWord k n 0 + 2 ^ 32 * (s.lrWord k n 1 % 2 ^ 16)
/-- LEN. -/
def State.lrLen (s : State) (k n : Nat) : Nat := s.lrWord k n 2
/-- SLOT. -/
def State.lrSlot (s : State) (k n : Nat) : Nat := s.lrWord k n 3
/-- TAG. -/
def State.lrTag (s : State) (k n : Nat) : Nat := fld (s.lrWord k n 4) 0 18
/-- PIER. -/
def State.lrPier (s : State) (k n : Nat) : Nat := fld (s.lrWord k n 4) 18 4
/-- TC. -/
def State.lrTc (s : State) (k n : Nat) : Nat := fld (s.lrWord k n 4) 22 6
/-- HOME. -/
def State.lrHome (s : State) (k n : Nat) : Nat := fld (s.lrWord k n 4) 28 2
/-- VALID. -/
def State.lrValid (s : State) (k n : Nat) : Bool := bit (s.lrWord k n 4) 30

/-- The range a WRITE from a link counts for, if any (R364). -/
def State.lrMatch (s : State) (k : Nat) (p : Packet) : Option Nat :=
  if p.src = s.moduleId then none
  else (List.range 16).find? fun n =>
    s.lrValid k n && s.lrTag k n = p.tag && decide (s.lrBase k n ≤ p.addr) &&
      decide (p.addr + p.payload.length ≤ s.lrBase k n + s.lrLen k n)

/-- Serve a WRITE at its memory, marked as coming from a peer: the status of a drop or a fault (R326, R556). -/
def State.serveWrite (s : State) (p : Packet) : Option MemFault × State :=
  s.writeLa none p.addr p.tag true 0 (atomsOf p.payload.length) p.payload

/-- A WRITE is delivered and answered; a counting packet joins its range's order (R325, R365). -/
def State.doWrite (s : State) (k : Nat) (p : Packet) (count : Option Nat) : State :=
  match s.serveWrite p with
  | (some f, s) =>
    let s := match count with
      | some n => s.updDie k fun x => { x with counts := x.counts ++ [(n, p.payload.length, false)] }
      | none => s
    s.nack k p f.code
  | (none, s) =>
    let s := match count with
      | some n => s.updDie k fun x => { x with counts := x.counts ++ [(n, p.payload.length, true)] }
      | none => s
    s.answer k p 0x81 0 []

/-- WRITE_PACKET (R326, R364): a counting packet at another die goes to HOME first. -/
def execWritePacket (k : Die) (s : State) : Host.Outcome State Fault Refusal :=
  .next (match s.inboxFirst k 1 with
    | none => s
    | some p =>
      let s := s.inboxTake k p
      match s.lrMatch k p with
      | some n =>
        if s.lrHome k n = k then s.doWrite k p (some n)
        else s.updDie (s.lrHome k n) fun x => { x with inbox := x.inbox ++ [p] }
      | none => s.doWrite k p none)

/-- Add LEN to ACC of a range; each full SLOT makes one increment (R365). -/
def State.landBytes (s : State) (k n len : Nat) : State :=
  let slot := s.lrSlot k n
  let acc := s.lrWord k n 5 + len
  let made := if slot = 0 then 0 else acc / slot
  let s := s.setReg (rshOff k + 0x100 + 32 * n + 20) (BitVec.ofNat 32 (acc - made * slot))
  let s := s.setReg (rshOff k + 0x100 + 32 * n + 24) (BitVec.ofNat 32 (s.lrWord k n 6 + made))
  if made = 0 then s else s.tcSend (32 + k) (s.lrPier k n) (s.lrTag k n) (s.lrTc k n) made

/-- LANDING_COUNT (R365): the oldest counting packet of a range that has been acknowledged is counted. -/
def execLandingCount (k : Die) (s : State) : Host.Outcome State Fault Refusal :=
  .next (
    let l := (s.die k).counts
    match l.find? fun c => c.2.2 && ((l.find? fun d => d.1 = c.1) = some c) with
    | none => s
    | some c => (s.updDie k fun x => { x with counts := x.counts.erase c }).landBytes k c.1 c.2.1)

/-! ## READ (R326, R354) -/

/-- Word w of serve entry n of die k (R387). -/
def State.serveWord (s : State) (k n w : Nat) : Nat := (s.reg (rshOff k + 0x400 + 16 * n + 4 * w)).toNat

/-- What the serve entry says of a peer's READ. -/
inductive ShardServe where
  | answer
  | hold
  | refuse (code : Nat)
deriving DecidableEq, Repr

/-- A READ whose RADDR is an array's reply port is a weight feeder's, which carries no version check (R325, R362). -/
def feederRead (p : Packet) : Bool :=
  let r := leAt p.spec 0 6
  (List.range 16).any fun q => (List.range 8).any fun a => r = portAddr q (4 + a)

/-- The check of a READ against its context's serve entry (R354); the header is read under the owner rule. That a feeder's
READ is known by its RADDR is DEDUCED (log entry 143). -/
def State.shardServe (s : State) (k : Nat) (p : Packet) : ShardServe × State :=
  let n := tagCtx p.tag
  let base := fld (s.serveWord k n 2) 0 27
  let inside := decide (base ≤ pageOf p.addr) && decide (pageOf p.addr < base + s.serveWord k n 3)
  if !bit (s.serveWord k n 1) 1 || !inside || p.src = s.moduleId || feederRead p then (.answer, s)
  else match s.readLa p.addr p.tag 0 2 64 with
    | (.error _, s) => (.answer, s)
    | (.ok h, s) =>
      let v := leAt h 0 4
      if v = s.serveWord k n 0 then (.answer, s)
      else if v = (s.serveWord k n 0 + 1) % 2 ^ 32 && bit (s.serveWord k n 1) 0 then (.hold, s)
      else (.refuse 0x0541, s)

/-- Read n bytes at a local address for a peer, atom by atom. -/
def State.peerRead (s : State) (la tag : Nat) : Nat → Nat → Except MemFault (List Byte) × State
  | 0, _ => (.ok [], s)
  | k + 1, n =>
    if n = 0 then (.ok [], s)
    else match s.readAtom la (atomPart la n) tag true .clean 0 with
      | (.error f, s) => (.error f, s)
      | (.ok d, s) => match State.peerRead s (la + atomPart la n) tag k (n - atomPart la n) with
        | (.ok r, s) => (.ok (d ++ r), s)
        | (.error f, s) => (.error f, s)

/-- READ_PACKET (R326, R354). -/
def execReadPacket (k : Die) (s : State) : Host.Outcome State Fault Refusal :=
  .next (match s.inboxFirst k 2 with
    | none => s
    | some p =>
      let s := s.inboxTake k p
      match s.shardServe k p with
      | (.refuse code, s) => (s.bump (rshOff k + 0x50) 1).nack k p code
      | (.hold, s) =>
        if 1024 ≤ (s.die k).held.length then s
        else (s.updDie k fun x => { x with held := x.held ++ [p] }).bump (rshOff k + 0x4C) 1
      | (.answer, s) =>
        match s.peerRead p.addr p.tag (atomsOf p.len) p.len with
        | (.error f, s) => s.nack k p f.code
        | (.ok d, s) => s.answer k p 0x82 0 d)

/-- The keystone clears PENDING of a context in every die: the READs held for it are evaluated again (R354). -/
def State.clearPending (s : State) (c : Nat) : State :=
  [0, 1, 2, 3].foldl (fun s k =>
    (s.setRfld (rshOff k + 0x400 + 16 * c + 4) 0 1 0).updDie k fun x =>
      { x with inbox := x.held.filter (fun p => tagCtx p.tag = c) ++ x.inbox,
               held := x.held.filter fun p => tagCtx p.tag ≠ c }) s

/-! ## CHUNK (R275, R308) -/

/-- The indexed chunks of a payload: a count, indices and elements, padded (R308). -/
def indexedParts (b : Nat) : Nat → List Byte → List (List Nat × List Byte)
  | 0, _ => []
  | n + 1, l =>
    let c := leAt l 0 4
    let size := 4 + 4 * c + b * c
    ((List.range c).map fun i => leAt l (4 + 4 * i) 4, sliceBytes l (4 + 4 * c) (b * c)) ::
      indexedParts b n (l.drop (roundUp size 64))

/-- The chunks that a CHUNK packet carries (R308). -/
def packetChunks (p : Packet) : List ChunkReq :=
  let flags := leAt p.spec 10 1
  let pair := leAt p.spec 11 1
  let n := leAt p.spec 8 2
  let parts : List (List Nat × List Byte) :=
    if bit flags 1 then indexedParts (fmtBytes (pairS pair)) n p.payload
    else (pieces 4096 n p.payload).map fun d => ([], d)
  (List.zip (List.range parts.length) parts).map fun x =>
    { tag := BitVec.ofNat 18 p.tag, dst := BitVec.ofNat 48 p.addr, rank := leAt p.spec 0 2 % 8192,
      round := BitVec.ofNat 16 (leAt p.spec 2 2), epoch := BitVec.ofNat 32 p.epoch, seg := leAt p.spec 4 4 + x.1,
      last := bit flags 3 && x.1 + 1 = parts.length, indexed := bit flags 1, pair := BitVec.ofNat 8 pair,
      indices := x.2.1.map fun i => BitVec.ofNat 32 i, data := x.2.2, peer := true, pier := none, ecc := .clean }

/-- Chunks of a packet at the base die, from chunk i on: the bitmap of the refused and the first status (R275, R326). -/
def State.chunksServe (s : State) : Nat → List ChunkReq → (Nat × Option Nat) × State
  | _, [] => ((0, none), s)
  | i, c :: r =>
    match s.chunkServe c with
    | (.refusedChunk, s) =>
      let ((m, f), s) := State.chunksServe s (i + 1) r
      ((m + 2 ^ i, f), s)
    | (.stale, s) => let ((m, _), s) := State.chunksServe s (i + 1) r; ((m, some 0x0304), s)
    | (.fault code, s) => let ((m, _), s) := State.chunksServe s (i + 1) r; ((m, some code), s)
    | (_, s) => State.chunksServe s (i + 1) r

/-- The elements of a plain CHUNK packet with the local address of each (R267, R270). -/
def plainElems (p : Packet) (wide : Bool) (l : List ChunkReq) : List (Nat × Nat) :=
  let pair := leAt p.spec 11 1
  let w := if wide then 8 else fmtBytes (pairD pair)
  let per := 4096 / fmtBytes (pairS pair)
  (l.map fun c =>
    let v := unpack (fmtWidth (pairS pair)) c.data
    (List.zip (List.range v.length) v).map fun x =>
      (p.addr + w * (if c.indexed then (c.indices.getD x.1 0).toNat else per * c.seg + x.1), x.2)).flatten

/-- CHUNK_PACKET (R267, R270, R275): ordered chunks go to their window, plain elements to the adders. -/
def execChunkPacket (k : Die) (s : State) : Host.Outcome State Fault Refusal :=
  .next (match s.inboxFirst k 3 with
    | none => s
    | some p =>
      let s := s.inboxTake k p
      let flags := leAt p.spec 10 1
      let pair := leAt p.spec 11 1
      let l := packetChunks p
      if bit flags 0 then
        match s.chunksServe 0 l with
        | ((_, some code), s) => s.nack k p code
        | ((0, none), s) => s.answer k p 0x81 0 []
        | ((m, none), s) => s.answer k p 0x83 0 (toBytes m 64)
      else if !pairOk (pairS pair) (pairD pair) (bit flags 2) false then (s.pairError p.addr).nack k p 0x0330
      else match s.plainAll p.tag true .clean (pairS pair) (pairD pair) (bit flags 2) (atomGroups (plainElems p (bit flags 2) l)) with
        | (some f, s) => s.nack k p f.code
        | (none, s) => s.answer k p 0x81 0 [])

/-! ## COLL (R333, R338) -/

/-- COLL (R333, R334, R338): the chunks reach the engine of their descriptor. A request of another epoch is dropped and
answered as stale, and one of a round that is neither ROUND nor ROUND + 1 as a mismatch: R326 answers a dropped request
with the destination's status, and the spec names none for these (DESIGN CHOICE, log entry 138). -/
def execColl (k : Die) (s : State) : Host.Outcome State Fault Refusal :=
  .next (match s.inboxFirst k 4 with
    | none => s
    | some p =>
      let s := s.inboxTake k p
      let d := leAt p.spec 10 1
      let x := s.coll d
      let n := leAt p.spec 8 2
      let round := leAt p.spec 2 2
      let refuseAll (s : State) : State :=
        (s.bump (swOff (d % 4) + 0x3C) n).answer k p 0x83 0 (toBytes (2 ^ n - 1) 64)
      if x.state ≠ .opn ∨ x.tag ≠ p.tag then refuseAll s
      else if p.epoch ≠ x.epoch then (s.swStale k).nack k p 0x0304
      else if round = (x.round + 1) % 2 ^ 16 then refuseAll s
      else if round ≠ x.round then s.nack k p 0x0431
      else
        let size := if x.op = 0 then x.outBytes 4096 else 4096
        let parts := pieces size n p.payload
        let seg := leAt p.spec 4 4
        let rank := leAt p.spec 0 2 % 8192
        match s.collChunks d (leAt p.spec 11 1) rank 0 seg parts with
        | (0, s) => s.answer k p 0x81 0 []
        | (m, s) => s.answer k p 0x83 0 (toBytes m 64))

/-! ## MSG (R307, R413, R449) -/

/-- MCODEs that the host port of a landing module serves (R449). -/
def bayCode (m : Nat) : Bool := (1 ≤ m && m ≤ 4) || m = 0x0700

/-- MSG (R307): answered ACK and left to the owner of its MCODE; a held landing module, and one whose host port is
out of service, answer NACK 0x0709 (R413, R449, R470). -/
def execMsg (k : Die) (s : State) : Host.Outcome State Fault Refusal :=
  .next (match s.inboxFirst k 5 with
    | none => s
    | some p =>
      let s := s.inboxTake k p
      let m := leAt p.spec 0 2
      if bayCode m && (s.ks.phase = .held || (m = 0x0700 && !s.hp.up)) then s.nack k p 0x0709
      else
        let s := s.updDie k fun x => { x with msgs := x.msgs ++ [p] }
        if m = 0x0700 then s else s.answer k p 0x81 0 [])

/-- The first message of an MCODE that waits for its owner at die k. -/
def State.msgFirst (s : State) (k mcode : Nat) : Option Packet :=
  (s.die k).msgs.find? fun p => leAt p.spec 0 2 = mcode

/-- Take a message from its die. -/
def State.msgTake (s : State) (k : Nat) (p : Packet) : State :=
  s.updDie k fun x => { x with msgs := x.msgs.erase p }

/-! ## Answers (R325 to R327, R556) -/

/-- A far request of an engine's transfer has ended. -/
def State.xferAnswered (s : State) (p te id txid : Nat) : State :=
  s.updXfer p te id fun t => { t with waiting := t.waiting.erase txid }

/-- A far write of the running reshard job of die k has ended: its rows are done, or the job keeps the piece and the
status of the first that failed (R375, R377). The request's off is its piece * 2^32 + the rows it holds. -/
def State.jobAnswered (s : State) (k : Nat) (r : FarReq) (status : Option Nat) : State :=
  let ended (j : ReshardJob) : ReshardJob :=
    if !j.waiting.contains r.txid then j
    else match status with
      | some c => { j with waiting := j.waiting.erase r.txid, failed := some (j.failed.getD (r.off / 2 ^ 32, c)),
                                  bad := r.off / 2 ^ 32 :: j.bad }
      | none => { j with waiting := j.waiting.erase r.txid, rowsDone := j.rowsDone + r.off % 2 ^ 32 }
  let s := if status = none then s.add64 (rshOff k + 0x30) r.len else s
  s.updDie k fun x => { x with running := x.running.map ended }

/-- A bay access has been answered (R448). -/
def State.bayAnswered (s : State) (id : Nat) (d : List Byte) : State :=
  if s.hp.bayReads.contains id then
    ({ s with hp := { s.hp with bayReads := s.hp.bayReads.erase id } } : State).emit (.bayReply id d)
  else s

/-- A far piece of a HOST_COPY has ended: progress, and completion with the last (R325, R436, R437). -/
def State.copyAnswered (s : State) (m : Nat) (r : FarReq) (status : Option Nat) : State :=
  match s.takenCmd m 0x0310 with
  | none => s
  | some t =>
    if !t.todo.contains r.txid then s
    else
      let s := s.updMb m fun x => { x with taken := x.taken.map fun t => { t with todo := t.todo.erase r.txid } }
      match status with
      | some c => s.mbDone m c
      | none =>
        if t.todo.erase r.txid = [] && t.arg 24 1 = 0 then s.mbDoneAll m
        else s.mbProg m (max t.done (t.total - (t.todo.length - 1)))

/-- ACK (R325). -/
def execAck (k : Die) (s : State) : Host.Outcome State Fault Refusal :=
  .next (match s.inboxFirst k 0x81 with
    | none => s
    | some a =>
      let s := s.inboxTake k a
      match s.farFind a.txid with
      | none => s.swStale k
      | some (j, r) =>
        let s := s.farEnd j r.txid
        match r.unit with
        | .engine p te id => (s.xferAnswered p te id r.txid).settleXfer p te id
        | .coll d => (s.updColl d fun x => { x with sent := x.sent.erase r.txid }).collSettle d
        | .reshard q => s.jobAnswered q r none
        | .bay id => s.bayAnswered id []
        | .hostCopy m => s.copyAnswered m r none
        | .feeder _ _ => s
        | .refetch _ _ _ => s
        | .keystone => s)

/-- Data for a transfer engine: a list or source that it reads first, a piece to send on, or a piece of a row
written at RADDR (R325, R556). -/
def State.engineData (s : State) (p te id : Nat) (r : FarReq) (d : List Byte) : State :=
  match s.xfer p te id with
  | none => s
  | some t =>
    if t.fetch.any (fun f => f.txid = some r.txid) then
      let fill (f : FetchPiece) : FetchPiece := if f.txid = some r.txid then { f with data := some d } else f
      s.updXfer p te id fun t => { t with fetch := t.fetch.map fill }
    else
      let s := (s.xferAnswered p te id r.txid).rowBytesAt p te id r.off d
      if t.fault.isSome then s else match r.relay with
      | some (m, la, rtag) =>
        let (tx, s) := s.farSend (dieOf p) (writePkt m rtag r.stag la (teFlow p te) d) 0 (.engine p te id) none 0
        s.xferWait p te id tx
      | none =>
        match s.writeLa (s.xferClient p te id) r.raddr r.stag false 0 (atomsOf d.length) d with
        | (some f, s) => s.xferFault p te id f
        | (none, s) => s

/-- RDATA (R325). -/
def execRdata (k : Die) (s : State) : Host.Outcome State Fault Refusal :=
  .next (match s.inboxFirst k 0x82 with
    | none => s
    | some a =>
      let s := s.inboxTake k a
      match s.farFind a.txid with
      | none => s.swStale k
      | some (j, r) =>
        let s := s.farEnd j r.txid
        let d := sliceBytes a.payload 0 r.len
        match r.unit with
        | .engine p te id => (s.engineData p te id r d).settleXfer p te id
        | .feeder p n => s.farTile p n r.txid d
        | .refetch p te id => s.refetchAnswer p te id r.txid (some d)
        | .bay id => s.bayAnswered id d
        | .reshard q => s.jobAnswered q r none
        | .hostCopy m => (s.hostWrite (((s.takenCmd m 0x0310).map fun t => t.arg 0 8).getD 0 + r.off) d).copyAnswered m r none
        | .coll _ => s
        | .keystone => s)

/-- A partial or a result that was not accepted is kept, to be sent again (R333, R337); one that its round has discarded
is not (R338). That a partial answered NACK or not at all is kept as a refused one is DEDUCED (log entry 137). -/
def State.collKeep (s : State) (d : Nat) (r : FarReq) : State :=
  if (s.coll d).sent.contains r.txid then
    s.updColl d fun x => { x with sent := x.sent.erase r.txid, refused := x.refused ++ [r.packet] }
  else s

/-- REFUSED (R275, R325, R333): the marked chunks are kept to be sent again, the rest is answered. -/
def execRefused (k : Die) (s : State) : Host.Outcome State Fault Refusal :=
  .next (match s.inboxFirst k 0x83 with
    | none => s
    | some a =>
      let s := s.inboxTake k a
      match s.farFind a.txid with
      | none => s.swStale k
      | some (j, r) =>
        let s := s.farEnd j r.txid
        let bits := ofBytes (a.payload.take 64)
        match r.unit with
        | .engine p te id =>
          let l := packetChunks r.packet
          let again := ((List.zip (List.range l.length) l).filter fun x => bit bits x.1).map fun x =>
            ({ req := x.2, remote := some (r.dst, r.tag), coll := none } : PendingChunk)
          ((s.xferAnswered p te id r.txid).updXfer p te id fun t =>
            if t.fault.isSome then t else { t with refused := t.refused ++ again }).settleXfer p te id
        | .coll d => s.collKeep d r
        | .feeder _ _ => s
        | .refetch _ _ _ => s
        | .reshard _ => s
        | .hostCopy _ => s
        | .bay _ => s
        | .keystone => s)

/-- A far request of a unit fails with a status (R326, R327). `tell` is false where the tag is not current. -/
def State.unitFails (s : State) (r : FarReq) (code : Nat) : State :=
  match r.unit with
  | .engine p te id =>
    let s := s.xferAnswered p te id r.txid
    let s := if r.stag = (s.pier p).tag then
        (match s.xfer p te id with
         | some t =>
           if code = 0x0320 && t.toColl && t.fetch.any (fun f => f.txid = some r.txid && !f.idx) then
             -- an element of a contribution that a peer could not read (R337)
             let (d, s) := s.freeBytes r.len
             let fill (f : FetchPiece) : FetchPiece := if f.txid = some r.txid then { f with data := some d } else f
             s.updXfer p te id fun t => { t with fetch := t.fetch.map fill,
                                                 unread := some (t.unread.getD (0, r.addr)) }
           else if code = 0x0541 && opc t.entry.n0 = 0x54 && gVchk t.entry then
             s.shardFault p te id code (s.shardDetail t 0)
           else s.xferFault p te id ⟨code, 0, r.addr⟩
         | none => s)
      else s
    s.settleXfer p te id
  | .feeder p a =>
    if r.stag ≠ (s.pier p).tag then s
    else match ((s.pier p).asking a).find? fun e => e.farAsked = some r.txid with
      | some e => ((s.noteVersion code).failPass p a e.no ⟨code, 0, r.addr⟩).setBits (shardBits code)
      | none => s
  | .refetch p te id => s.refetchAnswer p te id r.txid none
  | .coll d => s.collKeep d r
  | .reshard q => s.jobAnswered q r (some code)
  | .hostCopy m => s.copyAnswered m r (some code)
  | .bay id => (s.orReg (hpOff + 4) 0x20).bayAnswered id (List.replicate r.len 255)
  | .keystone =>
    let mcode := leAt r.packet.spec 0 2
    if mcode = 4 ∧ s.role = 2 then
      -- a member's host-memory read that its landing module refuses or leaves unanswered fails (R437, R449)
      let m := leAt r.packet.payload 0 2
      match (s.mb m).taken with
      | some t => if t.waits || t.ask.isNone || t.data.isSome then s else (s.orReg (hpOff + 4) 0x10).mbDone m 0x050A
      | none => s
    else if code = 0x0709 ∧ mcode = 0x0700 then
      s.updKs fun x => { x with heldMsgs := x.heldMsgs ++ [(r.packet.flow % 4, r.packet)] }
    else s

/-- NACK (R326). -/
def execNack (k : Die) (s : State) : Host.Outcome State Fault Refusal :=
  .next (match s.inboxFirst k 0x84 with
    | none => s
    | some a =>
      let s := s.inboxTake k a
      match s.farFind a.txid with
      | none => s.swStale k
      | some (j, r) =>
        let s := s.farEnd j r.txid
        let s := if a.status = 0x0421 ∧ a.src ≠ s.moduleId then s.bump (swOff j + 0x30) 1 else s
        s.unitFails r a.status)

/-- FAR_TIMEOUT (R327). -/
def execFarTimeout (k : Die) (txid : Word32) (s : State) : Host.Outcome State Fault Refusal :=
  .next (match (s.die k).far.find? fun r => r.txid = txid.toNat with
    | none => s
    | some r =>
      let s := (((s.farEnd k r.txid).bump (swOff k + 0x2C) 1).orReg (swOff k + 0xC) 8).record 6 k 0x0420 true
        (some r.stag) (detail [(r.dst, 2), (0, 2), (r.txid, 4), (r.addr, 6)])
      s.unitFails r 0x0420)

end Sys2Proof.Machine
end

