-- ==== Sys2Proof/Machine/Reshard.lean ====
section
/-! DEFINITION. Reshard jobs: submission, pieces, completion and abandonment (R369 to R377, R384, R385). -/
namespace Sys2Proof.Machine
open Sys2Proof

/-! ## The header and the pieces (R369, R370) -/

/-- TAG of a job header. -/
def jobTag (h : List Byte) : Nat := leAt h 0 3 % 2 ^ 18
/-- CVT. -/
def jobCvt (h : List Byte) : Bool := bit (leAt h 3 1) 0
/-- SFMT. -/
def jobSrc (h : List Byte) : Nat := pairS (leAt h 6 1)
/-- DFMT. -/
def jobDst (h : List Byte) : Nat := pairD (leAt h 6 1)
/-- SDESC. -/
def jobScale (h : List Byte) : Nat := leAt h 7 1
/-- TT. -/
def jobTT (h : List Byte) : Nat := leAt h 10 1

/-- A piece of a job (R370). -/
structure Piece where
  src : Nat
  srcPitch : Nat
  rows : Nat
  cols : Nat
  dmod : Nat
  dtag : Nat
  daddr : Nat
  dstPitch : Nat
  scl : Nat
  sclPitch : Nat
deriving DecidableEq, Repr

/-- Read a piece. -/
def parsePiece (d : List Byte) : Piece :=
  { src := leAt d 0 6, srcPitch := leAt d 8 4, rows := leAt d 12 4, cols := leAt d 16 4, dmod := leAt d 20 2 % 8192,
    dtag := leAt d 22 3 % 2 ^ 18, daddr := leAt d 26 6, dstPitch := leAt d 32 4, scl := leAt d 36 6,
    sclPitch := leAt d 42 4 }

/-- The reserved fields of a piece are zero. -/
def pieceClean (d : List Byte) : Bool :=
  leAt d 6 2 = 0 && leAt d 20 2 / 8192 = 0 && leAt d 22 3 / 2 ^ 18 = 0 && leAt d 25 1 = 0 && leAt d 46 18 = 0

/-- The reserved fields of a header are zero. -/
def headerClean (h : List Byte) : Bool :=
  leAt h 0 3 / 2 ^ 18 = 0 && leAt h 3 1 / 8 = 0 && leAt h 11 1 = 0 && leAt h 28 1 / 16 = 0 && leAt h 29 1 / 64 = 0 &&
    leAt h 32 32 = 0

/-! ## Submission (R371, R384) -/

/-- A local page is OWNED by a tag and mapped with RD under it (R371). -/
def State.sourceOk (s : State) (tag la : Nat) : Bool :=
  let w := s.owner (pageOf la)
  fld w 18 3 = 1 && fld w 0 18 = tag &&
    s.xlate.any fun e => bit e.2.toNat 0 && bit e.2.toNat 1 && decide (fld e.2.toNat 4 2 < 2) &&
      fld e.2.toNat 8 18 = tag && fld e.2.toNat 32 27 = pageOf la

/-- Bytes of a source row. -/
def Piece.rowLen (x : Piece) (fmt : Nat) : Nat := rowBytes fmt x.cols

/-- Every source page of a piece may be read. -/
def State.pieceSource (s : State) (tag fmt : Nat) (x : Piece) : Bool :=
  (List.range x.rows).all fun r =>
    let a := x.src + r * x.srcPitch
    (List.range ((a % 2 ^ 21 + x.rowLen fmt + 2 ^ 21 - 1) / 2 ^ 21)).all fun i =>
      s.sourceOk tag ((a / 2 ^ 21 + i) * 2 ^ 21)

/-- A row of this many elements of a format fills whole bytes and FP6 groups (R76). -/
def rowWhole (fmt cols : Nat) : Bool :=
  if fmtWidth fmt = 4 then cols % 2 = 0 else if fmtWidth fmt = 6 then cols % 4 = 0 else true

/-- The header breaks R371. -/
def State.headerRejects (s : State) (h : List Byte) : Bool :=
  let cvt := jobCvt h
  let sf := jobSrc h
  let df := jobDst h
  let sd := jobScale h
  let conv := leAt h 8 2
  let tt := jobTT h
  !headerClean h || !decide (1 ≤ leAt h 4 2 ∧ leAt h 4 2 ≤ 4096) || !fmtOk sf || !fmtOk df ||
  (!cvt && sf ≠ df) || (cvt && !([5, 6, 7, 3, 4].contains sf)) ||
  (cvt && fld conv 0 4 ≠ df) || (convCheck conv 7).isSome || fld conv 4 3 = 4 ||
  (sd ≠ 0 && (!cvt || 5 ≤ df || bit sd 3 || fld sd 0 3 = 0 || fld sd 0 3 = 7 || fld sd 5 3 ≠ 0)) ||
  !(tt = 0 || (4 ≤ tt && tt ≤ 8)) ||
  (tt ≠ 0 && (fmtWidth sf < 8 || fmtWidth df < 8)) ||
  (tt ≠ 0 && sd ≠ 0 && 2 ^ tt < scaleBlock sd) ||
  leAt h 12 4 ≠ (s.reg (swOff 0 + 8)).toNat

/-- A piece breaks R371 under a header. -/
def State.pieceRejects (s : State) (h d : List Byte) : Bool :=
  let x := parsePiece d
  let tt := jobTT h
  !pieceClean d || !decide (1 ≤ x.rows ∧ x.rows ≤ 2 ^ 24 ∧ 1 ≤ x.cols ∧ x.cols ≤ 2 ^ 24) ||
  (tt ≠ 0 && (x.rows % 2 ^ tt ≠ 0 || x.cols % 2 ^ tt ≠ 0)) ||
  !rowWhole (jobSrc h) x.cols || !rowWhole (jobDst h) x.cols || !s.pieceSource (jobTag h) (jobSrc h) x

/-- Read n bytes of a job's structures at a local address, under the job's own tag. -/
def State.jobRead (s : State) (tag la n : Nat) : Except MemFault (List Byte) × State := s.readLa la tag 0 (atomsOf n) n

/-- The pieces of a job, if its list can be read. -/
def State.jobPieces (s : State) (h : List Byte) : Option (List (List Byte)) × State :=
  let n := leAt h 4 2
  match s.jobRead (jobTag h) (leAt h 16 6) (64 * n) with
  | (.ok d, s) => (some (pieces 64 n d), s)
  | (.error _, s) => (none, s)

/-- The job that a header at a local address describes, after every check of R371. -/
def State.jobCheck (s : State) (addr : Nat) : Option (List Byte) × State :=
  let h := Memory.readList s.mem addr 64
  if addr % 64 ≠ 0 || s.headerRejects h then (none, s)
  else match s.jobRead (jobTag h) addr 64 with
    | (.error _, s) => (none, s)
    | (.ok _, s) =>
      match s.jobPieces h with
      | (none, s) => (none, s)
      | (some l, s) => if l.any (s.pieceRejects h) then (none, s) else (some h, s)

/-- A rejected submission is recorded (R384). -/
def State.jobReject (s : State) (k : Nat) : State :=
  (s.orReg (rshOff k + 8) 1).record 7 k 0x0545 true none (taskDetail 0 0 0 0 0 0)

/-- Submit a job to engine k, waiting in a mailbox or not: its status now, if it is not queued (R371, R384). -/
def State.submitJob (s : State) (k addr : Nat) (mb : Option Nat) : Option Nat × State :=
  if 8 ≤ (s.die k).jobs.length then (some 0x0545, s.jobReject k)
  else match s.jobCheck addr with
    | (none, s) => (some 0x0545, s.jobReject k)
    | (some h, s) =>
      let j : ReshardJob := { addr := addr, header := h, mb := mb, waiting := [], rowsDone := 0, rowsTotal := 0,
                              pieces := 0, report := ConvReport.reset, failed := none, bad := [] }
      (none, s.updDie k fun x => { x with jobs := x.jobs ++ [j] })

/-- RSH_SUBMIT_ADDR (R371, R384). -/
def execRshSubmitAddr (k : Die) (addr : BitVec 48) (s : State) : Host.Outcome State Fault Refusal :=
  .next (s.submitJob k addr.toNat none).2

/-! ## Running the pieces (R372 to R374) -/

/-- One source row converted: its elements in DFMT, its scale bytes, and its report (R373). -/
def jobRow (h : List Byte) (src : List Nat) : List Nat × List Byte × ConvReport :=
  let c := convOf (leAt h 8 2) 0
  let wide := src.map fun w => widen (jobSrc h) 7 w
  if !jobCvt h then (src, [], ConvReport.reset)
  else if jobScale h = 0 then
    let r := wide.map fun w => convert c (elemVal 7 w) w 0
    (r.map fun x => x.bits, [], ConvReport.all (r.map fun x => x.rep))
  else
    let q := (pieces (scaleBlock (jobScale h)) wide.length wide).map (quantBlock c (b2n (bit (jobScale h) 4)))
    let r := (q.map (·.2)).flatten
    (r.map fun x => x.bits, q.map fun x => BitVec.ofNat 8 x.1, ConvReport.all (r.map fun x => x.rep))

/-- The source rows r, …, r + n - 1 of a piece, converted. -/
def State.jobRows (s : State) (h : List Byte) (x : Piece) :
    Nat → Nat → Except MemFault (List (List Nat × List Byte × ConvReport)) × State
  | _, 0 => (.ok [], s)
  | r, n + 1 =>
    match s.jobRead (jobTag h) (x.src + r * x.srcPitch) (x.rowLen (jobSrc h)) with
    | (.error f, s) => (.error f, s)
    | (.ok d, s) =>
      match State.jobRows s h x (r + 1) n with
      | (.error f, s) => (.error f, s)
      | (.ok l, s) => (.ok (jobRow h ((unpack (fmtWidth (jobSrc h)) d).take x.cols) :: l), s)

/-- The destination rows: as the source's, or transposed within tiles of T = 2^TT (R372). -/
def destRows (tt : Nat) (rows cols : Nat) (m : List (List Nat)) : List (List Nat) :=
  if tt = 0 then m
  else
    let t := 2 ^ tt
    (List.range rows).map fun R => (List.range cols).map fun C =>
      (m.getD (t * (R / t) + C % t) []).getD (t * (C / t) + R % t) 0

/-- The runs of bytes of a piece's elements: address, bytes, rows. -/
def Piece.elemRuns (x : Piece) (h : List Byte) (m : List (List Nat)) : List (Nat × List Byte × Nat) :=
  (List.zip (List.range x.rows) (destRows (jobTT h) x.rows x.cols m)).map fun y =>
    (x.daddr + y.1 * x.dstPitch, pack (fmtWidth (jobDst h)) y.2, 1)

/-- The runs of bytes of a piece's scales: lines of source rows, or of blocks under a transpose (R373). -/
def Piece.scaleRuns (x : Piece) (h : List Byte) (l : List (List Byte)) : List (Nat × List Byte × Nat) :=
  let lines := if jobTT h = 0 then l
    else (List.range (cdiv x.cols (scaleBlock (jobScale h)))).map fun j => l.map fun b => b.getD j 0
  if jobScale h = 0 then []
  else (List.zip (List.range lines.length) lines).map fun y => (x.scl + y.1 * x.sclPitch, y.2, 0)

/-- Consecutive rows, or lines of scales, whose bytes are contiguous share one packet within a page (R374). -/
def joinRuns : List (Nat × List Byte × Nat) → List (Nat × List Byte × Nat)
  | [] => []
  | (a, d, n) :: r =>
    match joinRuns r with
    | [] => [(a, d, n)]
    | (b, e, m) :: t =>
      if b = a + d.length ∧ a / 2 ^ 21 = (b + e.length - 1) / 2 ^ 21 then (a, d ++ e, n + m) :: t
      else (a, d, n) :: (b, e, m) :: t

/-- A run that crosses a page goes in two packets; the rows count with the last. -/
def splitRun (x : Nat × List Byte × Nat) : List (Nat × List Byte × Nat) :=
  let room := 2 ^ 21 - x.1 % 2 ^ 21
  if x.2.1.length ≤ room then [x]
  else (x.1, x.2.1.take room, 0) ::
    (List.zip (List.range (cdiv (x.2.1.length - room) (2 ^ 21))) (pieces (2 ^ 21) x.2.1.length (x.2.1.drop room))).map
      fun y => (x.1 + room + 2 ^ 21 * y.1, y.2, if room + 2 ^ 21 * (y.1 + 1) < x.2.1.length then 0 else x.2.2)

/-- Change the running job of die k. -/
def State.updJob (s : State) (k : Nat) (f : ReshardJob → ReshardJob) : State :=
  s.updDie k fun x => { x with running := x.running.map f }

/-- The job keeps its first failing piece and status. -/
def State.jobFail (s : State) (k i code : Nat) : State :=
  s.updJob k fun j => { j with failed := some (j.failed.getD (i, code)), bad := i :: j.bad }

/-- Send one run of a piece: written here, or as a WRITE packet (R370, R374). -/
def State.jobSend (s : State) (k i : Nat) (h : List Byte) (x : Piece) (run : Nat × List Byte × Nat) : State :=
  let (a, d, n) := run
  if d = [] then s
  else if x.dmod = s.moduleId then
    match s.writeLa none a x.dtag false 0 (atomsOf d.length) d with
    | (some f, s) => s.jobFail k i f.code
    | (none, s) => (s.add64 (rshOff k + 0x30) d.length).updJob k fun j => { j with rowsDone := j.rowsDone + n }
  else
    let (tx, s) := s.farSend k (writePkt x.dmod x.dtag (jobTag h) a (0x34 + k) d) 0 (.reshard k) none (i * 2 ^ 32 + n)
    s.updJob k fun j => { j with waiting := j.waiting ++ [tx] }

/-- Run piece i of a job. -/
def State.runPiece (s : State) (k i : Nat) (h : List Byte) (x : Piece) : State :=
  let s := s.updJob k fun j => { j with pieces := i + 1, rowsTotal := j.rowsTotal + x.rows }
  match s.jobRows h x 0 x.rows with
  | (.error f, s) => s.jobFail k i f.code
  | (.ok l, s) =>
    let s := s.add64 (rshOff k + 0x28) (x.rows * x.rowLen (jobSrc h))
    let rep := ConvReport.all (l.map fun y => y.2.2)
    let s := s.updJob k fun j => { j with report := j.report.join rep }
    let packets (runs : List (Nat × List Byte × Nat)) := joinRuns ((runs.map splitRun).flatten)
    (packets (x.elemRuns h (l.map fun y => y.1)) ++ packets (x.scaleRuns h (l.map fun y => y.2.1))).foldl
      (fun s y => s.jobSend k i h x y) s

/-- RESHARD_JOB_START: the next queued job starts and streams its pieces (R374, R384). -/
def execReshardJobStart (k : Die) (s : State) : Host.Outcome State Fault Refusal :=
  .next (match (s.die k).running, (s.die k).jobs with
    | none, j :: rest =>
      if !bit (s.reg (rshOff k)).toNat 0 then s
      else
        let s := s.updDie k fun x => { x with jobs := rest, running := some j }
        match s.jobPieces j.header with
        | (none, s) => s.jobFail k 0 0x0304
        | (some l, s) =>
          (List.zip (List.range l.length) l).foldl (fun s y => s.runPiece k y.1 j.header (parsePiece y.2)) s
    | _, _ => s)

/-! ## Completion and abandonment (R375 to R377) -/

/-- Pieces of the running job that no outstanding write still holds up. -/
def State.piecesDone (s : State) (k : Nat) (j : ReshardJob) : Nat :=
  let open_ := (s.die k).far.filter fun r => j.waiting.contains r.txid
  j.pieces - ((open_.map fun r => r.off / 2 ^ 32).dedup).length

/-- Detail of 0x0546 to 0x0548. -/
def jobDetail (k done failing status : Nat) : List Byte :=
  detail [(k, 1), (0, 1), (done, 2), (failing, 2), (status, 2)]

/-- The position and progress registers keep what the job that ended has reached (R377, R436). -/
def State.jobEnd (s : State) (k : Nat) (j : ReshardJob) : State :=
  ((s.setReg (rshOff k + 0x18) (BitVec.ofNat 32 j.bp)).setReg (rshOff k + 0x20) (BitVec.ofNat 32 j.rowsDone)).setReg
    (rshOff k + 0x24) (BitVec.ofNat 32 j.rowsTotal)

/-- A RESHARD command that waits for a job completes (R437). -/
def State.jobReply (s : State) (j : ReshardJob) (status : Nat) : State :=
  match j.mb with
  | some m => match s.takenCmd m 0x050B with
    | some t => if t.waits then (s.mbResult m 0 j.report.trailer).mbDone m status else s
    | none => s
  | none => s

/-- RESHARD_JOB_COMPLETE: every write of the running job has been answered (R375). -/
def execReshardJobComplete (k : Die) (s : State) : Host.Outcome State Fault Refusal :=
  .next (match (s.die k).running with
    | none => s
    | some j =>
      if j.waiting ≠ [] then s
      else
        let h := j.header
        let s := (s.writeLa none (leAt h 22 6) (jobTag h) false 0 (atomsOf 16) j.report.trailer).2
        let s := s.addReport (rshOff k + 0x38) (rshOff k + 0x3C) (rshOff k + 0x40) j.report
        let s := ((s.bump (rshOff k + 0x44) 1).jobEnd k j).updDie k fun x => { x with running := none }
        match j.failed with
        | some (i, c) =>
          ((s.orReg (rshOff k + 8) 2).record 7 k 0x0548 true (some (jobTag h)) (jobDetail k (j.pieces - j.bad.dedup.length) i c)).jobReply j 0x0548
        | none =>
          let s := if bit (leAt h 3 1) 2 then
              s.tcSend (32 + k) (leAt h 28 1) (jobTag h) (leAt h 29 1) (sext (leAt h 30 2) 16) else s
          let s := if bit (leAt h 3 1) 1 then s.record 7 k 0x0546 false (some (jobTag h)) (jobDetail k j.pieces 0 0) else s
          s.jobReply j 0)

/-- The bytes of a piece's destination in this module hold an unstated mix of old and new contents (R376). -/
def State.jobMix (s : State) (h : List Byte) (x : Piece) : State :=
  if x.dmod ≠ s.moduleId then s
  else
    let n := rowBytes (jobDst h) x.cols
    (List.range x.rows).foldl (fun s r =>
      let (l, s) := s.frees n
      { s with mem := Memory.writeList s.mem (x.daddr + r * x.dstPitch) (l.map fun v => BitVec.ofNat 8 v) }) s

/-- Abandon one job (R376); a running one leaves its local destinations mixed. -/
def State.dropJob (s : State) (k : Nat) (j : ReshardJob) (runs : Bool) : State :=
  let done := if runs then s.piecesDone k j else 0
  let s := if runs then (match s.jobPieces j.header with
      | (some l, s) => l.foldl (fun s d => s.jobMix j.header (parsePiece d)) s
      | (none, s) => s)
    else s
  let s := (s.bump (rshOff k + 0x48) 1).record 7 k 0x0547 false (some (jobTag j.header)) (jobDetail k done 0 0)
  s.jobReply j 0x0547

/-- Abandon the jobs of engine k that a test picks (R376). -/
def State.abandonJobs (s : State) (k : Nat) (pick : ReshardJob → Bool) : State :=
  let run := (s.die k).running.filter pick
  let queued := (s.die k).jobs.filter pick
  let s := match run with
    | some j => ((s.dropJob k j true).jobEnd k j).updDie k fun x => { x with running := none }
    | none => s
  queued.foldl (fun s j => s.dropJob k j false) (s.updDie k fun x => { x with jobs := x.jobs.filter fun j => !pick j })

/-- RSH_CTRL.EN (R384). -/
def execRshCtrlEn (k : Die) (v : Bool) (s : State) : Host.Outcome State Fault Refusal :=
  .next (s.setRfld (rshOff k) 0 1 (b2n v))

/-- RSH_CTRL.ABORT (R376, R384). -/
def execRshCtrlAbort (k : Die) (s : State) : Host.Outcome State Fault Refusal :=
  .next (s.abandonJobs k fun _ => true)

/-- RSH_CTRL.CNT_CLR: the counters at 0x38 to 0x5C (R384). -/
def execRshCtrlCntClr (k : Die) (s : State) : Host.Outcome State Fault Refusal :=
  .next (s.clearRegs (rshOff k + 0x38) 10)

end Sys2Proof.Machine
end

