-- ==== Sys2Proof/Machine/TrussOps.lean ====
section
/-! DEFINITION. Truss messages and changes: neighbours, flooding, the quorum and the record's image (R487, R490 to
R496). -/
namespace Sys2Proof.Machine
open Sys2Proof

/-- Links that are UP to a module. -/
def State.linksTo (s : State) (m : Nat) : List Nat :=
  (List.range 24).filter fun l => (s.link l).phase = .up && (s.link l).peerValid && (s.link l).peerModule = m

/-- The module's neighbours (R487). -/
def State.neighbours (s : State) : List Nat :=
  (s.ks.truss.near.map (·.1)).filter fun m => (s.linksTo m) ≠ []

/-- The Truss agent sends changes: it is a member, on probation or joining. -/
def Truss.member (t : Truss) : Bool := t.state = 0 || t.state = 1 || t.state = 4

/-- A neighbour list as JOIN and LINK carry it (R490): a count, then identifiers. -/
def neighbourBody (l : List Nat) : List Byte :=
  toBytes (min l.length 18) 1 ++ ((l.take 18).map fun m => toBytes m 2).flatten

/-- The identifiers of such a list. -/
def bodyNeighbours (b : List Byte) : List Nat := (List.range (leAt b 0 1)).map fun i => leAt b (1 + 2 * i) 2

/-- The 64-byte payload of a Truss message (R490). -/
def Change.bytes (c : Change) : List Byte :=
  toBytes c.kind 1 ++ [0] ++ toBytes (c.origin % 8192) 2 ++ toBytes (c.subject % 8192) 2 ++ [0, 0] ++ toBytes c.stamp 8 ++
    toBytes c.epoch 8 ++ toBytes c.score 2 ++ sliceBytes c.body 0 38

/-- Read a Truss message. -/
def parseChange (d : List Byte) : Change :=
  { kind := leAt d 0 1, origin := leAt d 2 2 % 8192, subject := leAt d 4 2 % 8192, stamp := leAt d 8 8,
    epoch := leAt d 16 8, score := leAt d 24 2, body := sliceBytes d 26 38 }

/-- Two messages are the same one (R490). -/
def Change.same (a b : Change) : Bool :=
  a.origin = b.origin && a.kind = b.kind && a.subject = b.subject && a.stamp = b.stamp

/-- Send a message to each neighbour but one, on a link that is UP to it (R490). -/
def State.flood (s : State) (c : Change) (from_ : Option Nat) : State :=
  (s.neighbours.filter fun m => some m ≠ from_).foldl (fun s m =>
    match s.linksTo m with
    | l :: _ => s.sendNear l m 0x0801 c.bytes
    | [] => s) s

/-! ## The quorum (R492) -/

/-- The origins of suspicions of n by recorded neighbours with stamps in the 256 µs up to t, distinct. -/
def suspectors (t : Truss) (n stamp : Nat) : List Nat :=
  ((t.suspects.filter fun c => c.subject = n && (t.record.neighbours.get [] n).contains c.origin &&
      t.record.members.contains c.origin && decide (c.stamp ≤ stamp ∧ stamp ≤ c.stamp + 256000)).map
    fun c => c.origin).dedup

/-- Tq: the earliest stamp that completes the count, if one does. -/
def quorumStamp (t : Truss) (n : Nat) : Option Nat :=
  let need := cdiv (t.record.neighbours.get [] n).length 2
  ((t.suspects.filter fun c => c.subject = n && decide (need ≤ (suspectors t n c.stamp).length)).map
    fun c => c.stamp).min?

/-- A change inside an installed window that was not installed with it (R497). -/
def Truss.late (t : Truss) (stamp : Nat) : Bool := t.wins.any fun w => decide (w ≤ stamp ∧ stamp < w + 100000)

/-- The module suspends itself on a late change (R497). -/
def State.lateChange (s : State) (origin : Nat) : State :=
  let s := s.record 0 0 0x0806 true none (detail [(s.ks.truss.record.epoch, 8), (origin, 2)])
  s.updKs fun k => { k with truss := { k.truss with state := 4 } }

/-- Record a change that waits for its window. -/
def State.pend (s : State) (c : Change) : State :=
  if s.ks.truss.late c.stamp then s.lateChange c.origin
  else s.updKs fun k => { k with truss := { k.truss with pending := k.truss.pending ++ [c] } }

/-- The pending REMOVE of n follows the quorum (R492). -/
def State.checkQuorum (s : State) (n : Nat) : State :=
  let t := s.ks.truss
  match quorumStamp t n with
  | none => s
  | some q =>
    if !t.record.members.contains n then s
    else if t.pending.any fun c => c.kind = 1 && c.subject = n && c.stamp = q then s
    else
      let s := s.updKs fun k => { k with truss := { k.truss with
        pending := k.truss.pending.filter fun c => !(c.kind = 1 && c.subject = n) } }
      s.pend { kind := 1, origin := n, subject := n, stamp := q, epoch := t.record.epoch, score := 0, body := [] }

/-- Take in a message once (R490, R491): suspicions count toward a quorum, changes wait for their window. -/
def State.takeChange (s : State) (c : Change) : State :=
  let s := s.updKs fun k => { k with truss := { k.truss with seen := c :: k.truss.seen } }
  if c.kind = 0 then
    (s.updKs fun k => { k with truss := { k.truss with suspects := k.truss.suspects ++ [c] } }).checkQuorum c.subject
  else if 2 ≤ c.kind ∧ c.kind ≤ 8 then s.pend c
  else s

/-- The module originates a message: it takes it in itself and floods it. -/
def State.originate (s : State) (kind subject : Nat) (body : List Byte) : Nat × State :=
  let (t, s) := s.stamp 0 0
  let c : Change := { kind := kind, origin := s.moduleId, subject := subject, stamp := t,
                      epoch := s.ks.truss.record.epoch, score := s.ks.insp.score, body := sliceBytes body 0 38 }
  (t, (s.takeChange c).flood c none)

/-- A link leaves service or comes UP between members: each end sends LINK (R488, R328). -/
def State.linkChange (s : State) (l : Nat) : State :=
  let t := s.ks.truss
  if t.member && t.record.members.contains (s.link l).peerModule then
    (s.originate 4 s.moduleId (neighbourBody s.neighbours)).2
  else s

/-! ## The record's image (R496) -/

/-- A bitmap of 8,192 bits. -/
def bitmapOf (l : List Nat) : List Byte := toBytes ((l.dedup.map fun m => 2 ^ m).sum) 1024
/-- The set bits of a bitmap of 8,192 bits. -/
def ofBitmap (d : List Byte) : List Nat := setBits (ofBytes (d.take 1024)) 8192

/-- A neighbour entry of 50 bytes. -/
def neighbourEntry (l : List Nat) : List Byte :=
  sliceBytes (toBytes l.length 1 ++ (l.map fun m => toBytes m 2).flatten) 0 50

/-- The record's host image (R496). -/
def TrussRecord.image (r : TrussRecord) : List Byte :=
  toBytes r.epoch 8 ++ toBytes r.notice 2 ++ toBytes r.thresh 2 ++ toBytes r.budget 1 ++ toBytes (b2n r.twin) 1 ++
  [0, 0] ++ toBytes r.inst 8 ++ List.replicate 8 0 ++ bitmapOf r.members ++ bitmapOf r.probation ++
  toBytes (r.earlier + r.removals.length) 8 ++
  sliceBytes (((r.removals.drop (r.removals.length - 255)).map fun t => toBytes t 8).flatten) 0 2040 ++
  ((List.range 8192).map fun m =>
    neighbourEntry (if r.members.contains m then r.neighbours.get [] m else [])).flatten

/-- A record read back from its image. -/
def parseRecord (d : List Byte) : TrussRecord :=
  let members := ofBitmap (d.drop 32)
  let n := leAt d 2080 8
  { epoch := leAt d 0 8, notice := leAt d 8 2, thresh := leAt d 10 2, budget := leAt d 12 1, twin := bit (leAt d 13 1) 0,
    inst := leAt d 16 8, members := members, probation := ofBitmap (d.drop 1056),
    removals := (List.range (min n 255)).map fun i => leAt d (2088 + 8 * i) 8, earlier := n - 255,
    neighbours := members.map fun m =>
      (m, (List.range (leAt d (4128 + 50 * m) 1)).map fun i => leAt d (4129 + 50 * m + 2 * i) 2) }

/-- The record's digest (R496). -/
def TrussRecord.digest (r : TrussRecord) : List Byte := shake256 r.image 64

end Sys2Proof.Machine
end

