-- ==== Sys2Proof/Machine/Links.lean ====
section
/-! DEFINITION. The link layer: training, slots, replay, the side channel, leaving service, header flits, and span time
(R292 to R305, R316, R328, R339 to R349). -/
namespace Sys2Proof.Machine
open Sys2Proof

/-! ## Training (R295 to R297) -/

/-- A trip of R546 holds. -/
def State.tripped (s : State) : Bool := bit (s.reg (mgtOff + 4)).toNat 0

/-- The module runs: neither in BOOT, HELD or RECOVERY nor tripped (R461, R546). -/
def State.isRunning (s : State) : Bool := s.ks.phase = .running && !s.tripped

/-- ZL_CTRL.EN. -/
def State.linkEn (s : State) (l : Nat) : Bool := bit (s.reg (zlOff l)).toNat 0
/-- ZL_ROLE.OFF. -/
def State.linkOff (s : State) (l : Nat) : Bool := bit (s.reg (zlOff l + 0xC)).toNat 5

/-- A link may train (R296, R297). -/
def State.mayTrain (s : State) (l : Nat) : Bool :=
  s.isRunning && s.linkEn l && !s.linkOff l && !(s.link l).roleBad

/-- Training progress in units: DONE, TOTAL and BP (R296, R346). -/
def State.linkProgress (s : State) (l done : Nat) : State :=
  s.setReg (zlOff l + 0x14) (BitVec.ofNat 32 (10000 * done / 20 + done * 2 ^ 16 + 20 * 2 ^ 21))

/-- Units done by a link. -/
def State.linkDone (s : State) (l : Nat) : Nat := s.rfld (zlOff l + 0x14) 16 5

/-- A link that does not train any more for a LINK_CTRL: UP, DOWN or FAILED (R437). -/
def LinkPhase.settled (p : LinkPhase) : Bool := p ≠ .training

/-- The LINK_CTRL that waits for link l reports its progress and completes when every link it names has settled. -/
def State.settleLinkCtrl (s : State) (l : Nat) : State :=
  match (s.link l).ctrlMb with
  | none => s
  | some m =>
    let mine := (List.range 24).filter fun i => (s.link i).ctrlMb = some m
    let old := ((s.mb m).taken.map fun t => t.done).getD 0
    let s := s.mbProg m (max old ((mine.map fun i => if (s.link i).phase.settled then 20 else s.linkDone i).sum))
    if mine.all fun i => (s.link i).phase.settled then
      (mine.foldl (fun s i => s.updLink i fun x => { x with ctrlMb := none }) s).mbDoneAll m
    else s

/-- A link starts to train from step 1 in its committed role, or stays DOWN where it may not (R296, R460). -/
def State.startTraining (s : State) (l : Nat) : State :=
  let go := s.mayTrain l
  let s := s.updLink l fun x =>
    { LinkState.reset with phase := if go then .training else .down, step := if go then 1 else 0, ctrlMb := x.ctrlMb,
                           roleBad := x.roleBad, role := (s.reg (zlOff l + 0xC)).toNat }
  -- entries of the old input buffer are no more: flits taken from it keep waiting at their outputs
  let loose (f : Flit) : Flit := if f.input = l then { f with held := false } else f
  let free (x : Nat × LinkState) : Nat × LinkState := (x.1, { x.2 with txq := x.2.txq.map loose })
  ({ s with links := s.links.map free } : State).linkProgress l 0

/-- Detail of 0x0401 to 0x0404 (R440). -/
def LinkState.detail (x : LinkState) (l cause : Nat) : List Byte :=
  Sys2Proof.Machine.detail [(l, 1), (x.step, 1), (x.peerModule, 2), (x.peerLink, 1), (cause, 1)]

/-- The role check (R297). -/
def State.roleOk (s : State) (l : Nat) (t : TrainInfo) : Bool :=
  let d := s.dim l
  (d ≤ 3 && d = t.dim.toNat && bit (s.link l).role 3 != t.sign) ||
  (d = 7 && t.dim.toNat = 7 && (s.moduleId ^^^ t.module.toNat) = 4096)

/-- Lanes that a mask holds. -/
def laneCount (m : BitVec 16) : Nat := ((List.range 16).map fun i => b2n (m.getLsbD i)).sum

/-- Step 1: some lanes have trained, a unit of progress each; with the last of the 16 the step is over (R295, R296). -/
def State.trainLanes (s : State) (l : Nat) (m : BitVec 16) : State :=
  let m := (s.link l).lanes ||| m
  ((s.updLink l fun x => { x with lanes := m, step := if laneCount m = 16 then 2 else 1 }).linkProgress l
    (laneCount m)).settleLinkCtrl l

/-- The TRAIN flits of step 3: module identifier, link number, ZL_ROLE and firmware version (R296). Which component's
version is meant, the spec does not say: it is the link firmware's (DESIGN CHOICE, log entry 140). -/
def State.sendTrain (s : State) (l : Nat) : State :=
  s.emit (.train l s.moduleId (s.link l).role (s.ks.fw.versions.get 0 2))

/-- LINK_TRAINING_STEP: lanes of step 1 train, or the later step under way completes (R296, R297). -/
def execLinkTrainingStep (l : Lnk) (t : TrainInfo) (s : State) : Host.Outcome State Fault Refusal :=
  let x := s.link l
  .next (
    if x.phase ≠ .training ∨ s.mayTrain l = false then s
    else match x.step with
      | 1 => s.trainLanes l t.lanes
      | 2 => (((s.updLink l fun x => { x with step := 3 }).sendTrain l).linkProgress l 17).settleLinkCtrl l
      | 3 =>
        let s := s.updLink l fun x =>
          { x with peerModule := t.module.toNat, peerLink := t.link.toNat, peerValid := true,
                   peerFw := t.firmware.toNat }
        if s.roleOk l t then ((s.updLink l fun x => { x with step := 4 }).linkProgress l 18).settleLinkCtrl l
        else
          let s := (s.orReg (zlOff l + 8) 2).record 5 l 0x0404 true none ((s.link l).detail l 0)
          (s.updLink l fun x => { x with phase := .down, roleBad := true }).settleLinkCtrl l
      | 4 => ((s.updLink l fun x => { x with step := 5 }).linkProgress l 19).settleLinkCtrl l
      | _ =>
        let s := (s.updLink l fun x => { x with phase := .up }).linkProgress l 20
        let s := s.record 5 l 0x0401 false none ((s.link l).detail l 0)
        (s.linkChange l).settleLinkCtrl l)

/-- TRAINING_TIMEOUT: a step passed its limit (R296). -/
def execTrainingTimeout (l : Lnk) (s : State) : Host.Outcome State Fault Refusal :=
  .next (
    if (s.link l).phase ≠ .training then s
    else
      let s := (s.orReg (zlOff l + 8) 1).record 5 l 0x0403 true none ((s.link l).detail l 0)
      (s.updLink l fun x => { x with phase := .failed }).settleLinkCtrl l)

/-- TRAINING_RETRY: 1 s after a failure the link trains again from step 1 (R296). -/
def execTrainingRetry (l : Lnk) (s : State) : Host.Outcome State Fault Refusal :=
  .next (if (s.link l).phase = .failed ∧ s.linkEn l = true then s.startTraining l else s)

/-! ## Leaving service (R305, R328) -/

/-- A request packet lost with a link (R328). -/
def State.lostRequest (s : State) (l : Nat) (p : Packet) : State :=
  let k := l / 6
  let s := (s.bump (swOff k + 0x30) 1).orReg (swOff k + 0xC) 0x10
  let s := s.record 6 k 0x0421 true (some (if p.src = s.moduleId then p.stag else p.tag))
    (detail [(p.dst, 2), (0, 2), (p.txid, 4), (p.addr, 6)])
  s.nack k p 0x0421

/-- A link leaves service: its flits are discarded, lost requests are answered, and it trains again if it may (R305,
R328). Causes 0 to 4 are in the order of R305. -/
def State.leaveService (s : State) (l cause : Nat) : State :=
  let x := s.link l
  if x.phase = .down ∨ x.phase = .failed then (if cause = 4 then s.startTraining l else s)
  else
    let lost := (((x.unacked ++ x.txq).map fun f => f.pkt).filter fun p => p.isReq).dedup
    let s := if x.phase = .up then (s.orReg (zlOff l + 8) 4).record 5 l 0x0402 true none (x.detail l cause) else s
    let s := (x.txq.foldl State.freeEntry s).startTraining l
    let s := lost.foldl (fun s p => s.lostRequest l p) s
    let t := s.ks.truss
    let s := if x.phase = .up ∧ t.member ∧ t.record.members.contains x.peerModule then
        (s.originate 4 s.moduleId (neighbourBody s.neighbours)).2
      else s
    s.settleLinkCtrl l

/-- LOCK_LOSS (R305). -/
def execLockLoss (l : Lnk) (s : State) : Host.Outcome State Fault Refusal := .next (s.leaveService l 0)

/-- SIDE_FRAME_SILENCE: no side frame passed its CRC for 32 µs (R305). -/
def execSideFrameSilence (l : Lnk) (s : State) : Host.Outcome State Fault Refusal :=
  .next (if (s.link l).phase = .up then s.leaveService l 2 else s)

/-- A write of ZL_CTRL.EN: a DOWN link may train, or a link leaves service (R305, R346). -/
def State.linkEnable (s : State) (l : Nat) (v : Bool) : State :=
  let s := s.setRfld (zlOff l) 0 1 (b2n v)
  if v then (if (s.link l).phase = .down then s.startTraining l else s) else s.leaveService l 4

/-- ZL_CTRL.EN (R305, R346). -/
def execZlCtrlEn (l : Lnk) (v : Bool) (s : State) : Host.Outcome State Fault Refusal := .next (s.linkEnable l v)

/-- ZL_CTRL.RETRAIN (R305, R346). -/
def execZlCtrlRetrain (l : Lnk) (s : State) : Host.Outcome State Fault Refusal := .next (s.leaveService l 4)

/-- ZL_CTRL.CNT_CLR: the counters at 0x28 to 0x38 (R346). -/
def execZlCtrlCntClr (l : Lnk) (s : State) : Host.Outcome State Fault Refusal :=
  .next (s.clearRegs (zlOff l + 0x28) 5)

/-! ## Replay (R301, R302) -/

/-- The sender is to replay from its next slot on: counted, scored, and 16 within 100 µs take the link out of service
(R301, R302, R305). -/
def State.replay (s : State) (l : Nat) : State :=
  let s := (s.bump (zlOff l + 0x30) 1).score 2 4 1
  let x := s.link l
  let recent := s.elapsed :: x.replays.filter fun t => s.elapsed < t + 100000
  let s := s.updLink l fun x => { x with replays := recent, replayDue := true }
  if 16 ≤ recent.length then s.leaveService l 1 else s

/-- REPLAY_TIMEOUT: the oldest unacknowledged flit has waited 640 slots (R302). -/
def execReplayTimeout (l : Lnk) (s : State) : Host.Outcome State Fault Refusal :=
  .next (if (s.link l).phase = .up ∧ (s.link l).unacked ≠ [] then s.replay l else s)

/-! ## The side channel (R303, R304, R340, R486) -/

/-- Span time in units of 1/8 ns; the place inside the ns is free. -/
def State.nowEighths (s : State) : Nat × State :=
  let (f, s) := s.free
  (s.ts.count.toNat * 8 + f % 8, s)

/-- A 31-byte side frame: TYPE, body and CRC (R304). -/
def sideFrame (type : Nat) (body : List Byte) : List Byte :=
  let h := toBytes type 1 ++ sliceBytes body 0 26
  h ++ toBytes (crc32c h) 4

/-- A side frame is whole. -/
def sideOk (f : List Byte) : Bool := f.length = 31 && leAt f 27 4 = crc32c (f.take 27)

/-- The body of a RESYNC frame: ACKSEQ, then CREDIT of each VC, 2 bytes each (log entry 14). -/
def LinkState.resyncBody (x : LinkState) : List Byte :=
  toBytes x.rxSeq 2 ++ ((List.range 4).map fun v => toBytes (x.credSent.get 0 v) 2).flatten

/-- The heartbeat body (R486). -/
def State.trussBody (s : State) : List Byte :=
  let t := s.ks.truss
  toBytes (s.moduleId + 8192 * t.state) 2 ++ toBytes t.record.epoch 8 ++ toBytes t.record.notice 2 ++
    t.record.digest.take 8 ++ toBytes s.ks.insp.score 2 ++ toBytes t.agent 2 ++ [0, 0]

/-- Compose the next side frame of link l (R304): frame n is TRUSS, TIME or RESYNC. -/
def State.composeFrame (s : State) (l : Nat) : State :=
  let x := s.link l
  let n := x.sideNo
  if n % 25 = 0 then
    let f := sideFrame 1 s.trussBody
    (s.updKs fun k => { k with truss := { k.truss with
      agent := if k.resetting then k.truss.agent else (k.truss.agent + 1) % 2 ^ 16 } }).updLink l fun x =>
      { x with sideOut := f }
  else if n % 5 = 2 then
    let (t, s) := s.nowEighths
    let (e, r) := x.timeRx.getD (0, 0)
    let v := t + e * 2 ^ 67 + r * 2 ^ 134 + s.ts.depth * 2 ^ 201 + b2n (s.ts.phase = .locked) * 2 ^ 207
    let s := { s with ts := { s.ts with sent := (l, t) :: s.ts.sent.filter fun y => decide (t < y.2 + 64000) } }
    s.updLink l fun x => { x with sideOut := sideFrame 2 (toBytes v 26) }
  else s.updLink l fun x => { x with sideOut := sideFrame 0 x.resyncBody }

/-- The next SIDE bit to send: bit 0 first; the last 2 bits of a frame are zero. -/
def State.sideBit (s : State) (l : Nat) : Nat × State :=
  let s := if (s.link l).sidePos = 0 then s.composeFrame l else s
  let x := s.link l
  let b := b2n (bit (leAt x.sideOut (x.sidePos / 8) 1) (x.sidePos % 8))
  (b, s.updLink l fun x =>
    if x.sidePos = 249 then { x with sidePos := 0, sideNo := x.sideNo + 1 } else { x with sidePos := x.sidePos + 1 })

/-- The byte that a list of bits spells, bit 0 first. -/
def bitsNat (l : List Bool) : Nat := (List.zip l (List.range l.length)).foldl (fun a x => a + b2n x.1 * 2 ^ x.2) 0

/-- One received SIDE bit; a complete frame that fails its CRC is counted (R304). -/
def State.takeSide (s : State) (l : Nat) (b bad : Bool) : State :=
  let s := s.updLink l fun x => { x with side := x.side ++ [b], sideBad := x.sideBad || bad }
  let x := s.link l
  if x.side.length < 250 then s
  else
    let (inj, s) := s.inject [6] l 0
    let ok := !x.sideBad && inj.isNone && sideOk (toBytes (bitsNat (x.side.take 248)) 31)
    let s := s.updLink l fun x => { x with side := [], sideBad := false }
    if ok then s else s.bump (zlOff l + 0x38) 1

/-- RESYNC: acknowledgements and credits that bad slots lost (R303). -/
def execResync (l : Lnk) (frame : List Byte) (s : State) : Host.Outcome State Fault Refusal :=
  .next (
    if (s.link l).phase ≠ .up ∨ sideOk frame = false ∨ leAt frame 0 1 ≠ 0 then s
    else
      let s := s.updLink l fun x =>
        let n := (leAt frame 1 2 + 2 ^ 16 - x.ackSeq) % 2 ^ 16
        let x := if n ≤ x.unacked.length then
            { x with unacked := x.unacked.drop n, ackSeq := (x.ackSeq + n) % 2 ^ 16 } else x
        [0, 1, 2, 3].foldl (fun x v =>
          let d := (leAt frame (3 + 2 * v) 2 + 2 ^ 16 - x.credBack.get 0 v) % 2 ^ 16
          if d < 2 ^ 15 then
            { x with credBack := x.credBack.put v (leAt frame (3 + 2 * v) 2),
                     credUsed := x.credUsed.put v (x.credUsed.get 0 v - d) }
          else x) x
      s)

/-- TRUSS: a heartbeat from a neighbour (R486 to R488, R490). -/
def execTruss (l : Lnk) (frame : List Byte) (s : State) : Host.Outcome State Fault Refusal :=
  .next (
    if (s.link l).phase ≠ .up ∨ sideOk frame = false ∨ leAt frame 0 1 ≠ 1 then s
    else
      let n := leAt frame 1 2 % 8192
      let t := s.ks.truss
      let old := t.near.find n
      let epoch := leAt frame 3 8
      let notice := leAt frame 11 2
      let dig := sliceBytes frame 13 8
      let agent := leAt frame 23 2
      let same := epoch = t.record.epoch && notice = t.record.notice
      let wrong := same && dig ≠ t.record.digest.take 8
      let o := old.getD { last := 0, agent := agent, agentSince := s.elapsed, epoch := 0, notice := 0, digest := [],
                          digestBad := none, state := 0, score := 0, suspected := none, suspectSince := 0, stamp := 0 }
      let moved := o.agent ≠ agent
      let y : Neighbour :=
        { last := s.elapsed, agent := agent, agentSince := if moved then s.elapsed else o.agentSince, epoch := epoch,
          notice := notice, digest := dig, digestBad := if wrong then some (o.digestBad.getD s.elapsed) else none,
          state := leAt frame 2 1 / 32, score := fld (leAt frame 21 2) 0 10,
          suspected := if moved && !wrong then none else o.suspected, suspectSince := o.suspectSince,
          stamp := s.ts.count.toNat }
      let s := s.updKs fun k => { k with truss := { k.truss with near := k.truss.near.put n y } }
      if t.record.epoch < epoch ∨ (t.record.epoch = epoch ∧ t.record.notice < notice) then s.sendNear l n 0x0802 []
      else s)

/-! ## Slots (R294, R298 to R301) -/

/-- The next slot in the opposite direction: its sideband byte answers at once, and its body is the flit that is next to
go (R298 to R302, R316). A slot that leaves while a flit waits for a credit counts in ZL_CRD_STALL (R348). Both
directions run slot for slot: the link sends one slot for each that it receives (DESIGN CHOICE, log entry 37). -/
def State.sendSlot (s : State) (l : Nat) (ack nak : Bool) : State :=
  let x := s.link l
  let (crd, s) := match x.owed with
    | v :: r => (32 + 8 * v, s.updLink l fun x =>
        { x with owed := r, credSent := x.credSent.put v ((x.credSent.get 0 v + 1) % 2 ^ 16) })
    | [] => (0, s)
  let (b, s) := s.sideBit l
  let s := if x.txq.any fun f => !x.credit f then s.bump (zlOff l + 0x34) 1 else s
  let ((kind, body), s) := s.sendNext l
  s.emit (.slot l (b2n ack * 128 + b2n nak * 64 + crd + kind + b) body)

/-- A body that is no control flit, in a good slot (R299 to R301, R310): whether it is accepted. One below the expected
number is dropped, though it still says which packet the data flits after it belong to. -/
def State.takeFlit (s : State) (l : Nat) (hdr : Bool) (body : List Byte) : Bool × State :=
  let x := s.link l
  let resume := hdr && leAt body 0 1 = 0
  let vc := if hdr then leAt body 1 1 % 4 else x.rxVc
  if x.discard then (false, s)
  else if x.arriveSeq ≠ x.rxSeq then
    (false, s.updLink l fun x => { x with arriveSeq := (x.arriveSeq + 1) % 2 ^ 16, rxVc := vc })
  else
    (true, (s.updLink l fun x =>
      { x with arriveSeq := (x.arriveSeq + 1) % 2 ^ 16, rxSeq := (x.rxSeq + 1) % 2 ^ 16, rxVc := vc,
               occupied := if resume then x.occupied else x.occupied.put vc (x.occupied.get 0 vc + 1) }).add64
      (zlOff l + 0x20) 1)

/-- The acknowledgement, credit and replay request of a sideband byte (R298). -/
def State.takeSideband (s : State) (l b : Nat) : State :=
  let s := s.updLink l fun x =>
    let x := if bit b 7 then { x with unacked := x.unacked.drop 1,
                                      ackSeq := if x.unacked = [] then x.ackSeq else (x.ackSeq + 1) % 2 ^ 16 } else x
    if bit b 5 then
      let v := fld b 3 2
      { x with credUsed := x.credUsed.put v (x.credUsed.get 0 v - 1),
               credBack := x.credBack.put v ((x.credBack.get 0 v + 1) % 2 ^ 16) }
    else x
  if bit b 6 then s.replay l else s

/-- The FEC decoder at the next slot: a codeword ends in it at places 0 and 2 of the pair and is counted; the slot is bad
where a message bit of it lies in an uncorrectable codeword, so at place 2 of either (R293, R294). -/
def State.fecSlot (s : State) (l : Nat) (c : Codeword) : Bool × State :=
  let x := s.link l
  let fresh := x.rxSlot = 0 || x.rxSlot = 2
  let unc := fresh && c = .uncorrectable
  let now := if fresh then unc else x.rxBad
  let s := s.updLink l fun x => { x with rxSlot := (x.rxSlot + 1) % 5, rxBad := now }
  let s := if fresh && c = .corrected then s.bump (zlOff l + 0x28) 1 else s
  let s := if unc then (s.bump (zlOff l + 0x2C) 1).orReg (zlOff l + 8) 8 else s
  (now || (x.rxSlot = 2 && x.rxBad), s)

/-- SLOT_RECEIVED (R294, R298 to R301, R305). -/
def execSlotReceived (l : Lnk) (x : Slot) (s : State) : Host.Outcome State Fault Refusal :=
  .next (
    if (s.link l).phase ≠ .up then s
    else
      let (bad, s) := s.fecSlot l x.codeword
      let (inj, s) := s.inject [5] l 0
      if bad || inj.isSome then
        let s := (s.updLink l fun y => { y with discard := true }).takeSide l false true
        s.sendSlot l false true
      else
        let b := x.sideband.toNat
        let s := s.takeSideband l b
        if (s.link l).phase ≠ .up then s
        else
          let s := s.takeSide l (bit b 0) false
          if bit b 2 then
            let kind := leAt x.body 0 1
            if kind = 2 then s.leaveService l 3
            else
              let s := if kind = 1 then s.updLink l fun y =>
                  { y with discard := false, arriveSeq := leAt x.body 2 2, rxVc := leAt x.body 4 1 % 4 } else s
              s.sendSlot l false false
          else
            let (ok, s) := s.takeFlit l (bit b 1) x.body
            s.sendSlot l ok false)

/-! ## Header flits (R306, R307, R316) -/

/-- A header with a failing HCRC or an unknown TYPE is dropped (R307). -/
def State.headerDrop (s : State) (k : Nat) (p : Packet) (inp : Option Nat) : State :=
  ((s.bump (swOff k + 0x24) 1).orReg (swOff k + 0xC) 4).record 6 k 0x0412 true none (dropDetail p inp)

/-- HEADER_FLIT: a packet is checked, routed, and forwarded or delivered (R306, R307, R310 to R319, R557). -/
def execHeaderFlit (src : FlitSrc) (header payload : List Byte) (s : State) : Host.Outcome State Fault Refusal :=
  let p := parseHeader header payload
  let ok := hcrcOk header
  .next (match src with
    | .link l =>
      if (s.link l).phase ≠ .up then s
      else if ok && p.type = 0 then s
      else
        if ok && typeKnown p.type then s.routeLink l p else (s.freeEntries l p).headerDrop (l / 6) p (some l)
    | .unit k => if ok && typeKnown p.type then s.routeUnit k p else s.headerDrop k p none)

/-! ## Span time (R26, R339 to R344, R349) -/

/-- The span-time unit. -/
def State.updTs (s : State) (f : SpanTime → SpanTime) : State := { s with ts := f s.ts }

/-- An integer divided by n and rounded to nearest, ties to even. -/
def divNear (a : Int) (n : Nat) : Int :=
  let q := a / (n : Int)
  let r := a % (n : Int)
  if 2 * r > n ∨ (2 * r = n ∧ q % 2 ≠ 0) then q + 1 else q

/-- A value held to a symmetric limit. -/
def clampSym (lim v : Int) : Int := max (-lim) (min lim v)

/-- TIME: a frame from the parent gives an offset; the first one in ACQUIRING steps the count, and four of the others set
the rate (R340, R341); in HOLDOVER nothing steps (R343). -/
def execTime (l : Lnk) (f : TimeFrame) (s : State) : Host.Outcome State Fault Refusal :=
  let s := s.updLink l fun x => { x with timeRx := some (f.tx, f.t4) }
  let known := s.ts.sent.any fun y => y.1 = l.val && y.2 = f.echo && decide (f.t4 ≤ y.2 + 64000)
  .next (
    if s.ts.parent ≠ l.val ∨ (s.link l).phase ≠ .up ∨ known = false ∨ s.ts.phase = .free then s
    else
      let theta2 : Int := ((f.rx : Int) - f.echo) + ((f.tx : Int) - f.t4)
      let delta2 : Int := ((f.t4 : Int) - f.echo) - ((f.tx : Int) - f.rx)
      let s := s.setReg (tsOff + 0x24) (BitVec.ofInt 32 (divNear delta2 2))
      let s := s.updTs fun t => { t with depth := f.depth + 1 }
      if s.ts.stepped = false ∧ s.ts.phase = .acquiring then
        let old := s.ts.count
        let new := old + BitVec.ofInt 64 (divNear theta2 16)
        let s := s.updTs fun t => { t with count := new, stepped := true, thetas := [], sent := [] }
        (s.orReg (tsOff + 0xC) 4).record 8 0 0x0440 false none (detail [(old.toNat, 8), (new.toNat, 8)])
      else
        let ths := theta2 :: s.ts.thetas
        if ths.length < 4 then s.updTs fun t => { t with thetas := ths }
        else
          let sum := ths.sum
          let good := decide (sum.natAbs ≤ 8 * s.rfld (tsOff + 8) 16 8)
          let s := s.setReg (tsOff + 0x20) (BitVec.ofInt 32 (divNear sum 8))
          let s := s.setReg (tsOff + 0x28) (BitVec.ofInt 32 (clampSym 200000 (divNear (sum * 1000000000) 409600)))
          s.updTs fun t =>
            let g := if good then t.good + 1 else 0
            { t with thetas := [], good := g, phase := if 4 ≤ g then .locked else t.phase })

/-- SPAN_TIME_HOLDOVER: the parent is lost (R343). -/
def execSpanTimeHoldover (s : State) : Host.Outcome State Fault Refusal :=
  let t := s.ts
  .next (
    if t.parent = 31 ∨ (t.phase ≠ .acquiring ∧ t.phase ≠ .locked) then s
    else
      let s := if t.phase = .locked then s.bump (tsOff + 0x2C) 1 else s
      let alt := s.rfld (tsOff + 8) 5 5
      let take := alt < 24 && (s.link alt).phase = .up
      let s := s.updTs fun x =>
        { x with phase := .holdover, parent := if take then alt else x.parent, good := 0, thetas := [] }
      (s.orReg (tsOff + 0xC) 1).record 8 0 0x0441 true none (detail [(t.parent, 1), (if take then alt else 31, 1)]))

/-- TS_CFG.PPS_EN. -/
def State.ppsEn (s : State) : Bool := bit (s.reg (tsOff + 8)).toNat 10

/-- PPS_EDGE: the root steers toward a multiple of 10^9 (R344). -/
def execPpsEdge (s : State) : Host.Outcome State Fault Refusal :=
  let s := s.updTs fun t => { t with ppsSeen := some s.elapsed }
  .next (
    if s.ppsEn && s.ts.parent = 31 then
      let r : Nat := s.ts.count.toNat % 1000000000
      let err : Int := if r < 500000000 then -(r : Int) else 1000000000 - (r : Int)
      s.setReg (tsOff + 0x28) (BitVec.ofInt 32 (clampSym 200000 err))
    else s)

/-- PPS_MISSING: no edge for 1.1 s; the root runs on its reference, with no correction (R344). -/
def execPpsMissing (s : State) : Host.Outcome State Fault Refusal :=
  .next (
    if s.ppsEn && s.ts.parent = 31 then
      let s := (s.updTs fun t => { t with ppsSeen := none }).setReg (tsOff + 0x28) 0
      (s.orReg (tsOff + 0xC) 2).record 8 0 0x0442 true none
        (detail [(s.ts.parent, 1), (31, 1)])
    else s.updTs fun t => { t with ppsSeen := none })

/-- REPLICA_TRIM: every replica is trimmed; what is left of its error, at most 2 ns, is free. AD1, index 33, holds the
master count, and that it therefore keeps no replica is DEDUCED (R26, log entry 7). -/
def execReplicaTrim (s : State) : Host.Outcome State Fault Refusal :=
  let (l, s) := s.frees 36
  .next (s.updTs fun t =>
    { t with replica := (List.zip (List.range 36) l).map fun x =>
        (x.1, if x.1 = 33 then 0 else Int.ofNat (x.2 % 5) - 2) })

/-- TS_CTRL.CNT_CLR (R349). -/
def execTsCtrlCntClr (s : State) : Host.Outcome State Fault Refusal := .next (s.setReg (tsOff + 0x2C) 0)

/-- TS_SET.COUNT: loaded only while ROOT is 1 and STATE is FREE (R349). -/
def execTsSetCount (v : Word64) (s : State) : Host.Outcome State Fault Refusal :=
  .next (if s.ts.parent = 31 ∧ s.ts.phase = .free then s.updTs fun t => { t with count := v } else s)

end Sys2Proof.Machine
end

