-- ==== Sys2Proof/Machine/Tasks.lean ====
section
/-! DEFINITION. Tasks and the control registers of the pier sequencer (R114 to R116, R121, R136, R137, R159, R160, R162
to R168). -/
namespace Sys2Proof.Machine
open Sys2Proof

/-- A task enters the pier's queue, or is dropped with SUB_DROP when eight wait; ID and START come from TASKD0 to
TASKD2 (R114, R165). -/
def State.submitTask (s : State) (p id start len : Nat) : State :=
  if 8 ≤ (s.pier p).taskQueue.length then s.orReg (psqOff p + 4) 0x80
  else s.updPier p fun x => { x with
    nextSer := x.nextSer + 1,
    taskQueue := x.taskQueue ++ [{ ser := x.nextSer, id := id, start := start, len := len }] }

/-- TASK_SUBMISSION: a write of PSQ_TASKD3 (R114). -/
def execTaskSubmission (p : Pier) (len : Word32) (s : State) : Host.Outcome State Fault Refusal :=
  .next (s.submitTask p (s.rfld (psqOff p + 0x20) 0 16) (s.reg64 (psqOff p + 0x24)) (fld len.toNat 0 17))

/-- PSQ_CTRL.ARM. -/
def State.armed (s : State) (p : Nat) : Bool := bit (s.reg (psqOff p)).toNat 0
/-- PSQ_CTRL.HALT. -/
def State.halted (s : State) (p : Nat) : Bool := bit (s.reg (psqOff p)).toNat 1

/-- TASK_START: the next task of the queue begins to dispatch, or faults with 0x0529 when its descriptor breaks R115
(R116, R160, R162). -/
def execTaskStart (p : Pier) (s : State) : Host.Outcome State Fault Refusal :=
  let x := s.pier p
  .next (match x.taskQueue, x.run with
    | t :: rest, none =>
      if s.armed p && !s.halted p && (x.seq = .idle || x.seq = .running) then
        let fresh : StartedTask :=
          { ser := t.ser, id := t.id, left := 0, ended := false, endCode := 0, status := none, stamp := none }
        let s := s.updPier p fun x => { x with
          taskQueue := rest, seq := .running, run := some { task := t, pc := 0, loops := [] }, fetchBuf := [],
          started := x.started ++ [fresh] }
        if t.len = 0 || 65536 < t.len || t.start % 16 ≠ 0 then s.seqFaultCode p t.ser 13 0 0x0529 [] else s
      else s
    | _, _ => s)

/-- HALT_COMPLETE: every queue is empty while HALT is 1 (R160). -/
def execHaltComplete (p : Pier) (s : State) : Host.Outcome State Fault Refusal :=
  let x := s.pier p
  .next (if x.seq = .halting ∧ x.hold = none ∧ x.queues.all (fun q => q.2.isEmpty) then
      s.updPier p fun x => { x with seq := .halted }
    else s)

/-- TALLY_INCREMENT_RECEIVED: the oldest increment on the path from a die reaches the pier, unless the abutment die it
crosses drops it under a fence (R22, R137, R329). The increments of a pier and those of its base die are two paths with
no order between them (DESIGN CHOICE, log entry 122: R22 orders packets of one source port only). -/
def execTallyIncrementReceived (p : Pier) (src : Fin 36) (s : State) : Host.Outcome State Fault Refusal :=
  .next (match s.tallies.find? fun t => t.src = src.val ∧ t.dst = p.val with
    | some t =>
      let s := { s with tallies := s.tallies.erase t }
      match t.cross.filter fun k => (s.die k).fenced = some t.tag with
      | some k => s.bump (swOff k + 0x28) 1
      | none => s.tcRemote p t.tag t.tc t.inc
    | none => s)

/-- PSQ_CTRL.ARM is written (R162). -/
def execPsqCtrlArm (p : Pier) (v : Bool) (s : State) : Host.Outcome State Fault Refusal :=
  .next (s.setRfld (psqOff p) 0 1 (b2n v))

/-- PSQ_CTRL.HALT is written (R160). -/
def execPsqCtrlHalt (p : Pier) (v : Bool) (s : State) : Host.Outcome State Fault Refusal :=
  .next ((s.setRfld (psqOff p) 1 1 (b2n v)).updPier p fun x => { x with seq :=
    match x.seq with
    | .idle => if v then .halted else .idle
    | .running => if v then .halting else .running
    | .halting => if v then .halting else if x.run = none ∧ x.started = [] then .idle else .running
    | .halted => if v then .halted else if x.run = none ∧ x.started = [] then .idle else .running
    | .faulting => .faulting
    | .faulted => .faulted })

/-- Abort every task that has not been reported: each takes 0x052A (R160, R478). -/
def State.abortTasks (s : State) (p : Nat) : State :=
  let x := s.pier p
  let first := match x.started, x.taskQueue with
    | t :: _, _ => some (t.ser, t.id)
    | [], t :: _ => some (t.ser, t.id)
    | [], [] => none
  match first with
  | none => s
  | some (ser, id) =>
    match x.seq, x.fault with
    | .faulted, _ => s.updPier p fun x => { x.stopFrom ser 0x052A 0x052A with seq := .faulted }
    | _, some _ => s.updPier p fun x => x.stopFrom ser 0x052A 0x052A
    | _, none =>
      let (fser, fid, word) := match x.run with
        | some r => (r.task.ser, r.task.id, r.pc)
        | none => (ser, id, 0)
      s.updPier p fun x => { x.stopFrom ser 0x052A 0x052A with
        fault := some { ser := fser, id := fid, code := 0x052A, qsel := 13, word := word,
                        detail := taskDetail fid 13 p word 0 0, bits := [] } }

/-- PSQ_CTRL.ABORT (R160). -/
def execPsqCtrlAbort (p : Pier) (s : State) : Host.Outcome State Fault Refusal := .next (s.abortTasks p)

/-- PSQ_CTRL.CLR_FAULT: FAULTED becomes IDLE (R159). -/
def execPsqCtrlClrFault (p : Pier) (s : State) : Host.Outcome State Fault Refusal :=
  .next (s.updPier p fun x => { x with seq := if x.seq = .faulted then .idle else x.seq })

/-- PSQ_CTRL.CNT_CLR: the counters at 0x038 to 0x054 (R162). -/
def execPsqCtrlCntClr (p : Pier) (s : State) : Host.Outcome State Fault Refusal :=
  .next (s.clearRegs (psqOff p + 0x38) 8)

/-- What a write of PSQ_CTX.TAG does when it takes effect (R42, R121, R164, R173). A KIND 1 mark that still waits for a
pass-start stays and is later recorded under the new tag (DESIGN CHOICE, log entry 125). -/
def PierState.retag (x : PierState) (tag : Nat) : PierState :=
  { x with
    tag := tag, bases := [], xc := [], layer := 0, tcs := [], descs := [], vregs := [], vecZeroing := true,
    arrays := (List.range 8).map fun a => (a, { x.arrays.get Array8.reset a with acc := [], zeroing := true }) }

/-- PSQ_CTX.TAG takes effect only in IDLE with an empty task queue (R164). -/
def State.writeCtxTag (s : State) (p tag : Nat) : State :=
  let x := s.pier p
  if x.seq = .idle ∧ x.taskQueue = [] then s.setPier p (x.retag tag) else s

/-- PSQ_CTX_TAG (R164). -/
def execPsqCtxTag (p : Pier) (tag : Tag) (s : State) : Host.Outcome State Fault Refusal :=
  .next (s.writeCtxTag p tag.toNat)

/-- PSQ_TCN_WRITE: a keystone write sets a counter (R136, R168). -/
def execPsqTcnWrite (p : Pier) (tc : Tc) (v : Word32) (s : State) : Host.Outcome State Fault Refusal :=
  .next (s.tcSet p tc v.toNat)

end Sys2Proof.Machine
end

