-- ==== Sys2Proof/Machine/TaskReports.lean ====
section
/-! DEFINITION. Reports of tasks to the keystone and what a fault leaves, and the check of a gauge sample (R116, R156,
R158, R214, R227, R228, R501, R502). -/
namespace Sys2Proof.Machine
open Sys2Proof

/-! ## Reports (R116, R214, R437 TASKS) -/

/-- A list entry whose task a report names takes it. -/
def ListEntry.report (p : Nat) (r : TaskReport) (e : ListEntry) : ListEntry :=
  if e.pier = p ∧ e.ser = some r.ser ∧ e.status = none then { e with status := some r } else e

/-- Whether a list holds the submitted task of a report. -/
def listHas (p : Nat) (r : TaskReport) (l : List ListEntry) : Bool :=
  l.any fun e => e.pier = p && e.ser = some r.ser && e.status.isNone

/-- A step takes a report: a main or deferred task that failed sets the TASK cause, and the first evaluation task that
failed is named in the step report (R214). -/
def StepRun.report (p : Nat) (r : TaskReport) (x : StepRun) : StepRun :=
  let bad := r.status ≠ 0
  { x with
    main := x.main.map (ListEntry.report p r), deferred := x.deferred.map (ListEntry.report p r),
    eval := x.eval.map (ListEntry.report p r),
    taskFault := x.taskFault || (bad && (listHas p r x.main || listHas p r x.deferred)),
    evalFault := if bad && listHas p r x.eval && x.evalFault.isNone then some (r.status, p) else x.evalFault }

/-- A serving context's submitted steps take a report. -/
def Serve.report (p : Nat) (r : TaskReport) (x : Serve) : Serve :=
  { x with steps := x.steps.map fun y => { y with entries := y.entries.map (ListEntry.report p r) } }

/-- A context takes a report. -/
def Context.report (p : Nat) (r : TaskReport) (c : Context) : Context :=
  { c with step := c.step.map (StepRun.report p r), serve := c.serve.map (Serve.report p r) }

/-- A report of 0x0528 for an entry that is not submitted because an earlier task of its pier failed. -/
def neverRun (id stamp : Nat) : TaskReport := { ser := 0, id := id, status := 0x0528, endCode := 0, stamp := stamp }

/-- After a task of a TASKS list ended with a nonzero status, the later entries of its pier that are not submitted take
0x0528 (R437 TASKS). -/
def skipAfter (stamp : Nat) : List Nat → List ListEntry → List ListEntry
  | _, [] => []
  | bad, e :: r =>
    let e := if bad.contains e.pier && e.ser.isNone && e.status.isNone then
        { e with status := some (neverRun e.taskId stamp) } else e
    let bad := match e.status with
      | some x => if x.status = 0 then bad else e.pier :: bad
      | none => bad
    e :: skipAfter stamp bad r

/-- Write the result bytes of entry i of TASKS; bytes 6 and 7 keep what the host left (R432, R437). -/
def State.listResult (s : State) (m i : Nat) (e : ListEntry) : State :=
  match e.status with
  | some r => (s.mbResult m (16 * i) (toBytes r.id 2 ++ toBytes r.status 2 ++ toBytes r.endCode 2)).mbResult m (16 * i + 8)
      (toBytes r.stamp 8)
  | none => s

/-- A TASKS command whose entries have all been reported completes. -/
def State.settleList (s : State) (l : TaskList) : State :=
  if l.entries.all fun e => e.status.isSome then
    let s := s.updKs fun k => { k with lists := k.lists.erase l }
    ((List.zip (List.range l.entries.length) l.entries).foldl (fun s x => s.listResult l.mb x.1 x.2) s).mbDone l.mb 0
  else s

/-- Every TASKS command that is complete completes. -/
def State.settleLists (s : State) : State := s.ks.lists.foldl State.settleList s

/-- A pier reports a task: every list of the keystone that holds it takes the report. -/
def State.report (s : State) (p : Nat) (r : TaskReport) : State :=
  let s := s.updPier p fun x => { x with reports := x.reports ++ [r] }
  let s := s.updKs fun k =>
    { k with
      ctxs := k.ctxs.map fun c => (c.1, c.2.report p r),
      lists := k.lists.map fun l =>
        { l with entries := skipAfter r.stamp [] (l.entries.map (ListEntry.report p r)) } }
  s.settleLists

/-- Report a started task, with a status of its own or a given one, and the stamp of its completion: taken now for a task
that ends by its report (R116). -/
def State.reportTask (s : State) (p : Nat) (t : StartedTask) (status : Nat) : State :=
  let (st, s) := match t.stamp with
    | some v => (v, s)
    | none => s.stamp 1 p
  s.report p { ser := t.ser, id := t.id, status := t.status.getD status, endCode := t.endCode, stamp := st }

/-- A sequencer with nothing left to do is IDLE (R160, R163). With ARM 0 and tasks queued that cannot start it keeps the
state it has: IDLE before its first task, RUNNING after one (DESIGN CHOICE, log entry 126). -/
def PierState.settle (x : PierState) : PierState :=
  if x.seq = .running ∧ x.started = [] ∧ x.run = none ∧ x.taskQueue = [] then { x with seq := .idle } else x

/-- The task may be reported: it has ended, nothing of it is left, and no earlier fault of the pier waits. -/
def PierState.reportable (x : PierState) (t : StartedTask) : Bool :=
  t.ended && t.left = 0 && (match x.fault with | some f => decide (t.ser < f.ser) | none => true)

/-- The oldest started task is reported (R116, R158 step 4). -/
def State.taskCompletion (s : State) (p : Nat) : State :=
  let x := s.pier p
  match x.started with
  | t :: rest =>
    if x.reportable t then
      (s.updPier p fun x => { x with started := rest }.settle).reportTask p t 0
    else s
  | [] => s

/-- Every started instruction has completed: the faulting task and the later ones are reported, the fault registers
are written, the record is raised (R158 steps 4 and 5). -/
def State.faultedEntry (s : State) (p : Nat) : State :=
  let x := s.pier p
  match x.seq, x.fault with
  | .faulting, some f =>
    if x.started.all (fun t => t.left = 0 && f.ser ≤ t.ser) then
      let late := x.taskQueue.map (endedTask 0x0528)
      let s := s.updPier p fun x => { x with started := [], taskQueue := [], run := none, seq := .faulted, fault := none }
      let s := (x.started ++ late).foldl (fun s t => s.reportTask p t f.code) s
      let s := s.setReg (psqOff p + 0xC) (BitVec.ofNat 32 (f.code + f.qsel * 2 ^ 16))
      let s := s.setReg (psqOff p + 0x10) (BitVec.ofNat 32 f.id)
      let s := s.setReg (psqOff p + 0x14) (BitVec.ofNat 32 f.word)
      (s.record 1 p f.code true (some x.tag) f.detail).setBits f.bits
    else s
  | _, _ => s

/-! ## The gauge check (R156, R227, R228, R502) -/

/-- The last known reading of a sensor of R549, signed, in units of 0.25 °C. -/
def State.temp (s : State) (sensor : Nat) : BitVec 16 := s.phys.temps.get 0 sensor

/-- One checked column. -/
structure GaugeColumn where
  n : Nat
  s : Nat
  w : Nat
  miss : Bool
  nan : Bool
  diff : Fp
  mag : Fp
deriving DecidableEq, Repr

/-- An integer-valued number modulo 2^32. -/
def Fp.mod32 : Fp → Nat
  | .fin n m e => wrap (Fp.signed n (if 0 ≤ e then m * 2 ^ e.toNat else m / 2 ^ (-e).toNat)) 32
  | _ => 0

/-- The FP64 sum of exact values in order, each addition rounded by RNE (R156). -/
def sum64 : List Fp → Nat
  | [] => 0
  | x :: r => r.foldl (fun a y => accAdd 8 a y) (accFirst 8 x)

/-- Check column n of a sample (R156). -/
def GaugeSample.column (g : GaugeSample) (n : Nat) : GaugeColumn :=
  let pr := g.products.getD n []
  let sBits := (g.sums.getD n 0).toNat
  let wBits := sum64 pr
  let aBits := sum64 (pr.map Fp.abs)
  let w := elemVal 8 wBits
  let a := elemVal 8 aBits
  let sv := if g.integer then Fp.ofInt (sext sBits 32) else elemVal 7 sBits
  let d := (Fp.add 0 sv w.flip).abs
  let small := match elemVal 7 (fp32.round 0 w) with
    | .fin _ _ _ => true
    | _ => false
  let far := decide (0 < Fp.cmp d (a.mul (.fin false 1 (-(g.thr : Int)))))
  let nan := !g.integer && (sv.isNan != w.isNan)
  { n := n, s := sBits, w := wBits, nan := nan, diff := d, mag := a,
    miss := if g.integer then decide (sBits ≠ w.mod32) else nan || (small && far) }

/-- Column b is worse than column a (R228). -/
def GaugeColumn.worse (a b : GaugeColumn) : Bool :=
  if a.nan then false
  else if b.nan then true
  else decide (0 < Fp.cmp (b.diff.mul a.mag) (a.diff.mul b.mag))

/-- The worst of the mismatching columns, the lowest on a tie. -/
def worstColumn : List GaugeColumn → Option GaugeColumn
  | [] => none
  | x :: r => some (r.foldl (fun a b => if a.worse b then b else a) x)

/-- The condition tag of a temperature and a load signature (R502). -/
def condTag (t : BitVec 16) (sig : Nat) : Nat :=
  let b := (min 7 (max 0 ((t.toInt - 160) / 40 + 1))).toNat
  let arrays := fld sig 0 4
  4 * b + (if fld sig 8 3 ≠ 0 then 3 else if arrays ≤ 3 then 0 else if arrays ≤ 7 then 1 else 2)

/-- Count a mismatch under its condition tag: a gauge mismatch or a self-test mismatch (R502, R504). -/
def State.condition (s : State) (tag : Nat) (selftest : Bool) : State :=
  s.updKs fun k =>
    let c := k.insp.conds.get (0, 0) tag
    let c := if selftest then (c.1, min 65535 (c.2 + 1)) else (min 65535 (c.1 + 1), c.2)
    { k with insp := { k.insp with conds := k.insp.conds.put tag c } }

/-- The entry of the gauge table that counts a layer tag, in the open step of a context (R227). -/
def State.gaugeEntry (s : State) (tag layer : Nat) : Option Nat :=
  if s.ctxTag (tagCtx tag) ≠ tag then none
  else (s.ctx (tagCtx tag)).step.map fun r => leAt r.desc 88 8 + 32 * min layer 1023

/-- The gauge table of the open step of a context takes a sample (R227). -/
def State.gaugeTable (s : State) (tag layer stamp sig : Nat) (miss : Bool) (temp : BitVec 16) : State :=
  match s.gaugeEntry tag layer with
  | none => s
  | some va =>
    match s.readVa none tag reachMemory 0x052B va 32 with
    | (.error _, s) => s
    | (.ok d, s) =>
      let n := toBytes (leAt d 0 8 + 1) 8
      let e := if miss then
          n ++ toBytes (leAt d 8 8 + 1) 8 ++ toBytes stamp 8 ++ toBytes temp.toNat 2 ++ [0, 0] ++ toBytes sig 4
        else n ++ sliceBytes d 8 24
      (s.writeVa none tag reachMemory 0x052B va e).2

/-- GAUGE_CHECK: the sample of the gauge buffer is checked (R156, R227, R228). The check takes 160 array cycles
(R196). -/
def execGaugeCheck (p : Pier) (s : State) : Host.Outcome State Fault Refusal :=
  let x := s.pier p
  .next (match x.gaugeBuf with
    | none => s
    | some g =>
      if !g.full then s
      else
      let cols := (List.range g.products.length).map g.column
      let bad := cols.filter fun c => c.miss
      let temp := s.temp (p + 1)
      let s := s.updPier p fun x => { x with gaugeBuf := none, gaugeSkippedHeld := false }
      let s := s.bump (vecOff p + 0x24) 160
      match worstColumn bad with
      | none => s.gaugeTable g.tag g.layer 0 0 false temp
      | some w =>
        let (st, s) := s.stamp 3 p
        let s := ((s.bump (psqOff p + 0x3C) 1).score 3 8192 1).condition (condTag temp g.signature) false
        let s := s.gaugeTable g.tag g.layer st g.signature true temp
        s.recordAt st 3 p 0x0240 false (some g.tag)
          (detail [(g.layer, 2), (p + 16 * g.array, 1), (g.cls, 1), (bad.length, 2), (w.n, 2), (w.s, 4), (w.w, 8),
                   (temp.toNat, 2), (s.rfld (dmcOff p + 0x10) 0 16, 2), (g.signature, 4), (g.mhz, 2),
                   (g.droop + 8 * b2n s.ltOn, 1)]))

end Sys2Proof.Machine
end

