-- ==== Sys2Proof/Machine/Steps.lean ====
section
/-! DEFINITION. The training step: opening it, submitting its lists, sealing its shards, voting, and what the vote
changes (chapter 06; R350, R351, R354, R438). -/
namespace Sys2Proof.Machine
open Sys2Proof

/-! ## Context memory as the keystone reads and writes it -/

/-- Read several runs under a tag; none where one of them cannot be read. -/
def State.kread (s : State) (tag : Nat) (l : List (Nat × Nat)) : Option (List (List Byte)) × State :=
  match s.readRuns none tag reachMemory 0x052B l with
  | (.ok d, s) => (some d, s)
  | (.error _, s) => (none, s)

/-- Write bytes under a tag; a write that the tag's translation does not take is dropped. -/
def State.kwrite (s : State) (tag va : Nat) (d : List Byte) : State := (s.writeVa none tag reachMemory 0x052B va d).2

/-- An FP32 value times 2^k, rounded once by RNE (R222, R225). -/
def scale32 (w : Nat) (k : Int) : Nat :=
  fp32.round 0 (match elemVal 7 w with
    | .fin n m e => .fin n m (e + k)
    | v => v)

/-! ## The descriptor and its lists (R205, R209, R221, R224, R231) -/

/-- A 32-byte list entry (R209). -/
def parseEntry (d : List Byte) : ListEntry :=
  { pier := leAt d 0 1, kind := leAt d 1 1, gtc := fld (leAt d 2 1) 0 6, gated := bit (leAt d 2 1) 7,
    gvalue := leAt d 4 4, start := leAt d 8 8, len := leAt d 16 4, taskId := leAt d 20 2, layer := leAt d 22 2,
    held := false, ser := none, status := none }

/-- The reserved fields of a list entry are zero, LAYER among them unless KIND is 1 (R209). -/
def entryClean (d : List Byte) : Bool :=
  decide (leAt d 0 1 < 16) && !bit (leAt d 2 1) 6 && leAt d 3 1 = 0 && leAt d 24 8 = 0 &&
    (leAt d 1 1 = 1 || leAt d 22 2 = 0)

/-- The entries of a list. -/
def parseList (n : Nat) (d : List Byte) : List (List Byte) := (List.range n).map fun i => sliceBytes d (32 * i) 32

/-- A list's entries are clean, of the kinds allowed and on the piers allowed. -/
def listOk (kinds : List Nat) (piers n : Nat) (d : List Byte) : Bool :=
  (parseList n d).all fun e => entryClean e && kinds.contains (leAt e 1 1) && bit piers (leAt e 0 1)

/-- Signed bytes. -/
def sByte (d : List Byte) (o n : Nat) : Int := sext (leAt d o n) (8 * n)

/-- The committed numeric state block keeps its limits (R221). -/
def nsbOk (d : List Byte) : Bool :=
  decide (-64 ≤ sByte d 2 2 ∧ sByte d 2 2 ≤ 64 ∧ sByte d 2 2 ≤ sByte d 4 2 ∧ sByte d 4 2 ≤ 64 ∧
    sByte d 2 2 ≤ sByte d 0 2 ∧ sByte d 0 2 ≤ sByte d 4 2) &&
  leAt d 6 2 ≠ 0 && decide (leAt d 12 1 ≤ 7) && leAt d 13 51 = 0

/-- The addresses of the UCONV words of a layer with ADAPT (R193, R224). -/
def layerUconv (d : List Byte) : List (Nat × Nat) :=
  if bit (leAt d 14 1) 0 then (List.range (leAt d 12 2)).map fun b => (leAt d 0 8 + 128 * b + 44, 2) else []

/-- A UCONV word names a floating-point format (R224). -/
def uconvFloat (d : List Byte) : Bool := decide (fld (leAt d 0 2) 0 4 ≤ 8)

/-- An owned-shard entry's reserved bytes are zero (R206, R231). -/
def shardOk (d : List Byte) : Bool := leAt d 26 2 = 0

/-- A layer-table entry keeps R224. -/
def layerOk (d : List Byte) : Bool :=
  (match elemVal 7 (leAt d 8 4) with
   | .fin n m _ => !n && m ≠ 0
   | _ => false) &&
  decide (1 ≤ leAt d 12 2 ∧ leAt d 12 2 ≤ 16) && leAt d 14 1 / 2 = 0 && leAt d 15 1 = 0

/-- LRE of entry i in a numeric state block. -/
def nsbLre (d : List Byte) (i : Nat) : Int := sByte d (64 + i) 1

/-- The limits of the descriptor that its own bytes show (R206). -/
def State.descOk (s : State) (d : List Byte) : Bool :=
  let sp := leAt d 12 2
  let ev := leAt d 10 2
  sp &&& ev = 0 && decide (popCount ev 16 ≤ 4) && decide (1 ≤ leAt d 14 2 ∧ leAt d 14 2 ≤ 1024) &&
    leAt d 8 2 / 2 = 0 && leAt d 106 2 = 0 && leAt d 120 8 = 0 &&
    (!bit (leAt d 8 2) 0 || bit s.moduleId 12 || s.ks.truss.record.twin)

/-- Address of the numeric state copy of a step number (R202, R221). -/
def nsbAt (d : List Byte) (number : Nat) : Nat := leAt d 64 8 + 4096 * (number % 2)

/-- What a step needs of context memory when it opens: numeric state, layer table and the three lists. -/
structure StepPlan where
  nsb : List Byte
  layers : List Byte
  main : List ListEntry
  deferred : List ListEntry
  eval : List ListEntry
deriving DecidableEq, Repr

/-- The checks of R206; a structure that cannot be read rejects the descriptor. -/
def State.stepCheck (s : State) (tag : Nat) (d : List Byte) : Option StepPlan × State :=
  if !s.descOk d then (none, s)
  else match s.kread tag [(leAt d 72 8, 64)] with
    | (some [cb], s) =>
      let committed := leAt cb 0 8
      if leAt d 0 8 ≠ (committed + 1) % 2 ^ 64 then (none, s)
      else
        let mc := leAt d 24 4
        let dc := leAt d 28 4
        let ec := leAt d 108 4
        match s.kread tag [(nsbAt d committed, 1088), (leAt d 40 8, 16 * leAt d 14 2), (leAt d 16 8, 32 * mc),
            (leAt d 32 8, 32 * dc), (leAt d 112 8, 32 * ec), (leAt d 48 8, 32 * leAt d 56 4)] with
        | (some [nsb, lt, m, f, e, sh], s) =>
          let layers := (List.range (leAt d 14 2)).map fun i => sliceBytes lt (16 * i) 16
          let ok := nsbOk nsb && layers.all layerOk && (parseList (leAt d 56 4) sh).all shardOk &&
            listOk [0, 1] (leAt d 12 2) mc m && listOk [2] (leAt d 12 2) dc f && listOk [3] (leAt d 10 2) ec e
          if !ok then (none, s)
          else match s.kread tag ((layers.map layerUconv).flatten) with
            | (some u, s) =>
              if u.all uconvFloat then
                (some { nsb := nsb, layers := lt, main := (parseList mc m).map parseEntry,
                        deferred := (parseList dc f).map parseEntry, eval := (parseList ec e).map parseEntry }, s)
              else (none, s)
            | (none, s) => (none, s)
        | (_, s) => (none, s)
    | (_, s) => (none, s)

/-! ## Opening (R206 to R208, R222, R225) -/

/-- GSCALE, LRE and LRM of the parameter blocks of one layer-table entry (R222, R225). -/
def State.writeLayer (s : State) (tag gscale : Nat) (nsb lt : List Byte) (i : Nat) : State :=
  let e := sliceBytes lt (16 * i) 16
  let lre := nsbLre nsb i
  let lrm := scale32 (leAt e 8 4) (-lre)
  (List.range (leAt e 12 2)).foldl (fun s b =>
    let pb := leAt e 0 8 + 128 * b
    (s.kwrite tag (pb + 28) (toBytes lrm 4)).kwrite tag (pb + 36) (toBytes gscale 4 ++ toBytes (wrap lre 32) 4)) s

/-- The module's rank in a group; all ones where the list does not hold it. -/
def State.rankIn (s : State) (group : Nat) : Nat :=
  let l := s.ks.groups.get [] group
  if l.contains s.moduleId then l.idxOf s.moduleId else 0xFFFFFFFF

/-- Write a context's journal entry (R208). -/
def State.journal (s : State) (c : Nat) (j : Journal) : State :=
  s.updKs fun k => { k with journal := k.journal.put c j }

/-- Open a step (R207). -/
def State.openStep (s : State) (c m tag : Nat) (d : List Byte) (plan : StepPlan) : State :=
  let (st, s) := s.stamp 0 0
  let epoch := s.ks.truss.record.epoch
  let rank := s.rankIn (leAt d 104 2)
  let s := s.journal c { state := 1, desc := d, tag := tag, epoch := epoch, rank := rank, openStamp := st }
  let gscale := scale32 (leAt d 60 4) (-(sByte plan.nsb 0 2))
  let s := (List.range (leAt d 14 2)).foldl (fun s i => s.writeLayer tag gscale plan.nsb plan.layers i) s
  let s := s.kwrite tag (leAt d 80 8) (List.replicate 72 0)
  let run : StepRun :=
      { mb := some m, desc := d, number := leAt d 0 8, twin := bit (leAt d 8 2) 0, evalPiers := leAt d 10 2,
        stepPiers := leAt d 12 2, openStamp := st, epoch := epoch, rank := rank,
        main := plan.main, deferred := plan.deferred, eval := plan.eval, taskFault := false, evalFault := none,
        uncorrected := false, sealed := [], leaves := [], late := [], root := none, contributed := none, result := none, causes := 0,
        localStamp := 0, gap := [], fill := [], delay := [] }
  s.updCtx c fun x => { x with step := some run }

/-- STEP_OPEN: the oldest waiting STEP command of a context with no open step (R206, R207). -/
def execStepOpen (c : CtxId) (s : State) : Host.Outcome State Fault Refusal :=
  let x := s.ctx c
  .next (match x.step, x.stepWait with
    | none, m :: rest =>
      let s := s.updCtx c fun x => { x with stepWait := rest }
      match s.takenCmd m 0x0506 with
      | none => s
      | some t =>
        let d := sliceBytes t.args 0 128
        match s.stepCheck (s.ctxTag c) d with
        | (none, s) => s.mbDone m 0x0530
        | (some plan, s) => s.openStep c m (s.ctxTag c) d plan
    | _, _ => s)

/-! ## Submission (R210 to R215, R244, R437 TASKS) -/

/-- An entry's gate holds now or has held (R210). -/
def State.gate (s : State) (e : ListEntry) : ListEntry :=
  { e with held := e.held || !e.gated || tcHolds (s.tc e.pier e.gtc) e.gvalue }

/-- An entry still to be submitted. -/
def ListEntry.waits (e : ListEntry) : Bool := e.ser.isNone && e.status.isNone

/-- The keystone writes an entry's task descriptor (R114, R165). -/
def State.submitEntry (s : State) (e : ListEntry) : State :=
  let o := psqOff e.pier + 0x20
  let s := (s.setReg o (BitVec.ofNat 32 e.taskId)).setReg64 (o + 4) e.start
  s.submitTask e.pier e.taskId e.start e.len

/-- Submit the entries of a list in order, each pier up to its first entry whose gate does not hold or that finds the
task queue full; `shut` lists the piers at which nothing more is submitted, `one` shuts a pier after one entry. -/
def State.submitList (s : State) (one : Bool) : List Nat → List ListEntry → List ListEntry × State
  | _, [] => ([], s)
  | shut, e :: r =>
    if !e.waits then
      let (l, s) := State.submitList s one shut r
      (e :: l, s)
    else if shut.contains e.pier || !e.held || decide (8 ≤ (s.pier e.pier).taskQueue.length) then
      let (l, s) := State.submitList s one (e.pier :: shut) r
      (e :: l, s)
    else
      let ser := (s.pier e.pier).nextSer
      let s := s.submitEntry e
      let (l, s) := State.submitList s one (if one then e.pier :: shut else shut) r
      ({ e with ser := some ser } :: l, s)

/-- A submitted entry's task is in the task queue. -/
def State.entryQueued (s : State) (e : ListEntry) : Bool :=
  match e.ser with
  | some n => (s.pier e.pier).taskQueue.any fun t => t.ser = n
  | none => false

/-- A submitted entry's task now dispatches. -/
def State.entryRuns (s : State) (e : ListEntry) : Bool :=
  match e.ser, (s.pier e.pier).run with
  | some n, some r => decide (r.task.ser = n)
  | _, _ => false

/-- A submitted entry's task has passes in the array queues that a test picks. -/
def State.entryPasses (s : State) (pick : Entry → Bool) (e : ListEntry) : Bool :=
  match e.ser with
  | some n => (List.range 8).any fun a => ((s.pier e.pier).queue a).any fun x => x.ser = n && pick x
  | none => false

/-- A pass that uses the upper half of the accumulator store: a weight-gradient pass (R213, R217; DEDUCED, log entry
139). -/
def Entry.upper (e : Entry) : Bool :=
  e.accMode ≠ 0 && decide ((if e.cls = 4 then 1024 else 2048) ≤ e.accBase)

/-- Pier p has a gap: its next main entry's gate does not hold, or there is none (R212). -/
def gapAt (main : List ListEntry) (p : Nat) : Bool :=
  match main.find? fun e => e.pier = p && e.waits with
  | some e => !e.held
  | none => true

/-- Add a time to a pier's count while a condition holds. -/
def addTime (t : Tab Nat) (p dt : Nat) (on_ : Bool) : Tab Nat := if on_ then t.put p (t.get 0 p + dt) else t

/-- A main entry waits behind the deferred unit u of its pier: it has been submitted after u, or it is the next to be
submitted, its gate holds and it would be (R212, R215). -/
def StepRun.behind (x : StepRun) (u e : ListEntry) : Bool :=
  match u.ser, e.ser with
  | some n, some m => decide (n < m)
  | some _, none => e.held && (x.main.find? fun y => y.pier = u.pier && y.waits) = some e
  | none, _ => false

/-- GAP, FILL and DELAY of an open step grow by dt of span time, each pier by what holds there now (R215, R217). -/
def State.stepTimes (s : State) (dt : Nat) (x : StepRun) : StepRun :=
  if x.localStamp ≠ 0 then x
  else
    let main := x.main.map s.gate
    (Sys2Proof.Machine.setBits x.stepPiers 16).foldl (fun x p =>
      let units := x.deferred.filter fun e => e.pier = p && (s.entryQueued e || s.entryRuns e)
      let gap := gapAt main p
      let fill := (x.deferred.any fun e => e.pier = p && (s.entryRuns e || s.entryPasses (fun _ => true) e)) ||
        x.main.any fun e => e.pier = p && s.entryPasses Entry.upper e
      let delay := main.any fun e => e.pier = p && e.status.isNone && (e.ser.isNone || s.entryQueued e) &&
        units.any fun u => ({ x with main := main } : StepRun).behind u e
      { x with gap := addTime x.gap p dt gap, fill := addTime x.fill p dt (gap && fill),
               delay := addTime x.delay p dt delay }) x

/-- Evaluate the gates of an open step and submit what may be submitted (R210 to R212, R214, R244). -/
def State.stepSubmit (s : State) (x : StepRun) : StepRun × State :=
  let x := { x with main := x.main.map s.gate, deferred := x.deferred.map s.gate, eval := x.eval.map s.gate }
  if x.taskFault || x.localStamp ≠ 0 then (x, s)
  else
    let (main, s) := s.submitList false [] x.main
    let shut := (List.range 16).filter fun p =>
      !gapAt main p || (x.deferred.any fun e => e.pier = p && (s.entryQueued e || s.entryRuns e))
    let (deferred, s) := s.submitList true shut x.deferred
    let bad := (List.range 16).filter fun p => x.eval.any fun e => e.pier = p && (match e.status with
      | some r => decide (r.status ≠ 0)
      | none => false)
    let (eval, s) := s.submitList false bad x.eval
    ({ x with main := main, deferred := deferred, eval := eval }, s)

/-- Evaluate the gates of the TASKS lists of a context (R437 TASKS). -/
def State.listSubmit (s : State) (l : TaskList) : State :=
  let (e, s) := s.submitList false [] (l.entries.map s.gate)
  s.updKs fun k => { k with lists := k.lists.map fun y => if y.mb = l.mb then { l with entries := e } else y }

/-- GATE_EVALUATION (R210). -/
def execGateEvaluation (c : CtxId) (s : State) : Host.Outcome State Fault Refusal :=
  let s := match (s.ctx c).step with
    | some x =>
      let (x, s) := s.stepSubmit x
      s.updCtx c fun y => { y with step := some x }
    | none => s
  .next ((s.ks.lists.filter fun l => l.ctx = c.val).foldl State.listSubmit s)

/-! ## Sealing (R237, R350, R351) -/

/-- Write the DIGEST of every block of a shard; the first memory fault, or a block header out of range, ends it. -/
def State.sealBlocks (s : State) (tag : Nat) : Nat → Nat → Nat → Option Nat × State
  | 0, _, _ => (none, s)
  | k + 1, va, n =>
    if n < 64 then (none, s)
    else match s.readVa none tag reachMemory 0x052B va 64 with
      | (.error f, s) => (some f.code, s)
      | (.ok h, s) =>
        let pl := leAt h 12 4
        if pl % 64 ≠ 0 ∨ pl < 64 ∨ 2097088 < pl ∨ n < 64 + pl then (none, s)
        else match s.readVa none tag reachMemory 0x052B (va + 64) pl with
          | (.error f, s) => (some f.code, s)
          | (.ok body, s) =>
            match s.writeVa none tag reachMemory 0x052B (va + 16) (sliceBytes (shake256 body 32) 0 32) with
            | (some f, s) => (some f.code, s)
            | (none, s) => State.sealBlocks s tag k (va + 64 + pl) (n - 64 - pl)

/-- Seal a shard. -/
def State.sealShard (s : State) (tag va n : Nat) : Option Nat × State := s.sealBlocks tag (n / 64 + 1) va n

/-- The owned-shard table of a step: 32-byte entries (R231). -/
def State.shardTab (s : State) (tag : Nat) (d : List Byte) : List (List Byte) × State :=
  let n := leAt d 56 4
  match s.kread tag [(leAt d 48 8, 32 * n)] with
  | (some [t], s) => ((List.range n).map fun i => sliceBytes t (32 * i) 32, s)
  | (_, s) => ([], s)

/-- The address of an owned shard in the slot a step writes (R202, R231). -/
def shadowAt (e : List Byte) (number : Nat) : Nat := if number % 2 = 1 then leAt e 8 8 else leAt e 0 8

/-- A memory fault that the keystone meets while sealing is an error record that names the tag. -/
def State.sealFault (s : State) (tag : Nat) (code : Option Nat) : State :=
  match code with
  | some k => if k / 256 = 3 then s.record 0 0 k true (some tag) (taskDetail 0 0 0 0 0 0) else s
  | none => s

/-- The leaf digest of an owned shard: 64 bytes over its bytes in the shadow (R237). Bytes that cannot be read leave a
digest that nothing states (log entry 3). -/
def State.leafDigest (s : State) (tag number : Nat) (e : List Byte) : List Byte × State :=
  match s.readVa none tag reachMemory 0x052B (shadowAt e number) (leAt e 16 8) with
  | (.ok b, s) => (shake256 b 64, s)
  | (.error f, s) => (s.sealFault tag (some f.code)).freeBytes 64

/-- SHARD_SEAL: an owned shard of the open step whose DONE gate holds is sealed; under TWIN its leaf digest is then taken
(R231, R237, R351). -/
def execShardSeal (c : CtxId) (i : Nat) (s : State) : Host.Outcome State Fault Refusal :=
  .next (match (s.ctx c).step with
    | none => s
    | some x =>
      let tag := s.ctxTag c
      let (l, s) := s.shardTab tag x.desc
      match l[i]? with
      | none => s
      | some e =>
        if x.sealed.contains i || !tcHolds (s.tc (leAt e 24 1) (leAt e 25 1)) (leAt e 28 4) then s
        else
          let (f, s) := s.sealShard tag (shadowAt e x.number) (leAt e 16 8)
          let s := s.sealFault tag f
          let (leaf, s) := if x.twin then s.leafDigest tag x.number e else ([], s)
          let mark (x : StepRun) : StepRun := { x with sealed := i :: x.sealed, leaves := x.leaves.put i leaf }
          s.updCtx c fun y => { y with step := y.step.map mark })

/-- The root digest of the shadow: STEP, then the leaf digests in table order (R237). -/
def StepRun.shadowRoot (x : StepRun) : List Byte :=
  shake256 (toBytes x.number 8 ++ ((List.range (leAt x.desc 56 4)).map fun i => x.leaves.get [] i).flatten) 64

/-! ## Local completion and the contribution (R214, R235 to R239) -/

/-- An entry of a list is over: reported. -/
def ListEntry.over (e : ListEntry) : Bool := e.status.isSome

/-- A submitted entry has been reported. -/
def ListEntry.settled (e : ListEntry) : Bool := e.ser.isNone || e.status.isSome

/-- An evaluation entry is over, or is skipped after a fault of its pier (R214). -/
def evalOver (l : List ListEntry) (e : ListEntry) : Bool :=
  e.over || (e.ser.isNone && l.any fun x => x.pier = e.pier && (match x.status with
    | some r => decide (r.status ≠ 0)
    | none => false))

/-- The step's work is complete at the module (R214). -/
def StepRun.workDone (x : StepRun) : Bool :=
  if x.taskFault then (x.main ++ x.deferred ++ x.eval).all ListEntry.settled
  else (x.main ++ x.deferred).all ListEntry.over && x.eval.all (evalOver x.eval)

/-- An FP32 pattern is NaN or infinite. -/
def notFinite (w : Nat) : Bool :=
  match elemVal 7 w with
  | .fin _ _ _ => false
  | _ => true

/-- The causes of R236. LOSS_VALID is bit 0 of byte 4 of the vote block. -/
def State.causes (s : State) (c : Nat) (x : StepRun) : Nat × State :=
  let (vb, s) := s.kread (s.ctxTag c) [(leAt x.desc 80 8, 72)]
  let v := match vb with
    | some [d] => d
    | _ => List.replicate 72 0
  let loss := bit (leAt v 4 1) 0 && notFinite (leAt v 0 4)
  let gn := (List.range 16).any fun p => notFinite (leAt v (8 + 4 * p) 4)
  let digest := x.twin && (match x.root, (s.ctx c).twin with
    | some r, some (n, q) => n = x.number && r ≠ q
    | _, _ => false)
  (b2n (s.ks.truss.record.epoch ≠ x.epoch) + 2 * b2n x.taskFault + 4 * b2n loss + 8 * b2n gn + 16 * b2n x.uncorrected +
    32 * b2n digest, s)

/-- The OPEN VOTE descriptor of a group under a context's tag whose round is that of a STEP, or is not yet any's: rounds
are keyed by GROUP and STEP (R238, R330, R336; log entry 128). -/
def State.voteDesc (s : State) (group tag number : Nat) : Option Nat :=
  let at_ (k : Option Nat) : Option Nat := (s.colls.find? fun d =>
    d.2.state = .opn && d.2.op = 6 && d.2.group = group && d.2.tag = tag && d.2.voteStep = k).map (·.1)
  match at_ (some number) with
  | some d => some d
  | none => at_ none

/-- The 64-byte contribution (R238). -/
def voteRecord (number epoch causes rank : Nat) : List Byte :=
  toBytes number 8 ++ toBytes epoch 8 ++ toBytes causes 1 ++ [0, 0, 0] ++ toBytes rank 4 ++ List.replicate 40 0

/-- The keystone sets or clears PENDING of a context in every die (R354). -/
def State.setPending (s : State) (c : Nat) : State :=
  [0, 1, 2, 3].foldl (fun s k => s.setRfld (rshOff k + 0x400 + 16 * c + 4) 0 1 1) s

/-- Send the module's contribution to its group's VOTE descriptor; it stays due while none is OPEN or takes it (R238,
R239). -/
def State.contribute (s : State) (c : Nat) (x : StepRun) : State :=
  match s.voteDesc (leAt x.desc 104 2) (s.ctxTag c) x.number with
  | none => s
  | some d =>
    let (causes, s) := s.causes c x
    let s := s.updCtx c fun y => { y with step := some { x with contributed := some d, causes := causes } }
    match s.collMine d (s.coll d).round 0 (voteRecord x.number s.ks.truss.record.epoch causes x.rank) with
    | (false, s) => s.updCtx c fun y => { y with step := y.step.map fun x => { x with contributed := none } }
    | (true, s) =>
      let s := s.journal c { s.ks.journal.get Journal.reset c with state := 2 }
      s.setPending c

/-- The twin counterpart of this module (R237). -/
def State.counterpart (s : State) : Nat := s.moduleId ^^^ 4096

/-- The shards of the step that are not sealed and still to be awaited: after a TASK cause, one whose DONE gate does not
hold is not (R214, R231, R351). -/
def State.unsealed (s : State) (c : Nat) (x : StepRun) : Bool × State :=
  let (l, s) := s.shardTab (s.ctxTag c) x.desc
  ((List.range (leAt x.desc 56 4)).any fun i => !x.sealed.contains i &&
    (!x.taskFault || (match l[i]? with
      | some e => tcHolds (s.tc (leAt e 24 1) (leAt e 25 1)) (leAt e 28 4)
      | none => false)), s)

/-- Every owned shard is sealed, with the root digest computed and sent to the counterpart under TWIN (R237, R351). A
step with a TASK cause and a DONE gate that never held has no root, and contributes without one. -/
def State.stepSealed (s : State) (c : Nat) (x : StepRun) : Bool × StepRun × State :=
  let (waits, s) := s.unsealed c x
  let whole := (List.range (leAt x.desc 56 4)).all fun i => x.sealed.contains i
  if waits then (false, x, s)
  else if !x.twin || !whole then (true, x, s)
  else
    let here := match (s.ctx c).twin with
      | some (n, _) => decide (n = x.number)
      | none => false
    match x.root with
    | some _ => (here, x, s)
    | none => (here, { x with root := some x.shadowRoot }, s.emit (.twinRoot s.counterpart x.number x.shadowRoot))

/-- The modules whose silence this module can see at its vote: the twin counterpart whose root has not come, and once it
has contributed, the children in the vote's tree whose combined record has not come (R237, R238, R335). -/
def State.silent (s : State) (c : Nat) (x : StepRun) : List Nat :=
  (if x.root.isSome && ((s.ctx c).twin.map (·.1)) ≠ some x.number then [s.counterpart] else []) ++
  match x.contributed with
  | some d =>
    let y := s.coll d
    if (y.formed.find 0).isSome then []
    else ((treeChildren y.rank y.n).filter fun q => (y.partials.find q).isNone).map (s.rankModule y)
  | none => []

/-- A step that has waited for its vote too long reports each module whose silence it sees, once, and nothing more
(R239, R488). How long is too long, and that the reports come with STEP_LOCAL_COMPLETION, are the model's choices (DESIGN
CHOICE, log entry 129). -/
def State.reportLate (s : State) (c : Nat) (x : StepRun) : State :=
  if x.localStamp = 0 ∨ s.ts.count.toNat < x.localStamp + Config.voteLate.toNat then s
  else
    let l := (s.silent c x).filter fun m => !x.late.contains m
    let s := l.foldl (fun s m => s.record 0 0 0x0817 false none (detail [(m, 2), (0, 1)])) s
    s.updCtx c fun y => { y with step := y.step.map fun x => { x with late := l ++ x.late } }

/-- STEP_LOCAL_COMPLETION: the work is complete; with every shard sealed, the module contributes (R214, R236 to R238);
a step that waits for others reports them once they are late (R239). -/
def execStepLocalCompletion (c : CtxId) (s : State) : Host.Outcome State Fault Refusal :=
  .next (match (s.ctx c).step with
    | none => s
    | some x =>
      if !x.workDone then s
      else if x.contributed.isSome then s.reportLate c x
      else
        let (st, s) := if x.localStamp ≠ 0 then (x.localStamp, s) else s.stamp 0 0
        let x := { x with localStamp := st }
        let (ready, x, s) := s.stepSealed c x
        let s := s.updCtx c fun y => { y with step := some x }
        if ready then s.contribute c x else s.reportLate c x)

/-- TWIN_ROOT_ARRIVAL: the counterpart's STEP and root digest (R237). -/
def execTwinRootArrival (c : CtxId) (step : Word64) (root : List Byte) (s : State) :
    Host.Outcome State Fault Refusal :=
  .next (s.updCtx c fun x => { x with twin := some (step.toNat, sliceBytes root 0 64) })

/-! ## The result (R222 to R226, R238, R240 to R242, R438) -/

/-- The status of a failed vote: the code of the lowest combined cause bit (R236, R238). -/
def causeStatus (causes : Nat) : Nat :=
  match lowBit causes 6 with
  | some 0 => 0x0531
  | some 1 => 0x0532
  | some 2 => 0x0230
  | some 3 => 0x0231
  | some 4 => 0x0332
  | some 5 => 0x0830
  | _ => 0

/-- A failure that moves the numeric state: LOSS or GNORM set and EPOCH clear (R223, R226). -/
def numericFail (causes : Nat) : Bool := (bit causes 2 || bit causes 3) && !bit causes 0

/-- The next LS and GOOD (R223): LS is raised only below LS_MAX. -/
def nextScale (causes : Nat) (ls lo hi : Int) (good grow : Nat) : Int × Nat :=
  if causes = 0 then (if good + 1 = grow ∧ ls < hi then (ls + 1, 0) else (ls, (good + 1) % 2 ^ 32))
  else if numericFail causes then (max lo (ls - 1), 0)
  else (ls, good)

/-- The exponent of the largest finite value of an update-transfer format (R226). -/
def updExp (fmt : Nat) : Int :=
  match fmt with
  | 0 => 2
  | 1 => 2
  | 2 => 4
  | 3 => 8
  | 4 => 15
  | 6 => 15
  | _ => 127

/-- ⌊log2⌋ of a nonzero finite magnitude. -/
def floorLog2 (m : Nat) (e : Int) : Int := (bitLen m : Int) - 1 + e

/-- The next LRE of a layer with ADAPT (R226). `rho` is the largest running maximum of its trailers, `ovf` whether
one of them reports OVERFLOW. -/
def nextLre (causes : Nat) (lre : Int) (rho : Nat) (ovf : Bool) (eu : Int) (h : Nat) : Int :=
  let v :=
    if causes = 0 then
      match elemVal 7 rho with
      | .fin _ m e => if m = 0 then lre else lre + floorLog2 m e - (eu - (h : Int))
      | .inf _ => lre + 1
      | .nan => lre
    else if numericFail causes && ovf then lre + 1
    else lre
  max (-128) (min 127 v)

/-- The trailers of a layer: the largest running maximum, and whether one reports OVERFLOW (R108, R226). -/
def State.layerReports (s : State) (tag : Nat) (e : List Byte) : Nat × Bool × State :=
  (List.range (leAt e 12 2)).foldl (fun (a : Nat × Bool × State) b =>
    match a.2.2.kread tag [(leAt e 0 8 + 128 * b + 64, 16)] with
    | (some [t], s) => (max a.1 (leAt t 8 4), a.2.1 || bit (leAt t 12 1) 0, s)
    | (_, s) => (a.1, a.2.1, s)) (0, false, s)

/-- The new LRE bytes of the layer table (R226). -/
def State.nextLres (s : State) (tag causes h : Nat) (nsb lt : List Byte) : Nat → List Byte × State
  | 0 => ([], s)
  | n + 1 =>
    let (l, s) := State.nextLres s tag causes h nsb lt n
    let e := sliceBytes lt (16 * n) 16
    let old := nsbLre nsb n
    if !bit (leAt e 14 1) 0 then (l ++ toBytes (wrap old 8) 1, s)
    else
      let (rho, ovf, s) := s.layerReports tag e
      let (u, s) := s.kread tag [(leAt e 0 8 + 44, 2)]
      let fmt := match u with
        | some [d] => fld (leAt d 0 2) 0 4
        | _ => 7
      (l ++ toBytes (wrap (nextLre causes old rho ovf (updExp fmt) h) 8) 1, s)

/-- The numeric state after a vote: LS, GOOD and LRE set, every other byte as it stood (R223, R226, R240, R241). -/
def State.nextNsb (s : State) (tag causes : Nat) (d nsb : List Byte) : List Byte × State :=
  let n := leAt d 14 2
  let (lt, s) := s.kread tag [(leAt d 40 8, 16 * n)]
  let lt := match lt with
    | some [t] => t
    | _ => []
  let (ls, good) := nextScale causes (sByte nsb 0 2) (sByte nsb 2 2) (sByte nsb 4 2) (leAt nsb 8 4) (leAt nsb 6 2)
  let (lre, s) := s.nextLres tag causes (leAt nsb 12 1) nsb lt n
  (spliceBytes (spliceBytes (spliceBytes nsb 0 (toBytes (wrap ls 16) 2)) 8 (toBytes good 4)) 64 lre, s)

/-- The commit block after a vote (R201, R240, R241). -/
def commitBlock (cb : List Byte) (number causes stamp status rank epoch : Nat) : List Byte :=
  toBytes (if causes = 0 then number else leAt cb 0 8) 8 ++ toBytes (leAt cb 8 8 + b2n (causes ≠ 0)) 8 ++
    toBytes stamp 8 ++ toBytes status 2 ++ [0, 0] ++ toBytes rank 4 ++ toBytes epoch 8 ++ List.replicate 24 0

/-- A time of the step report: units of 64 ns, saturating (R438). -/
def reportTime (ns : Nat) : List Byte := toBytes (sat32 (ns / 64)) 4

/-- The step report (R438). -/
def stepReport (x : StepRun) (status causes rank result : Nat) : List Byte :=
  toBytes x.number 8 ++ toBytes status 2 ++ toBytes causes 1 ++ [0] ++ toBytes rank 4 ++ toBytes x.openStamp 8 ++
    toBytes x.localStamp 8 ++ toBytes result 8 ++
    (match x.evalFault with | some (c, p) => toBytes c 2 ++ toBytes p 1 | none => [0, 0, 0]) ++
    List.replicate 21 0 ++
    ((List.range 16).map fun p =>
      reportTime (x.gap.get 0 p) ++ reportTime (x.fill.get 0 p) ++ reportTime (x.delay.get 0 p) ++ [0, 0, 0, 0]).flatten ++
    List.replicate 64 0

/-- After a passing vote every die serves the new version; then PENDING clears (R242, R354). -/
def State.serveVersion (s : State) (c number : Nat) : State :=
  [0, 1, 2, 3].foldl (fun s k => s.setReg (rshOff k + 0x400 + 16 * c) (BitVec.ofNat 32 number)) s

/-- Apply a vote's result to an open step (R223, R226, R240 to R242, R438). -/
def State.applyVote (s : State) (c : Nat) (x : StepRun) (r : List Byte) : State :=
  let tag := s.ctxTag c
  let (st, s) := s.stamp 0 0
  let causes := leAt r 16 1 % 64
  let status := causeStatus causes
  let rank := if causes = 0 then 0xFFFFFFFF else leAt r 20 4
  let number := x.number
  let cur := nsbAt x.desc (number - 1)
  let s := match s.kread tag [(cur, 1088)] with
    | (some [nsb], s) =>
      let (n, s) := s.nextNsb tag causes x.desc nsb
      if causes = 0 then s.kwrite tag (nsbAt x.desc number) n else if n = nsb then s else s.kwrite tag cur n
    | (_, s) => s
  let (cb, s) := s.kread tag [(leAt x.desc 72 8, 64)]
  let cb := match cb with
    | some [d] => d
    | _ => toBytes (number - 1) 8 ++ List.replicate 56 0
  let s := s.kwrite tag (leAt x.desc 72 8) (commitBlock cb number causes st status rank (leAt r 8 8))
  let s := s.journal c Journal.reset
  let s := if causes = 0 then s.serveVersion c number else s
  let s := s.clearPending c
  let s := s.kwrite tag (leAt x.desc 96 8) (stepReport x status causes rank st)
  let s := s.updCtx c fun y => { y with step := none, twin := none }
  match x.mb with
  | some m => (s.mbResult m 0 (toBytes (if causes = 0 then number else leAt cb 0 8) 8)).mbDone m status
  | none => s

/-- The result of the round has reached the keystone (R238). -/
def State.voteResult (s : State) (c : Nat) : State :=
  match (s.ctx c).step with
  | some x => (match x.result with
    | some r => s.applyVote c x r
    | none => s)
  | none => s

end Sys2Proof.Machine
end

