-- ==== Sys2Proof/Machine/Serving.lean ====
section
/-! DEFINITION. Serving: streams, toll lanes, steps, the KV block table, rings and adapters (chapter 10; R437). -/
namespace Sys2Proof.Machine
open Sys2Proof

/-! ## The serving descriptor and the request descriptor (R388, R393) -/

/-- A field of a serving descriptor. -/
abbrev sdTemplate (d : List Byte) : Nat := leAt d 0 8
abbrev sdCount (d : List Byte) : Nat := leAt d 8 4
abbrev sdBudget (d : List Byte) : Nat := leAt d 12 2
abbrev sdPrefillMin (d : List Byte) : Nat := leAt d 14 2
abbrev sdSlots (d : List Byte) : Nat := leAt d 16 2
abbrev sdChunkMax (d : List Byte) : Nat := leAt d 18 2
abbrev sdDrafts (d : List Byte) : Nat := leAt d 20 1
abbrev sdInflight (d : List Byte) : Nat := leAt d 21 1
abbrev sdRetry (d : List Byte) : Nat := leAt d 22 1
abbrev sdKbase (d : List Byte) : Nat := leAt d 24 4
abbrev sdKcount (d : List Byte) : Nat := leAt d 28 4
abbrev sdSbase (d : List Byte) : Nat := leAt d 32 2
abbrev sdScount (d : List Byte) : Nat := leAt d 34 2
abbrev sdMaxPos (d : List Byte) : Nat := leAt d 36 4
abbrev sdBatch (d : List Byte) (k : Nat) : Nat := leAt d (40 + 8 * (k % 2)) 8
abbrev sdOut (d : List Byte) (k : Nat) : Nat := leAt d (56 + 8 * (k % 2)) 8
abbrev sdBlist (d : List Byte) : Nat := leAt d 72 8
abbrev sdCredit (d : List Byte) : Nat := leAt d 80 8
abbrev sdWeights (d : List Byte) (k : Nat) : Nat := leAt d (88 + 8 * (k % 2)) 8
abbrev sdLanding (d : List Byte) : Nat := leAt d 106 2
abbrev sdPool (d : List Byte) : Nat := leAt d 112 8
abbrev sdPoolLen (d : List Byte) : Nat := leAt d 120 8

/-- SPEC, LOGPROB and ADAPTER_EN of a request. -/
abbrev rqSpec (q : List Byte) : Bool := bit (leAt q 3 1) 0
abbrev rqLogprob (q : List Byte) : Bool := bit (leAt q 3 1) 1
abbrev rqAdapter (q : List Byte) : Bool := bit (leAt q 3 1) 2

/-- Change the serving state of a context. -/
def State.updServe (s : State) (c : Nat) (f : Serve → Serve) : State :=
  s.updCtx c fun x => { x with serve := x.serve.map f }

/-- Toll lane l. -/
def State.lane (s : State) (l : Nat) : Lane := s.ks.lanes.get Lane.reset l
/-- Change lane l. -/
def State.updLane (s : State) (l : Nat) (f : Lane → Lane) : State :=
  s.updKs fun k => { k with lanes := k.lanes.put l (f (s.lane l)) }
/-- Adapter slot a. -/
def State.adapter (s : State) (a : Nat) : Adapter := s.ks.adapters.get Adapter.reset a
/-- Change adapter slot a. -/
def State.updAdapter (s : State) (a : Nat) (f : Adapter → Adapter) : State :=
  s.updKs fun k => { k with adapters := k.adapters.put a (f (s.adapter a)) }

/-- An event of a serving context. -/
def State.serveEvent (s : State) (c code : Nat) (d : List Byte) : State :=
  s.record 0 0 code false (some (s.ctxTag c)) d

/-- Numbers of a context's streams that satisfy a test, rising. -/
def State.streamsOf (s : State) (c : Nat) (p : Stream → Bool) : List Nat :=
  (s.ks.streams.filter fun x => x.2.phase ≠ .free && x.2.ctx = c && p x.2).map (·.1)

/-- A stream that has started: it holds a reservation (R394, R395). -/
def Stream.started (x : Stream) : Bool := x.phase = .prefill || x.phase = .decode || x.phase = .ending

/-- Blocks that a request needs (R395). -/
def needBlocks (prompt maxNew : Nat) : Nat := cdiv (prompt + maxNew - 1) 16

/-- The request can start: the blocks not reserved for started streams are enough (R395). -/
def State.canStart (s : State) (c : Nat) (d : List Byte) (x : Stream) : Bool :=
  let used := ((s.streamsOf c Stream.started).map fun i =>
    needBlocks (s.stream i).promptLen (s.stream i).maxNew).sum
  decide (used + needBlocks x.promptLen x.maxNew ≤ sdKcount d)

/-! ## Rings and records (R409 to R413) -/

/-- RING, SIZE and the rest of a stream's ring descriptor. -/
def Stream.ringOf (x : Stream) : List Byte := x.ring.getD []

/-- The ring's room: SIZE less the records not consumed, 0 when they exceed SIZE (R412). -/
def Stream.room (x : Stream) : Nat := leAt x.ringOf 8 4 - (x.prod + 2 ^ 32 - x.cons % 2 ^ 32) % 2 ^ 32

/-- A record (R410), STAMP zero. -/
def streamRecord (token pos gen status flags seq logprob : Nat) : List Byte :=
  toBytes token 4 ++ toBytes pos 4 ++ List.replicate 8 0 ++ toBytes gen 2 ++ toBytes status 2 ++ toBytes flags 1 ++
    [0, 0, 0] ++ toBytes seq 4 ++ toBytes logprob 4

/-- Hand a record of stream i to the landing path: PROD counts it (R410, R412, R413). -/
def State.handRec (s : State) (i token pos status : Nat) (fin first noToken : Bool) (logprob : Nat) : State :=
  let x := s.stream i
  let ring := x.ringOf
  let size := leAt ring 8 4
  let landing := match (s.ctx x.ctx).serve with
    | some v => sdLanding v.desc
    | none => s.moduleId
  let flags := 1 - x.prod / size % 2 + 2 * b2n fin + 4 * b2n first + 8 * b2n noToken
  let next := (x.prod + 1) % 2 ^ 32
  let entry := toBytes (leAt ring 0 8 + 32 * (x.prod % size)) 8 ++ toBytes (leAt ring 16 8) 8 ++ toBytes next 4 ++
    toBytes (leAt ring 12 2) 2 ++ toBytes (leAt ring 14 2) 2 ++ List.replicate 8 0 ++
    streamRecord token pos x.gen status flags x.prod logprob
  let s := s.updStream i fun x => { x with prod := next }
  s.updKs fun k => { k with recs := k.recs ++ [{ landing := landing, stream := i, entry := entry }] }

/-- The entry lies in stream i's ring. -/
def State.inRing (s : State) (i : Nat) (e : List Byte) : Bool :=
  let ring := (s.stream i).ringOf
  decide (leAt ring 0 8 ≤ leAt e 0 8 ∧ leAt e 0 8 < leAt ring 0 8 + 32 * leAt ring 8 4)

/-- A record of the stream awaits redelivery (R396, R413). -/
def State.awaits (s : State) (i : Nat) : Bool :=
  s.ks.heldMsgs.any fun x => (pieces 64 64 x.2.payload).any fun e => s.inRing i e

/-- Send a group of records to its landing module; it waits behind records of the same stream that await redelivery
(R411, R413). -/
def State.sendGroup (s : State) (landing : Nat) (l : List StreamRec) : State :=
  let d := (l.map fun r => r.entry).flatten
  if l.any (fun r => s.awaits r.stream) then
    s.updKs fun k => { k with heldMsgs := k.heldMsgs ++ [(0, msgPkt 0 landing 0x0700 d)] }
  else s.sendMsg 0 landing 0x0700 d

/-- The records of each stream, which stand together. -/
def streamRuns : List StreamRec → List (List StreamRec)
  | [] => []
  | r :: l =>
    match streamRuns l with
    | (q :: g) :: t => if q.stream = r.stream then (r :: q :: g) :: t else [r] :: (q :: g) :: t
    | t => [r] :: t

/-- Gather the streams' records into packets of at most 64 entries; the records of a stream and a step stay in one packet
(DESIGN CHOICE, log entry 77), so that its PROD and vector follow the last of them (R411). -/
def packRecs : List (List StreamRec) → List StreamRec → List (List StreamRec)
  | [], cur => if cur = [] then [] else [cur]
  | g :: r, cur => if cur.length + g.length ≤ 64 then packRecs r (cur ++ g) else cur :: packRecs r g

/-- Send every record handed to the landing path: packets of at most 64 entries, one landing module each (R413). -/
def State.sendRecs (s : State) : State :=
  let l := s.ks.recs
  let s := s.updKs fun k => { k with recs := [] }
  ((l.map fun r => r.landing).dedup).foldl (fun s m =>
    (packRecs (streamRuns (l.filter fun r => r.landing = m)) []).foldl (fun s g => s.sendGroup m g) s) s

/-! ## The end of a stream (R394, R403, R414 to R416) -/

/-- A stream releases its KV blocks. -/
def State.releaseBlocks (s : State) (i : Nat) : State :=
  s.updKs fun k => { k with kv := k.kv.filter fun b => !(b.2.held && b.2.stream = i) }

/-- RETIRING adapter slots with no stream and no step become FREE, with event 0x0721 (R416). -/
def State.settleAdapter (s : State) (a : Nat) : State :=
  let x := s.adapter a
  if x.state = 2 ∧ x.refs = 0 ∧ x.steps = 0 then
    (s.updAdapter a fun _ => Adapter.reset).record 0 0 0x0721 false (some x.tag)
      (detail [(x.id, 4), (x.version, 4), (a, 2)])
  else s

/-- A stream reaches FREE: blocks, reservation and adapter pin go (R394). -/
def State.freeStream (s : State) (i : Nat) : State :=
  let x := s.stream i
  let s := s.updStream i fun x => { x with
    phase := .free, committed := 0, emitted := 0, fails := 0, drafts := [], rides := false, adapter := none }
  let s := (s.releaseBlocks i).updLane x.lane fun l => { l with queue := l.queue.filter (· ≠ i) }
  match x.adapter with
  | some a => (s.updAdapter a fun y => { y with refs := y.refs - 1 }).settleAdapter a
  | none => s

/-- The final record of a stream ended by a cancel or a failure (R410). -/
def State.finalRec (s : State) (i status : Nat) : State := s.handRec i 0 0 status true false true 0

/-- PROV of a stream's blocks is cleared (R405). -/
def State.clearProv (s : State) (i : Nat) : State :=
  s.updKs fun k =>
    { k with kv := k.kv.map fun b => if b.2.held ∧ b.2.stream = i then (b.1, { b.2 with prov := 0 }) else b }

/-- A slot no longer rides: the stream goes on from its committed length, or goes FREE when it was ENDING. -/
def State.unride (s : State) (i : Nat) : State :=
  let s := (s.updStream i fun x => { x with rides := false }).clearProv i
  if (s.stream i).phase = .ending then s.freeStream i else s

/-- The step that leaves gives back its adapter slots (R415, R416). -/
def State.stepAdapters (s : State) (pins : List Nat) : State :=
  pins.foldl (fun s a => (s.updAdapter a fun x => { x with steps := x.steps - 1 }).settleAdapter a) s

/-- The adapter slots a list of streams pins, each once. -/
def State.pinsOf (s : State) (l : List Nat) : List Nat := (l.filterMap fun i => (s.stream i).adapter).dedup

/-- The old weight copy is released once no step of its generation is composed and not applied (R417). -/
def State.settleSwap (s : State) (c : Nat) : State :=
  match (s.ctx c).serve with
  | some v =>
    (match v.swap with
     | some (m, gen) =>
       if v.steps.any (fun y => y.wgen = gen) then s
       else
         let s := (s.updServe c fun v => { v with swap := none }).serveEvent c 0x0720 (detail [(gen, 2), (gen % 2, 1)])
         if (s.takenCmd m 0x0708).isSome then (s.mbResult m 0 (toBytes gen 2)).mbDone m 0 else s
     | none => s)
  | none => s

/-- Abandon every step composed and not applied; no step is composed before the next serve-open (R418). -/
def State.abandonServe (s : State) (c : Nat) : State :=
  match (s.ctx c).serve with
  | none => s
  | some v =>
    let s := s.updServe c fun v => { v with steps := [], blocked := true }
    let drop (s : State) (y : ServeStep) : State :=
      let ids := y.slots.map fun t => t.stream
      let pins := s.pinsOf ids
      let s := ids.foldl (fun s i =>
        (s.updStream i fun x => { x with spepoch := (x.spepoch + 1) % 65536 }).unride i) s
      s.stepAdapters pins
    let s := v.steps.foldl drop s
    let s := match v.steps with
      | [] => s
      | y :: _ => s.serveEvent c 0x0723 (detail [(y.number, 8), (v.steps.length, 1)])
    s.settleSwap c

/-! ## Composing (R391, R395 to R400, R404, R405, R407, R408, R412) -/

/-- Read a stream's credit word (R412). -/
def State.readCredit (s : State) (tag : Nat) (d : List Byte) (i : Nat) : State :=
  match s.kread tag [(sdCredit d + 4 * (i - sdSbase d), 4)] with
  | (some [w], s) => s.updStream i fun x => { x with cons := leAt w 0 4 }
  | (_, s) => s

/-- Drafts that a decode slot carries (R407). -/
def Stream.ndraft (x : Stream) (d : List Byte) : Nat :=
  if rqSpec x.req then min (min x.drafts.length (sdDrafts d)) (x.maxNew - x.emitted - 1) else 0

/-- A decode stream is eligible (R396). -/
def State.eligible (s : State) (d : List Byte) (i : Nat) : Bool :=
  let x := s.stream i
  x.phase = .decode && !x.rides && decide (1 + x.ndraft d ≤ x.room) && !s.awaits i

/-- Insert by the last step ridden, then by number (R396). -/
def insertRode (s : State) (i : Nat) : List Nat → List Nat
  | [] => [i]
  | j :: r =>
    if (s.stream i).lastRode < (s.stream j).lastRode ∨ ((s.stream i).lastRode = (s.stream j).lastRode ∧ i < j) then
      i :: j :: r
    else j :: insertRode s i r

/-- Insert by order of start (R397). -/
def insertStart (s : State) (i : Nat) : List Nat → List Nat
  | [] => [i]
  | j :: r => if (s.stream i).order < (s.stream j).order then i :: j :: r else j :: insertStart s i r

/-- What a composition has taken so far. -/
structure Pick where
  slots : List ServeSlot
  tokens : Nat
deriving DecidableEq, Repr

/-- A slot of a stream; its epoch is raised when it is written (R408). -/
def State.slotOf (s : State) (i kind nd n : Nat) : ServeSlot :=
  let x := s.stream i
  { stream := i, gen := x.gen, epoch := (x.spepoch + 1) % 65536, kind := kind, ndraft := nd, pos := x.committed, n := n }

/-- Take eligible decode streams in order while a slot remains and the budget less P is kept (R396). -/
def State.takeDecode (s : State) (d : List Byte) (p : Nat) : List Nat → Pick → Pick
  | [], k => k
  | i :: r, k =>
    let nd := (s.stream i).ndraft d
    if k.slots.length < sdSlots d ∧ k.tokens + 1 + nd ≤ sdBudget d - p then
      s.takeDecode d p r { slots := k.slots ++ [s.slotOf i 0 nd (1 + nd)], tokens := k.tokens + 1 + nd }
    else k

/-- The chunk of a stream (R398). -/
def chunkOf (r chunkMax b d : Nat) : Nat :=
  let c := min (min r chunkMax) (min b d)
  if c = r then c else if 64 ≤ c / 16 * 16 then c / 16 * 16 else 0

/-- Prompt tokens of a stream that are not applied. -/
def Stream.left (x : Stream) : Nat := x.promptLen - x.committed

/-- One lane's streams in order, until one stops the visit (R397). -/
def State.visitStreams (s : State) (c l : Nat) (d : List Byte) : List Nat → Pick → Pick × State
  | [], k => (k, s)
  | i :: r, k =>
    let x := s.stream i
    let queued := x.phase = .queued
    let par := (s.streamsOf c fun y => y.phase = .prefill && y.lane = l).length
    if queued && ((s.lane l).par ≤ par || !s.canStart c d x) then (k, s)
    else
      let n := chunkOf x.left (sdChunkMax d) (sdBudget d - k.tokens) (s.lane l).deficit
      if n = 0 ∨ sdSlots d ≤ k.slots.length then (k, s)
      else
        let k' : Pick := { slots := k.slots ++ [s.slotOf i (if n = x.left then 2 else 1) 0 n], tokens := k.tokens + n }
        let s := s.updLane l fun y => { y with deficit := y.deficit - n, queue := y.queue.filter (· ≠ i) }
        let s := if queued then
            (s.updStream i fun x => { x with phase := .prefill, order := s.ks.starts }).updKs fun k =>
              { k with starts := k.starts + 1 }
          else s
        State.visitStreams s c l d r k'

/-- Visit lane l (R397). -/
def State.visitLane (s : State) (c : Nat) (d : List Byte) (l : Nat) (k : Pick) : Pick × State :=
  let y := s.lane l
  let pre := (s.streamsOf c fun x => x.phase = .prefill && x.lane = l && !x.rides).foldr (insertStart s) []
  if y.ctx ≠ some c ∨ (pre = [] ∧ y.queue = []) then (k, s.updLane l fun y => { y with deficit := 0 })
  else
    let s := s.updLane l fun y => { y with deficit := min (y.deficit + 64 * y.weight) (2 * sdChunkMax d) }
    s.visitStreams c l d (pre ++ y.queue) k

/-- The lowest FREE block of a range (R405). -/
def lowestFree (kv : Tab KvBlock) (b : Nat) : Nat → Nat
  | 0 => b
  | n + 1 => if (kv.get KvBlock.reset b).held then lowestFree kv (b + 1) n else b

/-- The block of a stream at index j, if it holds one. -/
def State.blockAt (s : State) (i j : Nat) : Option Nat :=
  (s.ks.kv.find? fun b => b.2.held && b.2.stream = i && b.2.index = j).map (·.1)

/-- Positions of block j that lie in pos to pos + n - 1. -/
def overlap (j pos n : Nat) : Nat := min (16 * j + 16) (pos + n) - max (16 * j) pos

/-- Bytes of a stream's block list. -/
def listBytes (d : List Byte) : Nat := 4 * cdiv (sdMaxPos d) 16

/-- The block at index j of a slot's stream: allocated and listed if the stream does not hold it, and PROV set
(R405). -/
def State.allocBlock (s : State) (tag : Nat) (d : List Byte) (t : ServeSlot) (j : Nat) : State :=
  let prov := overlap j t.pos t.n
  match s.blockAt t.stream j with
  | some b => s.updKs fun k => { k with kv := k.kv.put b { k.kv.get KvBlock.reset b with prov := prov } }
  | none =>
    let b := lowestFree s.ks.kv (sdKbase d) (sdKcount d)
    let s := s.kwrite tag (sdBlist d + (t.stream - sdSbase d) * listBytes d + 4 * j) (toBytes (b - sdKbase d) 4)
    s.updKs fun k =>
      { k with kv := k.kv.put b { held := true, committed := 0, prov := prov, stream := t.stream, gen := t.gen,
                                  tag := tag, index := j } }

/-- The 128 bytes of a slot (R400). -/
def State.slotBytes (s : State) (d : List Byte) (t : ServeSlot) : List Byte :=
  let x := s.stream t.stream
  let weights := match x.adapter with
    | some a => (s.adapter a).addr
    | none => 0
  let tokens := if t.kind = 0 then
      (toBytes x.lastToken.toNat 4 ++ ((x.drafts.take t.ndraft).map fun w => toBytes w.toNat 4).flatten) else []
  toBytes t.stream 2 ++ toBytes t.gen 2 ++ toBytes t.epoch 2 ++ toBytes t.kind 1 ++ toBytes t.ndraft 1 ++
    toBytes t.pos 4 ++ toBytes t.n 4 ++ toBytes (sdBlist d + (t.stream - sdSbase d) * listBytes d) 8 ++
    toBytes weights 8 ++ sliceBytes x.req 40 8 ++
    toBytes (if t.kind = 0 then 0 else leAt x.req 8 8 + 4 * t.pos) 8 ++ toBytes (b2n (rqLogprob x.req)) 1 ++
    List.replicate 15 0 ++ sliceBytes tokens 0 32 ++ List.replicate 32 0

/-- A slot's blocks, epoch and mark (R405, R408). -/
def State.rideSlot (s : State) (tag number : Nat) (d : List Byte) (t : ServeSlot) : State :=
  let j := t.pos / 16
  let s := (List.range ((t.pos + t.n - 1) / 16 + 1 - j)).foldl (fun s i => s.allocBlock tag d t (j + i)) s
  s.updStream t.stream fun x => { x with spepoch := t.epoch, rides := true, lastRode := number + 1 }

/-- A template entry for a buffer (R390). -/
def templateEntry (k : Nat) (d : List Byte) : ListEntry := { parseEntry d with start := leAt d (8 + 16 * (k % 2)) 8 }

/-- Compose one step from what was taken: the batch buffer is written, and the step waits for its submission
(R400, R417). -/
def State.composed (s : State) (c tag : Nat) (v : Serve) (d : List Byte) (p : Pick) : State :=
  let k := v.stepNo
  let (tmpl, s) := s.kread tag [(sdTemplate d, 32 * sdCount d)]
  let entries := match tmpl with
    | some [t] => (parseList (sdCount d) t).map (templateEntry k)
    | _ => []
  let (st, s) := s.stamp 0 0
  let s := p.slots.foldl (fun s t => s.rideSlot tag k d t) s
  let header := toBytes k 8 ++ toBytes v.wgen 2 ++ toBytes p.slots.length 2 ++ toBytes p.tokens 4 ++
    toBytes (sdWeights d v.wgen) 8 ++ toBytes st 8 ++ List.replicate 32 0
  let s := s.kwrite tag (sdBatch d k) (header ++ (p.slots.map fun t => s.slotBytes d t).flatten)
  let s := (s.pinsOf (p.slots.map fun t => t.stream)).foldl (fun s a =>
    s.updAdapter a fun x => { x with steps := x.steps + 1 }) s
  let y : ServeStep := { number := k, desc := d, wgen := v.wgen, slots := p.slots, entries := entries }
  s.updServe c fun v => { v with stepNo := v.stepNo + 1, steps := v.steps ++ [y] }

/-- Compose a step of a context (R396 to R400). -/
def State.compose (s : State) (c : Nat) (v : Serve) : State :=
  let tag := s.ctxTag c
  let d := v.nextDesc.getD v.desc
  let s1 := s.updServe c fun v => { v with desc := d, nextDesc := none }
  let s1 := (s1.streamsOf c fun x => x.phase = .decode && !x.rides).foldl (fun s i => s.readCredit tag d i) s1
  let elig := ((s1.streamsOf c fun _ => true).filter fun i => s1.eligible d i).foldr (insertRode s1) []
  let waiting := ((s1.streamsOf c fun x => x.phase = .queued || (x.phase = .prefill && !x.rides)).map fun i =>
    (s1.stream i).left).sum
  let p := s1.takeDecode d (min (sdPrefillMin d) waiting) elig { slots := [], tokens := 0 }
  let visit (a : Pick × State) (i : Nat) : Pick × State := a.2.visitLane c d ((v.lanePtr + i) % 64) a.1
  let (p, s2) := (List.range 64).foldl visit (p, s1)
  if p.slots = [] then s1
  else (s2.updServe c fun v => { v with lanePtr := (v.lanePtr + 1) % 64 }).composed c tag v d p

/-- STEP_COMPOSITION (R391, R396): while fewer than INFLIGHT steps are composed and not applied. -/
def execStepComposition (c : CtxId) (s : State) : Host.Outcome State Fault Refusal :=
  .next (match (s.ctx c).serve with
    | some v =>
      if s.isRunning && (s.ctx c).phase = .active && !v.blocked &&
          decide (v.steps.length < sdInflight (v.nextDesc.getD v.desc)) then s.compose c v
      else s
    | none => s)

/-- CREDIT_REREAD: the credit word of a stream that waits only for room is read again (R412). -/
def execCreditReread (c : CtxId) (stream : BitVec 14) (s : State) : Host.Outcome State Fault Refusal :=
  let x := s.stream stream.toNat
  .next (match (s.ctx c).serve with
    | some v =>
      if x.ctx = c.val && x.phase = .decode then s.readCredit (s.ctxTag c) v.desc stream.toNat else s
    | none => s)

/-! ## Submission (R210, R211, R390) -/

/-- An entry was reported with a nonzero status. -/
def ListEntry.bad (e : ListEntry) : Bool :=
  match e.status with
  | some r => decide (r.status ≠ 0)
  | none => false

/-- A task of the step ended with a nonzero status (R403). -/
def ServeStep.failing (y : ServeStep) : Bool := y.entries.any ListEntry.bad

/-- Submit what may be submitted of each step, oldest first; a pier with an entry of an older step to submit is shut
for the later ones. -/
def State.submitSteps (s : State) : List Nat → List ServeStep → List ServeStep × State
  | _, [] => ([], s)
  | shut, y :: r =>
    if y.failing then
      let (l, s) := State.submitSteps s shut r
      (y :: l, s)
    else
      let (e, s) := s.submitList false shut (y.entries.map s.gate)
      let (l, s) := State.submitSteps s (shut ++ (e.filter ListEntry.waits).map fun x => x.pier) r
      ({ y with entries := e } :: l, s)

/-- SERVING_SUBMIT (R390). -/
def execServingSubmit (c : CtxId) (s : State) : Host.Outcome State Fault Refusal :=
  .next (match (s.ctx c).serve with
    | some v =>
      if s.isRunning then
        let (l, s) := s.submitSteps [] v.steps
        s.updServe c fun v => { v with steps := l }
      else s
    | none => s)

/-! ## Applying and failing (R402, R403, R405) -/

/-- The entry passes the checks of R402, its counts within the ranges of R401. -/
def outOk (t : ServeSlot) (x : Stream) (d o : List Byte) : Bool :=
  let e := leAt o 4 1
  let accept := leAt o 5 1
  let next := leAt o 6 1
  leAt o 0 2 = t.stream && leAt o 2 2 = t.epoch && decide (accept ≤ t.ndraft) && decide (next ≤ sdDrafts d) &&
    (next = 0 || rqSpec x.req) &&
    (match t.kind with
     | 0 => e = accept + 1
     | 1 => e = 0 && accept = 0 && next = 0
     | _ => e = 1 && accept = 0)

/-- COMMITTED follows the committed length and PROV clears (R405). -/
def State.commitBlocks (s : State) (i len : Nat) : State :=
  s.updKs fun k =>
    { k with kv := k.kv.map fun b =>
        if b.2.held ∧ b.2.stream = i then (b.1, { b.2 with committed := min 16 (len - 16 * b.2.index), prov := 0 })
        else b }

/-- A token equals one of the request's STOP entries (R393, R402). -/
def stopToken (q : List Byte) (w : Nat) : Bool :=
  w ≠ 0xFFFFFFFF && (List.range 4).any fun i => leAt q (24 + 4 * i) 4 = w

/-- Take the emitted tokens in order; true when the stream has ended (R402). -/
def State.takeTokens (s : State) (i e : Nat) (o : List Byte) : List Nat → Bool × State
  | [] => (false, s)
  | j :: r =>
    let x := s.stream i
    let w := leAt o (8 + 4 * j) 4
    let fin := stopToken x.req w || decide (x.maxNew ≤ x.emitted + 1)
    let logprob := if rqLogprob x.req then leAt o (68 + 4 * j) 4 else 0
    let s := s.handRec i w (x.committed - e + 1 + j) 0 fin (x.emitted = 0) false logprob
    let s := s.updStream i fun x => { x with emitted := x.emitted + 1, lastToken := BitVec.ofNat 32 w }
    if fin then (true, s) else State.takeTokens s i e o r

/-- Apply one slot's entry (R402). -/
def State.applySlot (s : State) (d o : List Byte) (t : ServeSlot) : State :=
  let x := s.stream t.stream
  let i := t.stream
  if x.phase = .free ∨ x.gen ≠ t.gen ∨ x.spepoch ≠ t.epoch then s.unride i
  else if !outOk t x d o then ((s.finalRec i 0x0708).updStream i fun x => { x with rides := false }).freeStream i
  else
    let len := x.committed + (if t.kind = 0 then leAt o 5 1 + 1 else t.n)
    let s := s.updStream i fun x => { x with
      committed := len, rides := false, fails := 0, phase := if t.kind = 2 then .decode else x.phase }
    let s := s.commitBlocks i len
    let (fin, s) := s.takeTokens i (leAt o 4 1) o (List.range (leAt o 4 1))
    if fin then s.freeStream i
    else s.updStream i fun x => { x with
      drafts := (List.range (leAt o 6 1)).map fun j => BitVec.ofNat 32 (leAt o (40 + 4 * j) 4) }

/-- Apply a step (R402, R416, R417). -/
def State.applyStep (s : State) (c : Nat) (y : ServeStep) : State :=
  let tag := s.ctxTag c
  let pins := s.pinsOf (y.slots.map fun t => t.stream)
  let s := s.updServe c fun v => { v with steps := v.steps.drop 1 }
  let apply (s : State) (x : ServeSlot × Nat) : State :=
    match s.kread tag [(sdOut y.desc y.number + 128 * x.2, 128)] with
    | (some [o], s) => s.applySlot y.desc o x.1
    | (_, s) => s.applySlot y.desc [] x.1
  let s := (y.slots.zip (List.range y.slots.length)).foldl apply s
  ((s.stepAdapters pins).settleSwap c).sendRecs

/-- SERVING_STEP_APPLY: the oldest step, once every entry of it is reported with status 0 (R390, R402). -/
def execServingStepApply (c : CtxId) (s : State) : Host.Outcome State Fault Refusal :=
  .next (match (s.ctx c).serve with
    | some v => (match v.steps with
      | y :: _ => if y.entries.all fun e => e.status.isSome && !e.bad then s.applyStep c y else s
      | [] => s)
    | none => s)

/-- PSQ_CTRL.CLR_FAULT (R159). -/
def State.clrFault (s : State) (p : Nat) : State :=
  s.updPier p fun x => { x with seq := if x.seq = .faulted then .idle else x.seq }

/-- The earliest-reported task whose status is a cause (R403): status and TASK_ID. -/
def stepCause (l : List ListEntry) : Option TaskReport :=
  ((l.filterMap fun e => e.status).filter fun r => r.status ≠ 0 && r.status ≠ 0x0528 && r.status ≠ 0x052A).foldl
    (fun a r => match a with
      | none => some r
      | some b => if r.stamp < b.stamp then some r else some b) none

/-- A stream of a failed step (R403). -/
def State.failStream (s : State) (cause : Bool) (retry i : Nat) : State :=
  let s := (s.updStream i fun x => { x with rides := false }).clearProv i
  let x := s.stream i
  if x.phase = .ending then s.freeStream i
  else if !cause then s
  else if retry < x.fails + 1 then (s.finalRec i 0x0707).freeStream i
  else s.updStream i fun x => { x with fails := x.fails + 1 }

/-- Fail a step whose started tasks have all been reported (R403). -/
def State.failStep (s : State) (c : Nat) (y : ServeStep) : State :=
  let ids := y.slots.map fun t => t.stream
  let pins := s.pinsOf ids
  let cause := stepCause y.entries
  let s := s.updServe c fun v => { v with steps := v.steps.filter fun z => z.number ≠ y.number }
  let s := ((y.entries.map fun e => e.pier).dedup).foldl State.clrFault s
  let s := s.serveEvent c 0x0722
    (detail [(y.number, 8), ((cause.map fun r => r.status).getD 0, 2), ((cause.map fun r => r.id).getD 0, 2),
             (ids.length, 4)])
  let s := ids.foldl (fun s i => s.failStream cause.isSome (sdRetry y.desc) i) s
  ((s.stepAdapters pins).settleSwap c).sendRecs

/-- SERVING_STEP_FAIL: the oldest failing step, once its submitted tasks are all reported (R403). -/
def execServingStepFail (c : CtxId) (s : State) : Host.Outcome State Fault Refusal :=
  .next (match (s.ctx c).serve with
    | some v => (match v.steps.find? ServeStep.failing with
      | some y => if y.entries.all fun e => e.ser.isNone || e.status.isSome then s.failStep c y else s
      | none => s)
    | none => s)

/-! ## Records at the landing module (R410, R411, R413) -/

/-- Stamp and write one record. -/
def State.writeRec (s : State) (e : List Byte) : State :=
  let (st, s) := s.stamp 9 0
  s.hostWrite (leAt e 0 8) (spliceBytes (sliceBytes e 32 32) 8 (toBytes st 8))

/-- Entry e is the next record of the ring that entry x belongs to: the same PROD_ADDR, VECTOR and THRESH, the next SEQ,
and the next place, or place 0 after the last of SIZE. An entry names no stream, and this tells the streams apart even
where PROD_ADDR is 0 (DESIGN CHOICE, log entry 77). -/
def nextRecord (x e : List Byte) : Bool :=
  let a := leAt x 0 8
  let b := leAt e 0 8
  let seq := leAt e 56 4
  let size := (a - b) / 32 + 1
  leAt x 8 8 = leAt e 8 8 && leAt x 20 2 = leAt e 20 2 && leAt x 22 2 = leAt e 22 2 &&
    seq = (leAt x 56 4 + 1) % 2 ^ 32 &&
    (b = a + 32 || (decide (b < a) && (List.range 11).any (fun i => size = 2 ^ (6 + i)) && seq % size = 0))

/-- Count a written record for its ring. -/
def trackRec (l : List RingTrack) (e : List Byte) : List RingTrack :=
  let fin := bit (leAt e 52 1) 1
  if l.any fun t => nextRecord t.last e then
    l.map fun t => if nextRecord t.last e then { last := e, count := t.count + 1, fin := t.fin || fin } else t
  else l ++ [{ last := e, count := 1, fin := fin }]

/-- After the records of a step: PROD of a ring, and its vector when it is due (R411). -/
def State.ringDone (s : State) (t : RingTrack) : State :=
  let e := t.last
  let s := if leAt e 8 8 = 0 then s else s.hostWrite (leAt e 8 8) (sliceBytes e 16 4)
  if leAt e 20 2 ≠ 0xFFFF && (decide (leAt e 22 2 ≤ t.count) || t.fin) then
    let zero (u : RingTrack) : RingTrack := if u = t then { u with count := 0, fin := false } else u
    (s.updKs fun k => { k with recSince := k.recSince.map zero }).msix (leAt e 20 2)
  else s

/-- STREAM_RECORDS: the oldest packet of stream records at this landing module is stamped and written, and answered
(R411, R413). -/
def execStreamRecords (s : State) : Host.Outcome State Fault Refusal :=
  .next (match [0, 1, 2, 3].find? fun k => (s.msgFirst k 0x0700).isSome with
    | none => s
    | some k => match s.msgFirst k 0x0700 with
      | none => s
      | some p =>
        let s := s.msgTake k p
        if s.ks.phase = .held || !s.hp.up then s.nack k p 0x0709
        else
          let l := pieces 64 64 p.payload
          let s := l.foldl State.writeRec s
          let s := s.updKs fun k => { k with recSince := l.foldl trackRec k.recSince }
          ((s.ks.recSince.filter fun t => l.contains t.last).foldl State.ringDone s).answer k p 0x81 0 [])

/-- RECORD_RESEND: records answered NACK 0x0709 are sent again, 100 µs later (R413). -/
def execRecordResend (s : State) : Host.Outcome State Fault Refusal :=
  let l := s.ks.heldMsgs
  .next (l.foldl (fun s x => s.sendMsg x.1 x.2.dst 0x0700 x.2.payload)
    (s.updKs fun k => { k with heldMsgs := [] }))

/-! ## Commands (R389, R390, R392, R393, R409, R414 to R417, R437) -/

/-- A page of a range is owned by the context, with the permissions in a mask, and of an allowed kind. -/
def State.pageOk (s : State) (tag va mask : Nat) (kinds : List Nat) : Bool :=
  match s.xlEntry tag va with
  | none => false
  | some i =>
    let e := (s.xlate.get 0 i).toNat
    let w := s.owner (fld e 32 27)
    bit e 0 && fld e 8 18 = tag && e &&& mask = mask && kinds.contains (fld e 4 2) && fld w 18 3 = 1 && fld w 0 18 = tag

/-- Every page of a byte range passes. -/
def State.pagesOk (s : State) (tag va n mask : Nat) (kinds : List Nat) : Bool :=
  n = 0 || (decide (va + n ≤ 2 ^ 41) &&
    (List.range ((va + n - 1) / 2 ^ 21 + 1 - va / 2 ^ 21)).all fun i =>
      s.pageOk tag ((va / 2 ^ 21 + i) * 2 ^ 21) mask kinds)

/-- The field ranges of a serving descriptor (R388, R389). -/
def serveRanges (d : List Byte) : Bool :=
  decide (1 ≤ sdCount d ∧ sdCount d ≤ 256 ∧ 64 ≤ sdBudget d ∧ sdBudget d ≤ 16384 ∧ sdPrefillMin d ≤ sdBudget d ∧
    1 ≤ sdSlots d ∧ sdSlots d ≤ 4096 ∧ 64 ≤ sdChunkMax d ∧ sdChunkMax d ≤ 2048 ∧ sdChunkMax d % 16 = 0 ∧
    sdDrafts d ≤ 7 ∧ 1 ≤ sdInflight d ∧ sdInflight d ≤ 2 ∧ sdRetry d ≤ 15) &&
  decide (leAt d 23 1 = 0 ∧ leAt d 108 4 = 0 ∧ sdLanding d < 8192 ∧ 1 ≤ sdKcount d ∧ sdKcount d ≤ 262144 ∧
    sdSbase d ≤ 16383 ∧ 1 ≤ sdScount d ∧ sdScount d ≤ 16384 ∧ 16 ≤ sdMaxPos d ∧ sdMaxPos d ≤ 1048576 ∧
    sdSbase d + sdScount d ≤ 16384 ∧ sdKbase d + sdKcount d ≤ 262144)

/-- Two ranges overlap. -/
def rangesMeet (a n b m : Nat) : Bool := decide (a < b + m ∧ b < a + n)

/-- Another serving context holds part of the KV range or of the stream range (R389). -/
def State.serveOverlap (s : State) (c : Nat) (d : List Byte) : Bool :=
  s.ks.ctxs.any fun x => x.1 ≠ c && (match x.2.serve with
    | some v => rangesMeet (sdKbase d) (sdKcount d) (sdKbase v.desc) (sdKcount v.desc) ||
        rangesMeet (sdSbase d) (sdScount d) (sdSbase v.desc) (sdScount v.desc)
    | none => false)

/-- The fields that an open may not change while a stream is not FREE, as byte ranges (R389). -/
def serveFixed : List (Nat × Nat) := [(24, 16), (72, 32), (106, 2), (112, 16)]

/-- A template entry keeps R390. -/
def templateOk (e : List Byte) : Bool :=
  decide (leAt e 0 1 < 16) && leAt e 1 1 = 4 && !bit (leAt e 2 1) 6 && leAt e 3 1 = 0 && leAt e 22 2 = 0 &&
    leAt e 8 8 % 16 = 0 && leAt e 24 8 % 16 = 0

/-- The checks of R389 and R390. -/
def State.serveCheck (s : State) (c : Nat) (d : List Byte) : Bool × State :=
  let tag := s.ctxTag c
  let fixed := match (s.ctx c).serve with
    | some v => s.streamsOf c (fun _ => true) = [] ||
        serveFixed.all fun r => sliceBytes d r.1 r.2 = sliceBytes v.desc r.1 r.2
    | none => true
  if serveRanges d && !s.serveOverlap c d && s.pagesOk tag (sdPool d) (sdPoolLen d) 6 [0] && fixed then
    match s.kread tag [(sdTemplate d, 32 * sdCount d)] with
    | (some [t], s) => ((parseList (sdCount d) t).all templateOk, s)
    | (_, s) => (false, s)
  else (false, s)

/-- Take a serving descriptor: the first open sets all of it; a later one replaces the fields of serveFixed now, which
only a context with every stream FREE can change, and the rest at the next composition (R389). -/
def State.serveTake (s : State) (c : Nat) (d : List Byte) : State :=
  match (s.ctx c).serve with
  | some v =>
    let now := serveFixed.foldl (fun a r => spliceBytes a r.1 (sliceBytes d r.1 r.2)) v.desc
    s.updServe c fun v => { v with desc := now, nextDesc := some d, blocked := false }
  | none =>
    let fresh : Serve := { desc := d, nextDesc := none, wgen := leAt d 104 2, stepNo := 0, steps := [], lanePtr := 0,
                           blocked := false, swap := none }
    s.updCtx c fun x => { x with serve := some fresh }

/-- SERVE_OPEN (R388 to R390). -/
def execServeOpen (m : Mbx) (s : State) : Host.Outcome State Fault Refusal :=
  .next (s.command m 0x0701 fun s t =>
    let d := sliceBytes t.args 0 128
    match s.serveCheck t.ctx d with
    | (true, s) => (s.serveTake t.ctx d).mbDone m 0
    | (false, s) => s.mbDone m 0x070D)

/-- The lane holds a stream that forbids the command (R392). -/
def State.laneBusy (s : State) (c l : Nat) (unbind : Bool) : Bool :=
  s.ks.streams.any fun x => x.2.phase ≠ .free && x.2.lane = l && (x.2.ctx ≠ c || unbind)

/-- LANE (R392). -/
def execLane (m : Mbx) (s : State) : Host.Outcome State Fault Refusal :=
  .next (s.command m 0x0702 fun s t =>
    let l := t.arg 0 1
    let w := t.arg 1 1
    let par := t.arg 2 1
    if 63 < l ∨ (w ≠ 0 ∧ (par = 0 ∨ 16 < par)) then s.mbDone m 0x0504
    else if (s.ctx t.ctx).serve = none then s.mbDone m 0x0505
    else if s.laneBusy t.ctx l (w = 0) then s.mbDone m 0x0701
    else if w = 0 then (s.updLane l fun _ => Lane.reset).mbDone m 0
    else
      let fresh : Lane := { ctx := some t.ctx, weight := w, par := par, deficit := 0, queue := [] }
      (s.updLane l fun y => if y.ctx = some t.ctx then { y with weight := w, par := par } else fresh).mbDone m 0)

/-- Stream i lies in the range of a serving context and is FREE. -/
def State.freeIn (s : State) (c i : Nat) : Bool :=
  match (s.ctx c).serve with
  | some v => decide (sdSbase v.desc ≤ i ∧ i < sdSbase v.desc + sdScount v.desc) && (s.stream i).phase = .free
  | none => false

/-- The CURRENT adapter slot of an identifier in a context (R415). -/
def State.currentAdapter (s : State) (tag id : Nat) : Option Nat :=
  (s.ks.adapters.find? fun x => x.2.state = 1 && x.2.tag = tag && x.2.id = id).map (·.1)

/-- The checks of an admit, in order; 0 when all pass (R393). -/
def State.admitCheck (s : State) (c : Nat) (q : List Byte) : Nat :=
  let d := match (s.ctx c).serve with
    | some v => v.desc
    | none => []
  let i := leAt q 0 2
  let len := leAt q 4 4
  let maxNew := leAt q 16 4
  if (s.lane (leAt q 2 1)).ctx ≠ some c then 0x0701
  else if !s.freeIn c i then 0x0702
  else if len = 0 ∨ maxNew = 0 ∨ sdMaxPos d < len + maxNew ∨ (rqSpec q ∧ sdDrafts d = 0) ∨ 7 < leAt q 3 1 ∨
      leAt q 48 16 ≠ 0 then 0x0704
  else if (s.stream i).ring = none then 0x070E
  else if sdKcount d < needBlocks len maxNew then 0x0705
  else if rqAdapter q ∧ s.currentAdapter (s.ctxTag c) (leAt q 20 4) = none then 0x0703
  else 0

/-- Admit a request (R393). -/
def State.admitStream (s : State) (c : Nat) (q : List Byte) : State :=
  let i := leAt q 0 2
  let pin := if rqAdapter q then s.currentAdapter (s.ctxTag c) (leAt q 20 4) else none
  let s := s.updStream i fun x => { x with
    phase := .queued, gen := (x.gen + 1) % 65536, ctx := c, lane := leAt q 2 1, req := q, promptLen := leAt q 4 4,
    maxNew := leAt q 16 4, committed := 0, emitted := 0, fails := 0, drafts := [], lastToken := 0, lastRode := 0,
    rides := false, adapter := pin }
  let s := s.updLane (leAt q 2 1) fun y => { y with queue := y.queue ++ [i] }
  match pin with
  | some a => s.updAdapter a fun y => { y with refs := y.refs + 1 }
  | none => s

/-- ADMIT (R393). -/
def execAdmitStream (m : Mbx) (s : State) : Host.Outcome State Fault Refusal :=
  .next (s.command m 0x0703 fun s t =>
    let q := sliceBytes t.args 0 64
    let code := s.admitCheck t.ctx q
    if code ≠ 0 then s.mbDone m code
    else
      let s := s.admitStream t.ctx q
      (s.mbResult m 0 (toBytes (s.stream (leAt q 0 2)).gen 2)).mbDone m 0)

/-- A ring descriptor keeps R409. -/
def ringOk (d : List Byte) : Bool :=
  let size := leAt d 8 4
  leAt d 0 8 % 32 = 0 && [64, 128, 256, 512, 1024, 2048, 4096, 8192, 16384, 32768, 65536].contains size &&
    decide (1 ≤ leAt d 14 2 ∧ leAt d 14 2 ≤ size) && (decide (leAt d 12 2 ≤ 2047) || leAt d 12 2 = 0xFFFF) &&
    leAt d 16 8 % 4 = 0 && leAt d 24 8 = 0

/-- RING (R409). -/
def execRing (m : Mbx) (s : State) : Host.Outcome State Fault Refusal :=
  .next (s.command m 0x0704 fun s t =>
    let i := t.arg 0 2
    let d := sliceBytes t.args 8 32
    if !s.freeIn t.ctx i then s.mbDone m 0x0702
    else if !ringOk d then s.mbDone m 0x070E
    else (s.updStream i fun x => { x with ring := some d, prod := 0, cons := 0 }).mbDone m 0)

/-- CANCEL (R408, R414). -/
def execCancel (m : Mbx) (s : State) : Host.Outcome State Fault Refusal :=
  .next (s.command m 0x0705 fun s t =>
    let i := t.arg 0 2
    let x := s.stream i
    let inside := match (s.ctx t.ctx).serve with
      | some v => decide (sdSbase v.desc ≤ i ∧ i < sdSbase v.desc + sdScount v.desc)
      | none => false
    if !inside ∨ x.gen ≠ t.arg 2 2 then s.mbDone m 0x0702
    else if x.phase = .free ∨ x.phase = .ending then s.mbDone m 0
    else
      let s := (s.finalRec i 0x0706).sendRecs.updStream i fun x => { x with spepoch := (x.spepoch + 1) % 65536 }
      if x.rides then (s.updStream i fun x => { x with phase := .ending }).mbDone m 0
      else (s.freeStream i).mbDone m 0)

/-- The CURRENT slot of an identifier becomes RETIRING. -/
def State.retireAdapter (s : State) (tag id : Nat) : State :=
  match s.currentAdapter tag id with
  | some a => (s.updAdapter a fun y => { y with state := 2 }).settleAdapter a
  | none => s

/-- ADAPTER_LOAD (R415). -/
def execAdapterLoad (m : Mbx) (s : State) : Host.Outcome State Fault Refusal :=
  .next (s.command m 0x0706 fun s t =>
    let tag := s.ctxTag t.ctx
    let id := t.arg 0 4
    let same := match s.currentAdapter tag id with
      | some a => (s.adapter a).version = t.arg 4 4
      | none => false
    if same || !s.pagesOk tag (t.arg 8 8) (t.arg 16 8) 2 [0, 1] then s.mbDone m 0x070C
    else match (List.range 1024).find? fun a => (s.adapter a).state = 0 with
      | none => s.mbDone m 0x070B
      | some a =>
        let s := s.retireAdapter tag id
        let s := s.updAdapter a fun _ => {
            id := id, version := t.arg 4 4, tag := tag, state := 1, refs := 0, steps := 0, addr := t.arg 8 8,
            bytes := t.arg 16 8 }
        (s.mbResult m 0 (toBytes a 2)).mbDone m 0)

/-- ADAPTER_RETIRE (R415). -/
def execAdapterRetire (m : Mbx) (s : State) : Host.Outcome State Fault Refusal :=
  .next (s.command m 0x0707 fun s t =>
    let tag := s.ctxTag t.ctx
    if (s.currentAdapter tag (t.arg 0 4)).isNone then s.mbDone m 0x070C
    else (s.retireAdapter tag (t.arg 0 4)).mbDone m 0)

/-- WEIGHT_SWAP (R417). -/
def execWeightSwap (m : Mbx) (s : State) : Host.Outcome State Fault Refusal :=
  .next (s.command m 0x0708 fun s t =>
    match (s.ctx t.ctx).serve with
    | none => s.mbDone m 0x0505
    | some v =>
      if v.swap.isSome then s.mbDone m 0x070A
      else
        let s := s.mbWait m fun t => t
        (s.updServe t.ctx fun v => { v with wgen := (v.wgen + 1) % 65536, swap := some (m.val, v.wgen) }).settleSwap t.ctx)

end Sys2Proof.Machine
end

