-- ==== Sys2Proof/Machine/Fences.lean ====
section
/-! DEFINITION. Fence sequences: teardown, re-placement and pier reset; the fence of an abutment die; pages that end
their zeroing; the channel map (chapters 07, 08, 11, 13: R263 to R266, R284, R285, R329, R378 to R381, R446, R447,
R469, R477 to R480). -/
namespace Sys2Proof.Machine
open Sys2Proof

/-! ## The fence of an abutment die (R329) -/

/-- A fenced tag's far request ends without an answer: its unit's slot is free. -/
def State.retireFar (s : State) (k : Nat) (r : FarReq) : State :=
  let s := s.farEnd k r.txid
  match r.unit with
  | .engine p te id => (s.xferAnswered p te id r.txid).settleXfer p te id
  | .coll d => s.updColl d fun x => { x with sent := x.sent.erase r.txid }
  | .reshard _ => s
  | .hostCopy m => s.copyAnswered m r (some 0x0304)
  | .feeder _ _ => s
  | .refetch _ _ _ => s
  | .bay _ => s
  | .keystone => s

/-- A write of ZL_SW_FENCE.TAG: descriptors of the tag close, its far requests end, its jobs are abandoned, and its
packets are dropped from now on (R329, R376). -/
def State.fenceSwitch (s : State) (k tag : Nat) : State :=
  let mine := (List.range 64).map fun i => 4 * i + k
  let s := (mine.filter fun d => (s.coll d).tag = tag).foldl State.closeColl s
  let s := s.abandonJobs k fun j => jobTag j.header = tag
  let s := ((s.die k).far.filter fun r => r.stag = tag).foldl (fun s r => s.retireFar k r) s
  let drop := (s.die k).held.filter fun p => p.tag = tag || p.stag = tag
  let s := drop.foldl (fun s _ => s.swStale k) s
  let s := s.updDie k fun x => { x with
    held := x.held.filter fun p => !(p.tag = tag || p.stag = tag), fenced := some tag, quiet := false }
  s.setRfld (swOff k + 4) 0 18 tag

/-- ZL_SW_FENCE_TAG (R329). -/
def execZlSwFenceTag (k : Die) (tag : Tag) (s : State) : Host.Outcome State Fault Refusal :=
  .next (s.fenceSwitch k tag.toNat)

/-- Traffic with the fenced tag remains in the die's buffers or trackers (R329 step 4). -/
def State.fencedTraffic (s : State) (k : Nat) : Bool :=
  match (s.die k).fenced with
  | none => false
  | some tag =>
    let mine (p : Packet) : Bool := p.tag = tag || p.stag = tag
    (s.die k).inbox.any mine || (s.die k).held.any mine || ((s.die k).far.any fun r => r.stag = tag) ||
      ((List.range 6).any fun i =>
        let x := s.link (6 * k + i)
        x.txq.any (fun f => mine f.pkt) || x.unacked.any fun f => mine f.pkt) ||
      (s.tallies.any fun t => t.cross = some k && t.tag = tag) ||
      ((List.range 64).any fun i => (s.coll (4 * i + k)).refused.any mine)

/-! ## Generations and tags (R379, R446, R469) -/

/-- Piers of a context's placement. -/
def State.piersOf (s : State) (c : Nat) : List Nat := (List.range 16).filter fun p => (s.pier p).serves = some c

/-- Raise a context's generation; at the first raise and every 1,024 after it a value 1,024 above is recorded in the
settings store, unless nothing is written there yet (R446, R469, R532). -/
def State.raiseGen (s : State) (c : Nat) : State :=
  s.updCtx c fun x =>
    let gen := (x.gen + 1) % 4096
    { x with gen := gen, lastRaise := some s.elapsed, raises := x.raises + 1,
             recorded := if x.raises % 1024 = 0 && !s.ks.storeLocked then (gen + 1024) % 4096 else x.recorded }

/-- Write a new tag into every page-owner word and translation entry of the old one, and into the keystone's serving
tables (R379 step 3). -/
def State.retagPages (s : State) (old new : Nat) : State :=
  let owners := s.owners.map fun x =>
    if fld x.2.toNat 0 18 = old ∧ fld x.2.toNat 18 3 = 1 then (x.1, BitVec.ofNat 32 (setFld x.2.toNat 0 18 new)) else x
  let xlate := s.xlate.map fun x =>
    if fld x.2.toNat 8 18 = old then (x.1, BitVec.ofNat 128 (setFld x.2.toNat 8 18 new)) else x
  let old' := s.xlate.filter fun x => fld x.2.toNat 8 18 = old
  let s := (({ s with owners := owners, xlate := xlate } : State).replicaWrites old'.length).invalidate (old'.map (·.1))
  s.updKs fun k => { k with
    kv := k.kv.map fun b => if b.2.tag = old then (b.1, { b.2 with tag := new }) else b,
    adapters := k.adapters.map fun a => if a.2.tag = old then (a.1, { a.2 with tag := new }) else a }

/-- A sequencer whose tasks have been reported returns to IDLE (R159, R160). -/
def PierState.rest (x : PierState) : PierState :=
  { x with seq := match x.seq with
      | .faulted => .idle
      | .halted => .idle
      | q => q }

/-- Return a pier to IDLE and clear HALT. -/
def State.restPier (s : State) (p : Nat) : State :=
  (s.updPier p PierState.rest).setRfld (psqOff p) 1 1 0

/-- Every task of the pier has been reported. -/
def PierState.drained (x : PierState) : Bool :=
  x.started = [] && x.taskQueue = [] && x.run.isNone && (x.seq = .idle || x.seq = .faulted || x.seq = .halted)

/-- A pier joins a context: it takes the tag and its sequencer is armed (R378). -/
def State.joinPier (s : State) (c p : Nat) : State :=
  ((s.writeCtxTag p (s.ctxTag c)).updPier p fun x => { x with serves := some c }).setRfld (psqOff p) 0 1 1

/-- A pier is released: ARM is cleared, the tag stays (R437 PIERS). -/
def State.releasePier (s : State) (p : Nat) : State :=
  (s.updPier p fun x => { x with serves := none }).setRfld (psqOff p) 0 1 0

/-- Entries of TASKS lists not yet submitted at a pier end with the aborted tasks. -/
def State.dropEntries (s : State) (c p : Nat) : State :=
  let (st, s) := s.stamp 0 0
  let gone (e : ListEntry) : ListEntry :=
    if e.pier = p ∧ e.ser = none ∧ e.status = none then
      { e with status := some { ser := 0, id := e.taskId, status := 0x052A, endCode := 0, stamp := st } }
    else e
  (s.updKs fun k => { k with lists := k.lists.map fun l =>
    if l.ctx = c then { l with entries := l.entries.map gone } else l }).settleLists

/-- Abort the tasks of a context's piers (R160), with the list entries that were to follow them. -/
def State.abortCtx (s : State) (c : Nat) : State :=
  (s.piersOf c).foldl (fun s p => (s.abortTasks p).dropEntries c p) s

/-- An open step of the context fails its vote with TASK (R214, R379, R478). -/
def State.failOpenStep (s : State) (c : Nat) : State :=
  s.updCtx c fun x => { x with step := x.step.map fun r => { r with taskFault := true } }

/-! ## A command that waits loses its work (R434, R446) -/

/-- No unit keeps the mailbox of a command that has ended. -/
def State.detachMb (s : State) (m : Nat) : State :=
  let off (j : ReshardJob) : ReshardJob := if j.mb = some m then { j with mb := none } else j
  let s := [0, 1, 2, 3].foldl (fun s k => s.updDie k fun x => { x with
    jobs := x.jobs.map off, running := x.running.map off }) s
  let unclose (w : Nat × Window) : Nat × Window :=
    if w.2.closing = some m then (w.1, { w.2 with closing := some 256 }) else w
  let unstack (x : Nat × StackState) : Nat × StackState :=
    (x.1, { x.2 with windows := x.2.windows.map unclose })
  let unlink (x : Nat × LinkState) : Nat × LinkState :=
    if x.2.ctrlMb = some m then (x.1, { x.2 with ctrlMb := none }) else x
  let s := { s with stks := s.stks.map unstack, links := s.links.map unlink }
  let unswap (v : Serve) : Serve := match v.swap with
    | some (n, g) => if n = m then { v with swap := some (256, g) } else v
    | none => v
  let unstep (r : StepRun) : StepRun := if r.mb = some m then { r with mb := none } else r
  let unmap (u : Nat × List Nat) : Nat × List Nat := if u.1 = m then (256, u.2) else u
  let unctx (c : Nat × Context) : Nat × Context :=
    (c.1, { c.2 with
      step := c.2.step.map unstep, stepWait := c.2.stepWait.filter (· ≠ m), serve := c.2.serve.map unswap,
      unmapping := c.2.unmapping.map unmap })
  s.updKs fun k => { k with lists := k.lists.filter (fun l => l.mb ≠ m), ctxs := k.ctxs.map unctx }

/-- End a waiting command with a status: its finished work stays, nothing more of it is reported. -/
def State.endWait (s : State) (m status : Nat) : State := (s.detachMb m).mbDone m status

/-! ## Pier reset (R279, R478) -/

/-- A task that had started and not completed takes a status of the reset. -/
def StartedTask.reset (code : Nat) (t : StartedTask) : StartedTask := { t with status := some code }

/-- The statuses of R478 step 1: completed tasks keep their own, the earliest other takes `code`, the rest 0x052A. -/
def resetReports (done : StartedTask → Bool) (code : Nat) : List StartedTask → List StartedTask
  | [] => []
  | t :: r => if done t then t :: resetReports done code r else t.reset code :: r.map (StartedTask.reset 0x052A)

/-- Some window of the stack has a round that a reset abandons. -/
def State.roundsRun (s : State) (n : Nat) : Bool :=
  (s.stack n).windows.any fun w => w.2.state = .opn || w.2.state = .finishing

/-- Steps 1 and 2 of R478: Ready Map bit p clears, tasks are reported unless the reset runs from step 2 (R485), the die
and the controller are reset. -/
def State.resetPier (s : State) (p code : Nat) (report : Bool) : State :=
  let x := s.pier p
  let l := if !report then [] else resetReports x.reportable code x.started ++ x.taskQueue.map (endedTask 0x052A)
  let s := s.updPier p fun x => { x with
    ready := false, seq := .idle, taskQueue := [], run := none, started := [], fault := none, hold := none, queues := [],
    transfers := [], gaugeBuf := none, gaugeSkippedHeld := false, waitMs := 0, stuckMs := 0,
    vecBusy := 0, fetchBuf := [], cache := [],
    arrays := x.arrays.map fun a =>
      (a.1, { Array8.reset with acc := a.2.acc, zeroing := a.2.zeroing, nextNo := a.2.nextNo }) }
  let s := l.foldl (fun s t => s.reportTask p t 0) s
  let s := (s.setRfld (psqOff p) 1 1 0).abandonWins p (fun _ => true) .abandoned true true
  (s.settleCloses p).updStack p fun y => { y with quiet := true, resetting := true }

/-- A pier whose die and stack work is placeable (R19, R454). -/
def State.mayServe (s : State) (p : Nat) : Bool := (s.pier p).power = 0 && s.stackUp p

/-- Step 5 of R478; the reset of the stack's controller ends (R279). -/
def State.pierBack (s : State) (p : Nat) : State :=
  (s.updPier p fun x => { x with ready := s.mayServe p }).updStack p fun y => { y with resetting := false }

/-- Steps 5 to 7 of R478. -/
def State.resetEnd (s : State) (p : Nat) (mb : Option Nat) (change : Bool) (tags : Option (Nat × Nat)) : State :=
  let s := s.pierBack p
  let s := if change && s.ks.truss.member then (s.originate 5 s.moduleId []).2 else s
  let (old, new) := tags.getD (s.pier p |>.tag, 0)
  let s := s.record 0 0 0x0812 false none (detail [(p, 4), (old, 4), (new, 4)])
  match mb with
  | some m =>
    (s.mbResult m 0 (toBytes ((tags.map fun t => t.2).getD 0xFFFFFFFF) 4)).mbDone m 0
  | none => s

/-! ## The fence sequence (R379, R446, R447, R478) -/

/-- The context a sequence fences; none for a pier that serves none. -/
def Fence.piers (f : Fence) (s : State) : List Nat :=
  match f.kind with
  | .replace _ mask => (List.range 16).filter fun p => (s.pier p).serves = some f.ctx || bit mask p
  | _ => s.piersOf f.ctx

/-- The fences may be written: tasks reported, the vote of a re-placed context's step applied, 1 ms since the last
raise (R379, R446, R478). -/
def State.fenceReady (s : State) (f : Fence) : Bool :=
  let x := s.ctx f.ctx
  ((f.piers s).all fun p => (s.pier p).drained) &&
    (match f.kind with
     | .replace _ _ => x.step.isNone
     | _ => true) &&
    (match x.lastRaise with
     | some t => decide (t + 1000000 ≤ s.elapsed)
     | none => true)

/-- Step 2 of a teardown, after its tasks: streams, KV blocks, lanes, adapters, landing ranges, serve entry and
journal entry of the context go (R446). -/
def State.releaseCtx (s : State) (c tag : Nat) : State :=
  let s := s.updKs fun k => { k with adapters := k.adapters.filter fun a => a.2.tag ≠ tag }
  let s := (s.streamsOf c fun _ => true).foldl State.freeStream s
  let s := s.updKs fun k => { k with
    streams := k.streams.map fun x => if x.2.ctx = c then (x.1, { x.2 with ring := none, prod := 0, cons := 0 }) else x,
    lanes := k.lanes.filter fun l => l.2.ctx ≠ some c,
    journal := k.journal.del c }
  let s := [0, 1, 2, 3].foldl (fun s k =>
    ((List.range 16).filter fun n => s.lrTag k n = tag).foldl (fun s n =>
        (s.clearRegs (rshOff k + 0x100 + 32 * n) 8).updDie k fun x => { x with counts := x.counts.filter fun c => c.1 ≠ n })
      (s.clearRegs (rshOff k + 0x400 + 16 * c) 4)) s
  s.updCtx c fun x => { x with serve := none, shardTable := none, step := none, stepWait := [], twin := none }

/-- Write the fences of the 20 dies (R379 step 2, R446 step 3, R478 step 3). -/
def State.writeFences (s : State) (f : Fence) : State :=
  let s := (f.piers s).foldl State.restPier s
  let tag := s.ctxTag f.ctx
  let s := match f.kind with
    | .teardown _ => s.releaseCtx f.ctx tag
    | _ => s
  let s := [0, 1, 2, 3].foldl (fun s k => s.fenceSwitch k tag) s
  let s := (List.range 16).foldl (fun s n => s.fenceStack n tag) s
  s.updKs fun k => { k with fence := some { f with tag := tag, written := true, writtenAt := s.elapsed } }

/-- The entries of a context's two ranges, by table index. -/
def State.ctxEntries (s : State) (c : Nat) : List (Nat × BitVec 128) :=
  let x := s.ctx c
  s.xlate.filter fun e => bit e.2.toNat 0 &&
    (decide (x.lbase ≤ e.1 ∧ e.1 < x.lbase + x.lcount) ||
     decide (393216 + x.rbase ≤ e.1 ∧ e.1 < 393216 + x.rbase + x.rcount))

/-- Unmap translation entries: V = 0, and each local page begins to be zeroed; the pages to wait for (R263). -/
def State.unmapEntries (s : State) (l : List (Nat × BitVec 128)) : List Nat × State :=
  let pages := ((l.filter fun e => fld e.2.toNat 4 2 < 2).map fun e => fld e.2.toNat 32 27).dedup
  let s : State := { s with xlate := l.foldl (fun t e => t.put e.1 (BitVec.ofNat 128 (e.2.toNat / 2 * 2))) s.xlate }
  let s := (s.replicaWrites l.length).invalidate (l.map (·.1))
  let s := pages.foldl State.zeroPage s
  (pages.filter fun g => fld (s.owner g) 18 3 = 2, s)

/-- Steps 6 of a teardown: the ring goes, the event is raised, the context is FREE, the command completes (R446). -/
def State.teardownEnd (s : State) (c m : Nat) : State :=
  let new := s.ctxTag c
  let old := mkTag c ((s.ctx c).gen + 4095)
  let s := s.updCtx c fun x => { x with ring := EvRing.reset, phase := .free, unmapping := none }
  let s := s.record 0 0 0x0514 false none (detail [(c, 4), (old, 4), (new, 4)])
  if (s.takenCmd m 0x0502).isSome then s.mbDoneAll m else s

/-- Steps 4 and 5 of a teardown (R446). -/
def State.teardownGo (s : State) (f : Fence) (m : Nat) : State :=
  let c := f.ctx
  let ps := s.piersOf c
  let s := s.raiseGen c
  let tag := s.ctxTag c
  let s := ps.foldl (fun s p => (s.writeCtxTag p tag).releasePier p) s
  let l := s.ctxEntries c
  let (pages, s) := s.unmapEntries l
  let s := s.updCtx c fun x => { x with lcount := 0, rcount := 0, unmapping := some (m, pages) }
  let s := if (s.takenCmd m 0x0502).isSome then (s.mbTotal m l.length).mbProg m (l.length - pages.length) else s
  if pages = [] then s.teardownEnd c m else s

/-- Steps 3 to 5 of a re-placement (R379). -/
def State.replaceGo (s : State) (f : Fence) (m mask : Nat) : State :=
  let c := f.ctx
  let s := s.raiseGen c
  let new := s.ctxTag c
  let s := s.retagPages f.tag new
  let s := ((s.piersOf c).filter fun p => !bit mask p).foldl State.releasePier s
  let s := (Sys2Proof.Machine.setBits mask 16).foldl (fun s p => s.joinPier c p) s
  let s := s.record 0 0 0x0540 false (some new) (detail [(c, 4), (f.tag, 4), (new, 4)])
  if (s.takenCmd m 0x0504).isSome then s.mbDone m 0 else s

/-- Steps 4 to 7 of a pier reset (R478). -/
def State.pierResetGo (s : State) (f : Fence) (p : Nat) (mb : Option Nat) : State :=
  let c := f.ctx
  let s := s.raiseGen c
  let new := s.ctxTag c
  let s := s.retagPages f.tag new
  let s := (s.piersOf c).foldl (fun s p => s.writeCtxTag p new) s
  s.resetEnd p mb true (some (f.tag, new))

/-- Every die is quiet. -/
def State.allQuiet (s : State) : Bool :=
  ((List.range 16).all fun n => (s.stack n).quiet) && [0, 1, 2, 3].all fun k => (s.die k).quiet

/-- The last QUIET bit is set: the sequence goes on (R379, R446, R478). -/
def State.fenceDone (s : State) (f : Fence) : State :=
  let s := s.updKs fun k => { k with fence := none }
  match f.kind with
  | .teardown m => s.teardownGo f m
  | .replace m mask => s.replaceGo f m mask
  | .pierReset p _ mb _ => s.pierResetGo f p mb

/-- The mailbox of a sequence's command, if one waits. -/
def FenceKind.mb : FenceKind → Option Nat
  | .teardown m => some m
  | .replace m _ => some m
  | .pierReset _ _ mb _ => mb

/-- Complete a sequence's command with a status. -/
def State.fenceReply (s : State) (f : Fence) (status : Nat) : State :=
  match f.kind.mb with
  | some m => s.mbDone m status
  | none => s

/-- A sequence begins: a pier reset takes its steps 1 and 2 now, aborts the context's other piers, and ends at once
where the pier serves no context; after a fence failure none goes on (R478, R479). -/
def State.beginFence (s : State) (f : Fence) : State :=
  match f.kind with
  | .pierReset p cause mb _ =>
    let window := s.roundsRun p
    let s := s.resetPier p cause (mb.isNone || s.placeable p)
    (match (s.pier p).serves with
     | none => (s.updKs fun k => { k with fence := none }).resetEnd p mb window none
     | some c =>
       let s := ((s.failOpenStep c).abandonServe c).dropEntries c p
       let s := s.abortCtx c
       if s.ks.fenceDead then (s.updKs fun k => { k with fence := none }).fenceReply f 0x0814
       else s.updKs fun k => { k with fence := some { f with ctx := c, kind := .pierReset p cause mb window } })
  | _ => if s.ks.fenceDead then (s.updKs fun k => { k with fence := none }).fenceReply f 0x0814 else s

/-- Run the sequence that may go on, or begin the next one. -/
def State.fenceLoop : Nat → State → State
  | 0, s => s
  | n + 1, s =>
    match s.ks.fence with
    | some f => if !f.written && s.fenceReady f then s.writeFences f else s
    | none =>
      match s.ks.fences with
      | [] => s
      | f :: r => State.fenceLoop n ((s.updKs fun k => { k with fence := some f, fences := r }).beginFence f)

/-- Something that a fence sequence waits for may have happened. -/
def State.fencePoll (s : State) : State := s.fenceLoop (s.ks.fences.length + 2)

/-- Queue a fence sequence: one runs at a time (R447). -/
def State.addFence (s : State) (kind : FenceKind) (c : Nat) : State :=
  (s.updKs fun k => { k with fences := k.fences ++
    [{ kind := kind, ctx := c, tag := 0, written := false, writtenAt := 0 }] }).fencePoll

/-- A pier reset is raised (R476, R477, R485). -/
def State.startPierReset (s : State) (p cause : Nat) (mb : Option Nat) : State :=
  s.addFence (.pierReset p cause mb false) 64

/-- A QUIET bit is set; the last one of a sequence lets it go on. -/
def State.quietPoll (s : State) : State :=
  match s.ks.fence with
  | some f => if f.written && s.allQuiet then (s.fenceDone f).fencePoll else s
  | none => s

/-- DMC_FENCE_QUIET: no request with the fenced tag remains in the base die (R266). -/
def execDmcFenceQuiet (n : Stk) (s : State) : Host.Outcome State Fault Refusal :=
  .next ((s.updStack n fun x => { x with quiet := true }).quietPoll)

/-- SWITCH_FENCE_QUIET: no traffic with the fenced tag remains in the die (R329). -/
def execSwitchFenceQuiet (k : Die) (s : State) : Host.Outcome State Fault Refusal :=
  .next (if s.fencedTraffic k then s else (s.updDie k fun x => { x with quiet := true }).quietPoll)

/-- GENERATION_HOLDOFF_EXPIRY: 1 ms has passed since the last raise of the context of the running sequence (R446,
R478). -/
def execGenerationHoldoffExpiry (s : State) : Host.Outcome State Fault Refusal :=
  .next (match s.ks.fence with
    | some f => (s.updCtx f.ctx fun x => { x with lastRaise := none }).fencePoll
    | none => s)

/-- VOTE_RESULT (R238, R240, R241). -/
def execVoteResult (c : CtxId) (s : State) : Host.Outcome State Fault Refusal := .next (s.voteResult c).fencePoll

/-- The detail of 0x0508, 0x054B and 0x0814: dies not quiet, and the tag (R440). -/
def State.quietDetail (s : State) (tag : Nat) : List Byte :=
  let mask := (((List.range 16).filter fun n => !(s.stack n).quiet).map fun n => 2 ^ n).sum
  let dies := (([0, 1, 2, 3].filter fun k => !(s.die k).quiet).map fun k => 2 ^ k).sum
  detail [(mask, 2), (dies, 2), (tag, 4)]

/-- FENCE_TIMEOUT: the QUIET bits are not all set 100 µs after the fence writes (R379, R447, R479). -/
def execFenceTimeout (s : State) : Host.Outcome State Fault Refusal :=
  .next (match s.ks.fence with
    | none => s
    | some f =>
      if !f.written || s.allQuiet then s
      else
        let code := match f.kind with
          | .replace _ _ => 0x054B
          | _ => 0x0508
        let s := s.record 0 0 code true none (s.quietDetail f.tag)
        let s := if code = 0x0508 then s.orReg (ksOff + 0x30) 1 else s
        let s := (s.updKs fun k => { k with fence := none }).fenceReply f code
        let late := (List.range 16).filter fun n => !(s.stack n).quiet
        let held (s : State) (n : Nat) : State := match (s.pier n).serves with
          | some c => s.abandonServe c
          | none => s
        let s := late.foldl (fun s n => ((held s n).resetPier n 0x052A true).pierBack n) s
        let s := if [0, 1, 2, 3].all fun k => (s.die k).quiet then s
          else (s.record 0 0 0x0814 true none (s.quietDetail f.tag)).updKs fun k => { k with fenceDead := true }
        s.fencePoll)

/-- PIER_RESET (R477, R478). -/
def execPierReset (p : Pier) (s : State) : Host.Outcome State Fault Refusal :=
  .next (s.startPierReset p 0x052A none)

/-! ## The commands (R380, R437, R446, R455, R479) -/

/-- W commands of a context that wait end with 0x0507 (R446 step 1). -/
def State.endCtxWaits (s : State) (c m : Nat) : State :=
  ((s.waitingMbs fun t => t.ctx = c).filter (· ≠ m)).foldl (fun s n => s.endWait n 0x0507) s

/-- CTX_TEARDOWN (R446). -/
def execCtxTeardown (m : Mbx) (s : State) : Host.Outcome State Fault Refusal :=
  .next (s.command m 0x0502 fun s t =>
    let c := t.arg 0 1
    if 63 < c then s.mbDone m 0x0504
    else if t.ctx ≠ c then s.mbDone m 0x0502
    else if s.ks.fenceDead then s.mbDone m 0x0814
    else
      let s := (s.mbWait m fun t => t).updCtx c fun x => { x with phase := .teardown }
      let s := s.endCtxWaits c m
      let s := s.updCtx c fun x => { x with step := none, stepWait := [] }
      (s.abortCtx c).addFence (.teardown m) c)

/-- REPLACE (R379, R380). R380 refuses a pier that R19 calls not placeable, its domains off, with 0x054A; R455 ends a
command that joins a pier whose Ready Map bit is clear with 0x0104. A joining pier whose domains are on and whose bit is
clear meets R455, one whose domains are off R380 (DEDUCED, log entry 144). -/
def execReplace (m : Mbx) (s : State) : Host.Outcome State Fault Refusal :=
  .next (s.command m 0x0504 fun s t =>
    let c := t.ctx
    let mask := t.arg 0 2
    let new := Sys2Proof.Machine.setBits mask 16
    let recent := match (s.ctx c).lastRaise with
      | some x => decide (s.elapsed < x + 1000000)
      | none => false
    if s.ks.fenceDead then s.mbDone m 0x0814
    else if new.any fun p => (s.pier p).serves ≠ some c && (s.pier p).power = 0 && !s.placeable p then s.mbDone m 0x0104
    else if recent || new.any fun p => !s.placeable p || !((s.pier p).serves = none || (s.pier p).serves = some c) then
      s.mbDone m 0x054A
    else
      let s := s.mbWait m fun t => t
      let s := (s.failOpenStep c).abandonServe c
      (s.abortCtx c).addFence (.replace m mask) c)

/-! ## Pages that end their zeroing, and the channel map (R264, R265, R284 to R286) -/

/-- A page in a waiting UNMAP is FREE (R437 UNMAP). -/
def State.unmapDone (s : State) (page m : Nat) : State :=
  match s.takenCmd m 0x0303 with
  | none => s
  | some t =>
    let todo := t.todo.erase page
    let s := s.updMb m fun x => { x with taken := x.taken.map fun t => { t with todo := todo } }
    if todo = [] then s.mbDoneAll m else s.mbProg m (t.done + 1)

/-- A page of a teardown is FREE (R446 step 5). -/
def State.teardownPage (s : State) (page c : Nat) : State :=
  match (s.ctx c).unmapping with
  | none => s
  | some (m, l) =>
    if !l.contains page then s
    else
      let s := s.updCtx c fun x => { x with unmapping := some (m, l.erase page) }
      if l.erase page = [] then s.teardownEnd c m
      else if (s.takenCmd m 0x0502).isSome then
        s.mbProg m ((((s.mb m).taken.map fun t => t.done).getD 0) + 1)
      else s

/-- A page that was ZEROING is zeroed: an UNMAP or a teardown that waits for it goes on (R437, R446). -/
def State.pageZeroed (s : State) (g : Nat) : State :=
  let s := (s.waitingMbs fun t => t.opcode = 0x0303 && t.todo.contains g).foldl (fun s m => s.unmapDone g m) s
  (List.range 64).foldl (fun s c => s.teardownPage g c) s

/-- The memory that holds a page writes it with zeros (R264, R265, R290). -/
def State.zeroTraffic (s : State) (g : Nat) : State :=
  match place (g * 2 ^ 21) with
  | .stack n _ => s.add64 (dmcOff n + 0x30) (2 ^ 21)
  | .sram p _ => s.noteSram p (2 ^ 21)
  | _ => s

/-- ZERO_COMPLETE: every atom of a ZEROING page has been written with zeros; it becomes FREE (R264, R265). -/
def execZeroComplete (page : BitVec 27) (s : State) : Host.Outcome State Fault Refusal :=
  let g := page.toNat
  .next (if fld (s.owner g) 18 3 ≠ 2 then s
    else
      let s := { s with
        mem := Memory.clear s.mem (g * 2 ^ 21) (2 ^ 21),
        badAtoms := s.badAtoms.filter fun a => a / 2 ^ 15 ≠ g }
      ((s.zeroTraffic g).setOwner g 0).pageZeroed g)

/-- Channel c of stack n is mapped out: the granules of c move, and pages 23,808 to 24,575 are WITHDRAWN (R285). -/
def State.mapOut (s : State) (n c : Nat) : State :=
  (List.range 768).foldl (fun s i => s.setOwner (n * 32768 + 23808 + i) (4 * 2 ^ 18))
    (s.updStack n fun x => { x with mapped := some c })

/-- CHANNEL_MAP_OUT: once no page of the stack is OWNED, channel c is mapped out, every page is zeroed under the new
map, and the stack returns to service (R284 to R286). Pages that were ZEROING are zero with the rest. -/
def execChannelMapOut (n : Stk) (c : Fin 32) (s : State) : Host.Outcome State Fault Refusal :=
  let x := s.stack n
  let here (w : Nat × BitVec 32) : Bool := decide (n.val * 32768 ≤ w.1 ∧ w.1 < n.val * 32768 + 24576)
  let owned := s.owners.any fun w => here w && fld w.2.toNat 18 3 = 1
  .next (if !x.oos || x.dead || owned || !bit (s.reg (dmcOff n + 0xC)).toNat c then s
    else
      let zeroing := (s.owners.filter fun w => here w && fld w.2.toNat 18 3 = 2).map (·.1)
      let s := { s with
        mem := Memory.clear s.mem (stackAddr n 0) (48 * 2 ^ 30),
        badAtoms := s.badAtoms.filter fun a => a * 64 / 2 ^ 36 ≠ n.val,
        owners := s.owners.filter fun w => !here w }
      let s := s.mapOut n c
      let s := (s.add64 (dmcOff n + 0x30) (s.stackBytes n)).updStack n fun x => { x with oos := false }
      zeroing.foldl State.pageZeroed s)

end Sys2Proof.Machine
end

