-- ==== Sys2Proof/Machine/Registers.lean ====
section
/-! DEFINITION. What a read of BAR0 returns at every offset, how each register takes a write, and the rows of register
accesses (R5, R72, R422 to R425, R427, R454). -/
namespace Sys2Proof.Machine
open Sys2Proof

/-! ## How each word takes a write (R5, R68 to R72, R162 to R168, R199, R288 to R291, R346 to R349, R384 to R387, R451,
R452, R472, R509, R510, R550) -/

/-- The access of a word: reserved, read-only, with a row of its own, read-write, staged, write-1-to-clear, or sticky,
each with the bits that take part. -/
inductive RegAccess where
  | reserved
  | ro
  | ownRow
  | rw (mask : Nat)
  | rwc (mask : Nat)
  | w1c (mask : Nat)
deriving DecidableEq, Repr

/-- A word lies in a run of words. -/
def inRun (o lo hi : Nat) : Bool := lo ≤ o && o ≤ hi

/-- MAR_ words (R66 to R72). -/
def marAccess (o : Nat) : RegAccess :=
  if o = 0 then .ownRow else if o = 8 then .w1c 0xF else if inRun o 4 0x48 then .ro else .reserved
/-- PSQ_ words (R162 to R168). -/
def psqAccess (o : Nat) : RegAccess :=
  if o = 0 || o = 8 || o = 0x2C || inRun o 0x100 0x1FC then .ownRow
  else if o = 4 then .w1c 0x80
  else if o = 0x20 then .rw 0xFFFF
  else if o = 0x24 || o = 0x28 then .rw 0xFFFFFFFF
  else if o = 0x30 then .rwc 0xFFFF
  else if o = 0x34 then .rwc 0x3F
  else if inRun o 0xC 0x5C then .ro else .reserved
/-- VEC_ words (R199). -/
def vecAccess (o : Nat) : RegAccess :=
  if o = 0 then .ownRow else if o = 8 then .w1c 0xF else if o = 4 || inRun o 0x10 0x38 then .ro else .reserved
/-- DMC_ words (R288 to R291). -/
def dmcAccess (o : Nat) : RegAccess :=
  if o = 0 || o = 0x20 then .ownRow
  else if o = 8 then .w1c 0x3F
  else if o = 0x14 then .rwc 0x0FFFFFFF
  else if o = 0x18 then .rwc 0xFF
  else if o = 0x1C then .rwc 0xF
  else if o = 4 || o = 0xC || o = 0x10 || inRun o 0x28 0x5C || inRun o 0x400 0x7FC then .ro else .reserved
/-- ZL_ words of a link (R346). -/
def zlAccess (o : Nat) : RegAccess :=
  if o = 0 then .ownRow else if o = 8 then .w1c 0xF else if o = 0xC then .rwc 0x3F
  else if inRun o 4 0x38 then .ro else .reserved
/-- ZL_SW_ words (R347). -/
def swAccess (o : Nat) : RegAccess :=
  if o = 0 then .rwc 0xFFFF else if o = 4 then .ownRow else if o = 0xC then .w1c 0x3F
  else if inRun o 8 0x3C || inRun o 0x200 0x3FC then .ro else .reserved
/-- TS_ words (R349). -/
def tsAccess (o : Nat) : RegAccess :=
  if o = 0 || o = 0x18 || o = 0x1C then .ownRow else if o = 8 then .rwc 0x00FF07FF else if o = 0xC then .w1c 7
  else if inRun o 4 0x2C then .ro else .reserved
/-- LT_ words (R510). -/
def ltAccess (o : Nat) : RegAccess :=
  if o = 0x04 || o = 0x0C || o = 0x1C || o = 0x28 then .rw 0xFFFFFFFF
  else if o = 0x08 then .rw 0xFF
  else if o = 0x10 then .rw 0x00FF0FFF
  else if o = 0x14 then .rw 0x00FFFFFF
  else if o = 0x18 || o = 0x2C then .rw 0xFFFF
  else if o = 0x20 then .rw 0xFFFF00FF
  else if o = 0x24 then .rw 0x0FFF0FFF
  else if o = 0 || o = 0x30 then .ro else .reserved
/-- MGT_ words (R550). -/
def mgtAccess (o : Nat) : RegAccess :=
  if o = 4 then .rw 0xFFFFFF0E else if o = 0 || o = 8 then .ro else .reserved
/-- HP_ words in the diagnostic window (R424, R452): read-only there but for the fields that are staged. -/
def hpAccess (o : Nat) : RegAccess :=
  if o = 0xC then .rwc 0x1FFF0003 else if inRun o 0x40 0x7C then .rwc 0x9FFF
  else if inRun o 0 0x24 then .ro else .reserved
/-- CFG_ words (R472). -/
def cfgAccess (o : Nat) : RegAccess :=
  if o = 4 then .w1c 7
  else if o = 0x18 then .rw 0xFFFF000F
  else if o = 0x20 then .rwc 0x1FFF
  else if o = 0x24 then .rwc 0x00FFFFFF
  else if o = 0x28 then .rwc 0xFFFF
  else if inRun o 0x40 0x7C then .rwc 0x7F
  else if inRun o 0 0x1C || inRun o 0x30 0x34 || inRun o 0x80 0x10C then .ro else .reserved
/-- The words of a landing range (R386). -/
def lrAccess (w : Nat) : RegAccess :=
  if w = 0 || w = 2 || w = 3 then .rw 0xFFFFFFFF else if w = 1 then .rw 0xFFFF
  else if w = 4 then .rw 0x7FFFFFFF else .ro
/-- The words of a serve entry (R387). -/
def serveAccess (w : Nat) : RegAccess :=
  if w = 1 then .rw 3 else if w = 2 then .rw 0x07FFFFFF else .rw 0xFFFFFFFF
/-- RSH_ words (R384 to R387). -/
def rshAccess (o : Nat) : RegAccess :=
  if o = 0 || o = 0x10 || o = 0x14 then .ownRow
  else if o = 8 then .w1c 0x1F
  else if o = 0xC then .rwc 0xFFFF
  else if o = 4 || o = 0x18 || inRun o 0x20 0x5C then .ro
  else if inRun o 0x100 0x2FC then lrAccess (o % 32 / 4)
  else if inRun o 0x400 0x7FC then serveAccess (o % 16 / 4) else .reserved

/-- A word of the diagnostic window by its offset there (R424). -/
def diagAccess (d : Nat) : RegAccess :=
  if d < 0x8000 then marAccess (d % 0x100)
  else if 0x10000 ≤ d ∧ d < 0x14000 then psqAccess (d % 0x400)
  else if 0x18000 ≤ d ∧ d < 0x19000 then vecAccess (d % 0x100)
  else if 0x20000 ≤ d ∧ d < 0x28000 then dmcAccess (d % 0x800)
  else if 0x28000 ≤ d ∧ d < 0x28C00 then zlAccess (d % 0x80)
  else if 0x29000 ≤ d ∧ d < 0x2A000 then swAccess (d % 0x400)
  else if 0x2A000 ≤ d ∧ d < 0x2A040 then tsAccess (d % 0x40)
  else if 0x2A400 ≤ d ∧ d < 0x2A440 then ltAccess (d % 0x40)
  else if 0x2A800 ≤ d ∧ d < 0x2A900 then mgtAccess (d % 0x100)
  else if 0x2AC00 ≤ d ∧ d < 0x2AD00 then hpAccess (d % 0x100)
  else if 0x2B000 ≤ d ∧ d < 0x2C000 then cfgAccess (d % 0x1000)
  else if 0x2C000 ≤ d ∧ d < 0x2E000 then rshAccess (d % 0x800)
  else if inRun d 0x40000 0x5FFFC || inRun d 0x60000 0x6BFFC || inRun d 0x100000 0x2FFFFC then .ro
  else if 0x300000 ≤ d ∧ d < 0x500000 then (if d % 0x20000 < 0x18000 then .ro else .reserved)
  else if 0x500000 ≤ d ∧ d < 0x502000 then (if d % 0x200 < 320 then .ro else .reserved)
  else if 0x510000 ≤ d ∧ d < 0x520000 then .ro
  else if 0x800000 ≤ d ∧ d < 0x1000000 then .ro
  else .reserved

/-- Where the fields of a diagnostic-window word are held: the HP_ mirror shares the words of BAR0 (R424). -/
def diagHome (d : Nat) : Nat := if 0x2AC00 ≤ d ∧ d < 0x2AD00 then hpOff + d % 0x100 else 0x1000000 + d

/-- The RWC bits of a word, by its offset in the diagnostic window; zero where it holds none (R456). -/
def rwcMask (d : Nat) : Nat := if d % 4 ≠ 0 then 0 else match diagAccess d with
  | .rwc m => m
  | _ => 0

/-- Every diagnostic-window word that holds an RWC field, in ascending order. -/
def rwcWords : List Nat :=
  ((List.range 16).map fun p => [0x10030 + 0x400 * p, 0x10034 + 0x400 * p]).flatten ++
  ((List.range 16).map fun n => [0x20014 + 0x800 * n, 0x20018 + 0x800 * n, 0x2001C + 0x800 * n]).flatten ++
  ((List.range 24).map fun l => 0x2800C + 0x80 * l) ++ ((List.range 4).map fun k => 0x29000 + 0x400 * k) ++
  [0x2A008, 0x2AC0C] ++ ((List.range 16).map fun b => 0x2AC40 + 4 * b) ++ [0x2B020, 0x2B024, 0x2B028] ++
  ((List.range 16).map fun p => 0x2B040 + 4 * p) ++ ((List.range 4).map fun k => 0x2C00C + 0x800 * k)

/-! ## Present values that units show (R69, R163, R199, R288, R346, R347, R349, R384, R451, R472) -/

/-- The keystone's state as KS_STATUS shows it: a tripped module is held, a restarting keystone reads BOOT (R451, R483,
R546). -/
def State.ksState (s : State) : Nat :=
  if s.ks.resetting then 0
  else if s.tripped && (s.ks.phase = .held || s.ks.phase = .running) then 1
  else match s.ks.phase with
    | .boot => 0 | .held => 1 | .running => 2 | .recovery => 3

/-- One bit of the Ready Map (R454). -/
def State.readyBit (s : State) (i : Nat) : Bool :=
  if i < 16 then s.placeable i
  else if i < 32 then s.stackUp (i - 16) && !(s.stack (i - 16)).retain
  else if i < 56 then (s.link (i - 32)).phase = .up
  else if i < 60 then (s.die (i - 56)).shareUp
  else if i < 64 then (s.die (i - 60)).switchUp
  else if i < 68 then (s.die (i - 64)).switchUp
  else if i = 68 then s.hp.up
  else if i = 69 then s.ksState = 1 || s.ksState = 2
  else if i = 70 then s.ksState = 2
  else if i = 71 then s.ts.phase = .locked
  else if i = 72 then bit (s.reg mgtOff).toNat 8
  else if i = 73 then [0, 1, 2, 3].all fun k => (s.die k).switchUp
  else false

/-- The Ready Map (R454). -/
def State.readyMap (s : State) : Nat := ((List.range 74).map fun i => b2n (s.readyBit i) * 2 ^ i).sum

/-- The staged set differs from the committed set (R456). -/
def State.dirty (s : State) : Bool :=
  (s.ks.staged.any fun x => s.reg x.1 ≠ x.2) ||
  (s.ks.stagedRoutes.any fun x => s.routes.get 0 x.1 ≠ x.2) || (s.ks.stagedFast.any fun x => s.fast.get 0 x.1 ≠ x.2)

/-- ZL_STATUS.STATE. -/
def LinkPhase.code : LinkPhase → Nat
  | .down => 0 | .training => 1 | .up => 2 | .failed => 3
/-- TS_STATUS.STATE. -/
def TimeState.code : TimeState → Nat
  | .free => 0 | .acquiring => 1 | .locked => 2 | .holdover => 3
/-- ZL_CE_WINn.STATE. -/
def CollState.code : CollState → Nat
  | .closed => 0 | .opn => 1 | .abandoned => 2
/-- CTX_STATE. -/
def CtxPhase.code : CtxPhase → Nat
  | .free => 0 | .active => 1 | .teardown => 2

/-- Tag and state of a context as CTX_TAG and KS_CTXn show them; the tag field resets to 0 and shows the tag once the
context has been created (R427, R451; DEDUCED, log entry 146). -/
def State.ctxWord (s : State) (c : Nat) : Nat :=
  (if (s.ctx c).created then s.ctxTag c else 0) + (s.ctx c).phase.code * 2 ^ 18

/-- A word of a MAR_ block; the block of a pair that is off reads zero (R466). -/
def State.marWord (s : State) (p a o : Nat) : Nat :=
  if (s.pier p).power ≠ 0 || !bit (s.pier p).arrOn (a / 2) then 0
  else if o = 4 then s.marStatus p a
  else if o = 0xC then (s.pier p).tag
  else (s.reg (marOff p a + o)).toNat

/-- A word of a PSQ_ block. PSQ_TASK_CUR.ID and PSQ_PC.WORD read 0 while no task dispatches (DESIGN CHOICE, log entry 126:
R164 gives them a meaning only for the task now dispatching). -/
def State.psqWord (s : State) (p o : Nat) : Nat :=
  let x := s.pier p
  if o = 4 then s.psqStatus p
  else if o = 8 then x.tag
  else if o = 0x18 then (x.run.map fun r => r.task.id).getD 0
  else if o = 0x1C then (x.run.map fun r => r.pc).getD 0
  else if inRun o 0x20 0x2C then 0
  else if inRun o 0x100 0x1FC then s.tc p ((o - 0x100) / 4)
  else (s.reg (psqOff p + o)).toNat

/-- A word of a VEC_ block; the block of an engine that is off reads zero (R466). -/
def State.vecWord (s : State) (p o : Nat) : Nat :=
  if (s.pier p).power ≠ 0 || !(s.pier p).vecOn then 0
  else if o = 4 then s.vecStatus p else (s.reg (vecOff p + o)).toNat

/-- A page of the stack is being zeroed. -/
def State.zeroing (s : State) (n : Nat) : Bool :=
  s.owners.any fun x => x.1 / 32768 = n && fld x.2.toNat 18 3 = 2

/-- A word of a DMC_ block. SCRUB is 1 while the patrol scrub runs on a stack in service: its passes follow one another
without a pause (DEDUCED, log entry 135). -/
def State.dmcWord (s : State) (n o : Nat) : Nat :=
  let x := s.stack n
  if o = 4 then
    s.rfld (dmcOff n + 4) 0 2 + 4 * b2n (x.oos || x.dead) + 8 * b2n (s.zeroing n) +
      16 * b2n (s.stackUp n && bit (s.reg (dmcOff n)).toNat 0) +
      32 * s.winsOpen n
  else if o = 0x20 then s.rfld (dmcOff n + 0x20) 0 18 + b2n x.quiet * 2 ^ 31
  else if inRun o 0x400 0x7FC then fld (s.win n ((o - 0x400) / 16)).word (32 * (o % 16 / 4)) 32
  else (s.reg (dmcOff n + o)).toNat

/-- A word of a ZL_ block. -/
def State.zlWord (s : State) (l o : Nat) : Nat :=
  let x := s.link l
  if o = 4 then x.phase.code + 8 * b2n x.replaying + 16 * x.step
  else if o = 0x10 then x.peerModule + x.peerLink * 2 ^ 16 + b2n x.peerValid * 2 ^ 31
  else (s.reg (zlOff l + o)).toNat

/-- A word of a ZL_SW_ block. -/
def State.swWord (s : State) (k o : Nat) : Nat :=
  if o = 4 then s.rfld (swOff k + 4) 0 18 + b2n (s.die k).quiet * 2 ^ 31
  else if inRun o 0x200 0x3FC then
    let x := s.coll (4 * ((o - 0x200) / 8) + k)
    if o % 8 = 0 then x.state.code + x.round % 2 ^ 16 * 2 ^ 16 else x.epoch
  else (s.reg (swOff k + o)).toNat

/-- A word of the TS_ block. -/
def State.tsWord (s : State) (o : Nat) : Nat :=
  if o = 4 then
    let seen : Bool := match s.ts.ppsSeen with
      | some x => decide (s.elapsed < x + 1100000000)
      | none => false
    s.ts.phase.code + 4 * s.ts.depth + 256 * b2n (s.rfld (tsOff + 8) 0 5 = 31) + 512 * b2n seen
  else if o = 0x10 then s.ts.count.toNat % 2 ^ 32
  else if o = 0x14 then s.ts.count.toNat / 2 ^ 32
  else if o = 0x18 || o = 0x1C then 0
  else (s.reg (tsOff + o)).toNat

/-- The array clock of a compute die in MHz, droop included (R463, R472). -/
def State.dieClock (s : State) (p : Nat) : Nat := s.clockMhz * (8 - s.phys.droop.get 0 p) / 8

/-- A word of the CFG_ block. -/
def State.cfgWord (s : State) (o : Nat) : Nat :=
  if o = 0 then
    b2n (s.ksState ≠ 2) + 2 * b2n s.ks.commit.isSome + 4 * b2n s.dirty +
      8 * b2n (s.ks.storeB.valid && (!s.ks.storeA.valid || s.ks.storeA.seq < s.ks.storeB.seq))
  else if inRun o 0x80 0xBC then
    let p := (o - 0x80) / 4
    if (s.pier p).power ≠ 0 then 0
    else s.dieClock p + s.phys.droop.get 0 p * 2 ^ 10 + (12 - s.phys.capStep) * 2 ^ 13
  else if inRun o 0x100 0x10C then fld s.readyMap (8 * (o - 0x100)) 32
  else (s.reg (cfgOff + o)).toNat

/-- A word of an RSH_ block (R377, R384, R385). -/
def State.rshWord (s : State) (k o : Nat) : Nat :=
  let x := s.die k
  if o = 4 then b2n x.running.isSome + 4 * x.jobs.length + 64 * b2n (x.held ≠ [])
  else if o = 0x10 || o = 0x14 then 0
  else
    let kept := (s.reg (rshOff k + o)).toNat
    if o = 0x18 then (x.running.map ReshardJob.bp).getD kept
    else if o = 0x20 then (x.running.map fun j => j.rowsDone).getD kept
    else if o = 0x24 then (x.running.map fun j => j.rowsTotal).getD kept
    else kept

/-- A KV block table entry (R404). -/
def KvBlock.word (b : KvBlock) : Nat :=
  if b.held then 1 + b.committed * 4 + b.prov * 2 ^ 7 + b.stream * 2 ^ 12 + b.gen * 2 ^ 26 + b.tag * 2 ^ 42 else 0

/-- An adapter slot as the diagnostic window shows it (R415, R424). -/
def Adapter.bytesOf (a : Adapter) : List Byte :=
  detail [(a.id, 4), (a.version, 4), (a.tag, 4), (a.state, 1), (a.steps, 1), (a.refs, 2), (a.addr, 8), (a.bytes, 8)]

/-- A word of the tables of the diagnostic window (R424). -/
def State.tableWord (s : State) (d : Nat) : Nat :=
  if d < 0x60000 then s.route (d % 0x8000 / 4)
  else if d < 0x6C000 then
    let i := d % 0x800 / 8
    let e := (s.fast.get 0 (256 * ((d - 0x60000) / 0x800) + i)).toNat
    if d % 8 = 4 then fld e 32 8 else if bit e 39 then s.route (i + 256 * fld e 32 5) else e % 2 ^ 32
  else if d < 0x300000 then fld (s.ks.kv.get KvBlock.reset ((d - 0x100000) / 8)).word (8 * (d % 8)) 32
  else if d < 0x500000 then s.owner ((d - 0x300000) / 0x20000 * 32768 + d % 0x20000 / 4)
  else if d < 0x502000 then s.owner (524288 + (d - 0x500000) / 0x200 * 128 + d % 0x200 / 4)
  else if d < 0x520000 then
    leAt (s.ks.adapters.get Adapter.reset ((d - 0x510000) / 64)).bytesOf (d % 64) 4
  else fld (s.xlate.get 0 ((d - 0x800000) / 16)).toNat (8 * (d % 16)) 32

/-- A word of the LT_ block; MINUTES falls as the enable runs (R507, R510). -/
def State.ltWord (s : State) (o : Nat) : Nat :=
  let w := (s.reg (ltOff + o)).toNat
  if o = 0 && s.ltOn then fld w 0 16 + (s.ks.ltMinutes - (s.elapsed - s.ks.ltSince) / 60000000000) * 2 ^ 16 else w

/-- A word of the HP_ block. -/
def State.hpWord (s : State) (o : Nat) : Nat := (s.reg (hpOff + o)).toNat

/-- A word of the diagnostic window (R424). -/
def State.diagWord (s : State) (d : Nat) : Nat :=
  if diagAccess d = .reserved then 0
  else if d < 0x8000 then s.marWord (d / 0x800) (d % 0x800 / 0x100) (d % 0x100)
  else if d < 0x14000 then s.psqWord ((d - 0x10000) / 0x400) (d % 0x400)
  else if d < 0x19000 then s.vecWord ((d - 0x18000) / 0x100) (d % 0x100)
  else if d < 0x28000 then s.dmcWord ((d - 0x20000) / 0x800) (d % 0x800)
  else if d < 0x28C00 then s.zlWord ((d - 0x28000) / 0x80) (d % 0x80)
  else if d < 0x2A000 then s.swWord ((d - 0x29000) / 0x400) (d % 0x400)
  else if d < 0x2A040 then s.tsWord (d % 0x40)
  else if d < 0x2A440 then s.ltWord (d % 0x40)
  else if d < 0x2AC00 then (s.reg (0x1000000 + d)).toNat
  else if d < 0x2AD00 then s.hpWord (d % 0x100)
  else if d < 0x2C000 then s.cfgWord (d % 0x1000)
  else if d < 0x2E000 then s.rshWord ((d - 0x2C000) / 0x800) (d % 0x800)
  else s.tableWord d

/-- A word of the KS_ block (R451). -/
def State.ksWord (s : State) (o : Nat) : Nat :=
  if o = 8 then s.ksState + 8 * b2n s.ltOn + 16 * b2n s.ks.fw.activation.isSome
  else if o = 0x20 then s.ks.log.prod % 2 ^ 32
  else if o = 0x24 then s.ks.log.cons
  else if o = 0x28 then s.ks.log.lost
  else if inRun o 0x40 0x5C then
    ((List.range 32).map fun i => b2n (s.mb (8 * (o - 0x40) + i)).owner * 2 ^ i).sum
  else if inRun o 0x100 0x1FC then
    let c := (o - 0x100) / 4
    s.ctxWord c + ((List.range 16).filter fun p => (s.pier p).serves = some c).length * 2 ^ 20
  else if inRun o 0x400 0x7FC then
    let x := s.mb ((o - 0x400) / 4)
    (match x.bound with
     | some (c, f) => c + f * 2 ^ 6 + 2 ^ 10
     | none => 0) + x.vector * 2 ^ 16
  else (s.reg (ksOff + o)).toNat

/-- OWN as it reads (R428, R431). -/
def Mailbox.own (x : Mailbox) : Nat := b2n x.owner + 2 * b2n x.cancel

/-- A byte of a mailbox as it reads: reserved bytes and bits of the header are zero (R6, R428). -/
def Mailbox.shown (x : Mailbox) (o : Nat) : Byte :=
  if o < 4 then BitVec.ofNat 8 (x.own / 256 ^ o)
  else if o = 6 ∨ o = 0xE then x.bytes.get 0 o &&& 3
  else if o = 7 ∨ o = 0xF ∨ inRun o 0x12 0x17 = true ∨ inRun o 0x30 0x3F = true then 0
  else x.bytes.get 0 o

/-- n bytes of a mailbox as they read. -/
def Mailbox.view (x : Mailbox) (o n : Nat) : List Byte := (List.range n).map fun i => x.shown (o + i)

/-- Four bytes of a mailbox (R428). -/
def Mailbox.word (x : Mailbox) (o : Nat) : Nat := ofBytes (x.view o 4)

/-- The mailbox that a frame of a context window shows (R429). -/
def State.frameMb (s : State) (c f : Nat) : Option Nat :=
  (s.ks.mbs.find? fun x => x.2.bound = some (c, f)).map (·.1)

/-- A word of the context page (R427). -/
def State.pageWord (s : State) (c o : Nat) : Nat :=
  if o = 0 then s.ctxWord c
  else if o = 8 then (s.ctx c).ring.prod % 2 ^ 32
  else if o = 0xC then (s.ctx c).ring.cons
  else if o = 0x10 then (s.ctx c).ring.lost
  else if o = 0x18 then s.ts.count.toNat % 2 ^ 32
  else if o = 0x1C then s.ts.count.toNat / 2 ^ 32
  else 0

/-- What BAR0 holds at a word (R422), before the snapshots of R72. -/
def State.liveWord (s : State) (off : Nat) : BitVec 32 :=
  BitVec.ofNat 32
    (if off < 0x400000 then
      let c := off / 0x10000
      let f := off % 0x10000 / 0x1000
      if f = 0 then s.pageWord c (off % 0x1000)
      else match s.frameMb c f with
        | some m => (s.mb m).word (off % 0x1000)
        | none => 0
    else if off < 0x500000 then (s.mb ((off - 0x400000) / 0x1000)).word (off % 0x1000)
    else if off < 0x501000 then s.ksWord (off % 0x1000)
    else if off < 0x502000 then s.hpWord (off % 0x1000)
    else if 0x510000 ≤ off ∧ off < 0x518000 then (s.reg off).toNat
    else if 0x518000 ≤ off ∧ off < 0x518100 then
      ((List.range 32).map fun i => b2n (s.hp.pendingBits.contains (8 * (off - 0x518000) + i)) * 2 ^ i).sum
    else if 0x1000000 ≤ off ∧ off < 0x2000000 then s.diagWord (off - 0x1000000)
    else 0)

/-! ## Snapshots of 64-bit counters (R72) -/

/-- The low half of a 64-bit counter, by its offset in BAR0. -/
def isCounterLow (off : Nat) : Bool :=
  let d := off - 0x1000000
  off = ksOff + 0x10 || off = ksOff + 0x18 || off = hpOff + 0x10 || off = hpOff + 0x18 ||
  (off < 0x400000 && off % 0x10000 = 0x18) ||
  (decide (0x1000000 ≤ off) &&
    ((d < 0x8000 && (d % 0x100 = 0x10 || d % 0x100 = 0x18)) ||
     (inRun d 0x10000 0x13FFF && d % 0x400 = 0x58) || (inRun d 0x18000 0x18FFF && d % 0x100 = 0x10) ||
     (inRun d 0x20000 0x27FFF && (d % 0x800 = 0x28 || d % 0x800 = 0x30)) ||
     (inRun d 0x28000 0x28BFF && (d % 0x80 = 0x18 || d % 0x80 = 0x20)) ||
     (inRun d 0x29000 0x29FFF && d % 0x400 = 0x10) || d = 0x2A010 || d = 0x2AC10 || d = 0x2AC18 || d = 0x2B010 ||
     (inRun d 0x2C000 0x2DFFF && (d % 0x800 = 0x28 || d % 0x800 = 0x30))))

/-- What a read of an aligned word returns: the high half of a 64-bit counter is the one latched with its low half. -/
def State.readWord (s : State) (off : Nat) : BitVec 32 :=
  if isCounterLow (off - 4) && 4 ≤ off then s.hp.snapshots.get 0 off else s.liveWord off

/-- COUNTER_SNAPSHOT_READ: both halves are taken when the low half is read, and a read of the high half returns the one
taken (R72). -/
def execCounterSnapshotRead (off : BitVec 26) (s : State) : Host.Outcome State Fault Refusal :=
  let o := off.toNat
  .next (if isCounterLow o then
      let s := { s with hp := { s.hp with snapshots := s.hp.snapshots.put (o + 4) (s.liveWord (o + 4)) } }
      s.emit (.readData o (toBytes (s.liveWord o).toNat 4))
    else if isCounterLow (o - 4) && 4 ≤ o then s.emit (.readData o (toBytes (s.readWord o).toNat 4))
    else s)

/-! ## Writes (R5, R423, R425, R431) -/

/-- A word write of the keystone to a diagnostic-window register, by its access code. -/
def State.diagWrite (s : State) (d v : Nat) : State :=
  let off := diagHome d
  let old := (s.reg off).toNat
  let put (mask : Nat) (s : State) : State := s.setReg off (BitVec.ofNat 32 (old - (old &&& mask) + (v &&& mask)))
  match diagAccess d with
  | .w1c mask => s.setReg off (BitVec.ofNat 32 (old - (old &&& (v &&& mask))))
  | .rw mask => put mask s
  | .rwc mask =>
    let cur := (s.ks.staged.get (s.reg off) off).toNat
    s.updKs fun k => { k with staged := k.staged.put off (BitVec.ofNat 32 (cur - (cur &&& mask) + (v &&& mask))) }
  | _ => s

/-- A write of a serve entry that ends PENDING lets its held READs be judged again (R354). -/
def State.serveSettle (s : State) (d : Nat) : State :=
  if inRun d 0x2C000 0x2DFFF && inRun (d % 0x800) 0x400 0x7FC && d % 16 = 4 && !bit (s.reg (0x1000000 + d)).toNat 0 then
    s.clearPending (d % 0x400 / 16)
  else s

/-- Raise every pending vector whose mask bit has been cleared, as any vector is raised (R444, R445, R449). -/
def State.unmask (s : State) : State :=
  (s.hp.pendingBits.filter fun v => !s.vecMasked v).foldl (fun s v =>
    { s with hp := { s.hp with pendingBits := s.hp.pendingBits.erase v } }.msix v) s

/-- A word write of the host to BAR0, outside the mailboxes (R427, R451, R452). -/
def State.hostWord (s : State) (off v : Nat) : State :=
  if off < 0x400000 then
    if off % 0x10000 = 0xC then
      s.updCtx (off / 0x10000) fun c => { c with ring := { c.ring with cons := v } }
    else s
  else if off = ksOff + 0x24 then s.updKs fun k => { k with log := { k.log with cons := v } }
  else if off = ksOff + 0x30 then s.setReg off (BitVec.ofNat 32 ((s.reg off).toNat - ((s.reg off).toNat &&& (v &&& 3))))
  else if off = hpOff + 4 then s.setReg off (BitVec.ofNat 32 ((s.reg off).toNat - ((s.reg off).toNat &&& (v &&& 0x3F))))
  else if off = hpOff + 8 then s.setReg off (BitVec.ofNat 32 (v &&& 0xFF))
  else if 0x510000 ≤ off ∧ off < 0x518000 then (s.setReg off (BitVec.ofNat 32 v)).unmask
  else s

/-- The words of a write, each with its offset. -/
def wordsOf (off : Nat) (d : List Byte) : List (Nat × Nat) :=
  (List.range (d.length / 4)).map fun i => (off + 4 * i, leAt d (4 * i) 4)

/-- The mailbox and the offset in it that a BAR0 offset names (R422, R429). -/
def State.mbAt (s : State) (off : Nat) : Option (Nat × Nat) :=
  if off < 0x400000 then
    if off % 0x10000 < 0x1000 then none
    else (s.frameMb (off / 0x10000) (off % 0x10000 / 0x1000)).map fun m => (m, off % 0x1000)
  else if off < 0x500000 then some ((off - 0x400000) / 0x1000, off % 0x1000)
  else none

/-- An offset of a mailbox alias or of a mailbox frame (R422). -/
def inMailbox (off : Nat) : Bool :=
  (decide (off < 0x400000) && decide (0x1000 ≤ off % 0x10000)) || inRun off 0x400000 0x4FFFFF

/-- A write to a mailbox from the host, which owns it (R423, R430). Writes of OWN have rows of their own; the bytes of OWN
in any other write are dropped (DESIGN CHOICE, log entry 145). -/
def State.mbWrite (s : State) (m o : Nat) (d : List Byte) : State :=
  if (s.mb m).owner || 0x1000 < o + d.length then s else s.updMb m fun x => x.write (max o 4) (d.drop (4 - o))

/-- A width and alignment that every offset outside the mailboxes accepts (R423). -/
def accessOk (off size : Nat) : Bool := (size = 4 && off % 4 = 0) || (size = 8 && off % 8 = 0)

/-- REGISTER_WRITE: a write to a register that has no row of its own acts by its access code (R5). The host's writes
to the diagnostic window, to reserved offsets and of other widths are rows of their own. -/
def execRegisterWrite (w : Writer) (off : BitVec 26) (data : List Byte) (s : State) :
    Host.Outcome State Fault Refusal :=
  let o := off.toNat
  .next (match w with
    | .keystone =>
      if accessOk o data.length && decide (0x1000000 ≤ o ∧ o < 0x2000000) then
        (wordsOf o data).foldl (fun s x => (s.diagWrite (x.1 - 0x1000000) x.2).serveSettle (x.1 - 0x1000000)) s
      else s
    | .host =>
      match s.mbAt o with
      | some (m, i) => s.mbWrite m i data
      | none => if accessOk o data.length then (wordsOf o data).foldl (fun s x => s.hostWord x.1 x.2) s else s)

/-! ## Accesses that are dropped (R422, R423, R425) -/

/-- A BAR0 offset inside a range that R422's table names; the words it leaves out inside a named range are reserved
fields, which read zero and ignore writes (R6). -/
def named (off : Nat) : Bool :=
  decide (off < 0x502000) || inRun off 0x510000 0x5180FF || inRun off 0x1000000 0x1FFFFFF

/-- BAD_OFFSET_ACCESS: a read of a reserved offset returns zero, a write is dropped and sets BAD_OFFSET (R422). -/
def execBadOffsetAccess (a : Bar0Access) (s : State) : Host.Outcome State Fault Refusal :=
  .next (if named (a.off.toNat / 4 * 4) then s
    else if a.write then s.orReg (hpOff + 4) 4
    else s.emit (.readData a.off.toNat (List.replicate a.size 0)))

/-- BAD_WIDTH_ACCESS: a misaligned or wrongly sized access is dropped and sets WIDTH; a read returns all ones (R423). -/
def execBadWidthAccess (a : Bar0Access) (s : State) : Host.Outcome State Fault Refusal :=
  let o := a.off.toNat
  .next (if (if inMailbox o then o % 0x1000 + a.size ≤ 0x1000 else accessOk o a.size) then s
    else
      let s := s.orReg (hpOff + 4) 8
      if a.write then s else s.emit (.readData o (List.replicate a.size 0xFF)))

/-- DIAG_WINDOW_WRITE: a host write to the diagnostic window is dropped and sets DIAG_WRITE (R425). -/
def execDiagWindowWrite (_off : BitVec 24) (s : State) : Host.Outcome State Fault Refusal :=
  .next (s.orReg (hpOff + 4) 2)

end Sys2Proof.Machine
end

