-- ==== Sys2Proof/Machine/HostPort.lean ====
section
/-! DEFINITION. Mailboxes as the host passes them, taking a command, event records, held vectors, host-memory accesses
and bays (R428 to R449, R470, R531). -/
namespace Sys2Proof.Machine
open Sys2Proof

/-! ## Commands by opcode (R437) -/

/-- Commands marked P. -/
def cmdP (op : Nat) : Bool :=
  !([0x0003, 0x0005, 0x0006, 0x0101, 0x0102, 0x0103, 0x0301, 0x0302, 0x0303, 0x0308, 0x0309, 0x0401, 0x0402, 0x0403,
     0x0407, 0x0501, 0x0502, 0x0503, 0x0504, 0x0601, 0x0602, 0x0603, 0x0604, 0x0801, 0x0803, 0x0804].all (op ≠ ·))
/-- Commands marked H. -/
def cmdH (op : Nat) : Bool :=
  !([0x0001, 0x0002, 0x0003, 0x0004, 0x0006, 0x0101, 0x0102, 0x0103, 0x0401, 0x0402, 0x0407, 0x0601, 0x0602, 0x0603,
     0x0604, 0x0605, 0x0801, 0x0802, 0x0803, 0x0804].all (op ≠ ·))
/-- Commands marked X. -/
def cmdX (op : Nat) : Bool := op = 0x0308 || op = 0x0309 || op = 0x0310 || op = 0x0804
/-- Commands marked R (R436). -/
def cmdR (op : Nat) : Bool :=
  [0x0303, 0x0308, 0x0309, 0x0310, 0x0407, 0x0502, 0x0507, 0x0603, 0x0604, 0x0804].contains op
/-- Commands that act on the context that their TAG names (R435). -/
def cmdCtx (op : Nat) : Bool :=
  op = 0x0501 || (inRun op 0x0301 0x0307) || op = 0x0310 || inRun op 0x0404 0x0406 || inRun op 0x0502 0x050B || inRun op 0x0701 0x0708

/-- The bytes of ARGS that a command's row names: offset and length (R437, R485, R498, R505, R507). The second number of
a list grows with a count held in the arguments. -/
def cmdFields (op : Nat) (a : List Byte) : List (Nat × Nat) :=
  if op = 0x0003 then [(0, 6)] else if op = 0x0004 then [(0, 24)]
  else if op = 0x0005 then [(0, 14), (16, 4)] else if op = 0x0006 then [(0, 2)]
  else if op = 0x0101 then [(0, 4), (8, 8 * leAt a 0 4)]
  else if op = 0x0301 then [(0, 1), (4, 16)] else if op = 0x0302 then [(0, 1), (4, 8), (16, 8)]
  else if op = 0x0303 then [(0, 1), (4, 8)] else if op = 0x0304 then [(0, 4), (8, 8 * leAt a 0 4)]
  else if op = 0x0305 then [(0, 2), (8, 64)] else if op = 0x0306 then [(0, 2), (4, 6)]
  else if op = 0x0307 then [(0, 2)] else if op = 0x0308 then [(0, 2)] else if op = 0x0309 then [(0, 3)]
  else if op = 0x0310 then [(0, 25)] else if op = 0x0401 then [(0, 4), (8, 8)]
  else if op = 0x0402 then [(0, 1), (8, 8)] else if op = 0x0403 then [(0, 4), (8, 8)]
  else if op = 0x0404 then [(0, 1), (8, 64)] else if op = 0x0405 then [(0, 1), (4, 10)]
  else if op = 0x0406 then [(0, 1)] else if op = 0x0407 then [(0, 5)]
  else if op = 0x0501 ∨ op = 0x0502 then [(0, 1)] else if op = 0x0503 then [(0, 4)]
  else if op = 0x0504 then [(0, 2)] else if op = 0x0505 then [(0, 1), (8, 32 * leAt a 0 1)]
  else if op = 0x0506 then [(0, 128)] else if op = 0x0507 then [(0, 16)] else if op = 0x0508 then [(0, 12)]
  else if op = 0x0509 then [(0, 21)] else if op = 0x050A then [(0, 5), (8, 16)]
  else if op = 0x050B then [(0, 1), (8, 6)] else if op = 0x0601 then [(0, 12)]
  else if op = 0x0602 then [(0, 4), (8, 8)] else if op = 0x0604 then [(0, 12)]
  else if op = 0x0605 then [(0, 40)] else if op = 0x0701 then [(0, 128)] else if op = 0x0702 then [(0, 3)]
  else if op = 0x0703 then [(0, 64)] else if op = 0x0704 then [(0, 2), (8, 32)]
  else if op = 0x0705 then [(0, 4)] else if op = 0x0706 then [(0, 24)] else if op = 0x0707 then [(0, 4)]
  else if op = 0x0801 then [(0, 1), (8, 20)] else if op = 0x0803 then
    let t := if leAt a 0 2 = 0xFFFF then 0 else leAt a 0 2
    [(0, 4), (8, t), (8 + roundUp t 8, 8 * leAt a 2 2)] else if op = 0x0804 then [(0, 5)]
  else []

/-- The opcodes of the table. -/
def cmdKnown (op : Nat) : Bool :=
  inRun op 0x0001 0x0006 || inRun op 0x0101 0x0103 || inRun op 0x0301 0x0309 || op = 0x0310 || inRun op 0x0401 0x0407 ||
  inRun op 0x0501 0x050B || inRun op 0x0601 0x0605 || inRun op 0x0701 0x0708 || inRun op 0x0801 0x0804

/-- Every byte of ARGS that the row does not name is zero (R437). -/
def argsClean (op : Nat) (a : List Byte) : Bool :=
  let l := cmdFields op a
  (List.zip a (List.range a.length)).all fun x => x.1 = 0 || l.any fun f => f.1 ≤ x.2 && x.2 < f.1 + f.2

/-- The host memory that a command's arguments name and that is read when it is taken (R430): address and bytes. A
count outside its range asks for nothing: the command fails. -/
def askOf (op : Nat) (a : List Byte) : Option (Nat × Nat) :=
  let some' (x n : Nat) : Option (Nat × Nat) := if n = 0 then none else some (x, n)
  if op = 0x0302 then (if leAt a 8 4 ≤ 65536 then some' (leAt a 16 8) (16 * leAt a 8 4) else none)
  else if op = 0x0310 then (if leAt a 24 1 = 0 then some' (leAt a 0 8) (leAt a 16 8) else none)
  else if op = 0x0401 then some' (leAt a 8 8) (4 * leAt a 2 2)
  else if op = 0x0402 then some' (leAt a 8 8) 512
  else if op = 0x0403 then some' (leAt a 8 8) (2 * leAt a 2 2)
  else if op = 0x0601 ∨ op = 0x0604 then some' (leAt a 0 8) (leAt a 8 4)
  else if op = 0x0602 then some' (leAt a 8 8) 65536
  else if op = 0x0801 ∧ leAt a 0 1 = 1 then some' (leAt a 8 8) 1024
  else none

/-! ## OWN and CANCEL (R430, R431, R434) -/

/-- Flip a mailbox to the firmware (R430). -/
def State.ownFlip (s : State) (m : Nat) : State :=
  if (s.mb m).owner then s.orReg (hpOff + 4) 1
  else (s.updMb m fun x => { x with owner := true, cancel := false }).updKs fun k => { k with flips := k.flips ++ [m] }

/-- MAILBOX_OWN_FLIP (R430). -/
def execMailboxOwnFlip (m : Mbx) (s : State) : Host.Outcome State Fault Refusal := .next (s.ownFlip m)

/-- CANCEL of an owned mailbox: a taken command marked X ends with 0x0507 and the progress it has; an X command not yet
taken ends at its take (R431, R434). -/
def State.mbCancel (s : State) (m : Nat) : State :=
  if !(s.mb m).owner then s
  else
    let s := s.updMb m fun x => { x with cancel := true }
    match (s.mb m).taken with
    | some t => if cmdX t.opcode then s.endWait m 0x0507 else s
    | none => s

/-- MAILBOX_CANCEL (R431, R434). -/
def execMailboxCancel (m : Mbx) (s : State) : Host.Outcome State Fault Refusal := .next (s.mbCancel m)

/-- MAILBOX_WRITE_WHILE_OWNED: dropped, and MB_WRITE is set (R431). -/
def execMailboxWriteWhileOwned (m : Mbx) (_off : BitVec 12) (s : State) : Host.Outcome State Fault Refusal :=
  .next (if (s.mb m).owner then s.orReg (hpOff + 4) 1 else s)

/-! ## Taking a command (R433, R435, R437, R461, R462, R514, R531) -/

/-- The module takes commands: HELD, RUNNING or RECOVERY, and not restarting. -/
def State.takes (s : State) : Bool := s.ks.phase ≠ .boot && !s.ks.resetting

/-- The generic checks of a command, in the model's order; 0 when all pass (log entry 16). -/
def State.takeStatus (s : State) (t : Taken) (clean cancel : Bool) : Nat :=
  let c := t.ctx
  if s.ks.phase = .recovery && !s.ks.fw.puf && !(t.opcode = 1 || t.opcode = 2) then 0x0610
  else if !cmdKnown t.opcode then 0x0501
  else if !t.privileged && cmdP t.opcode then 0x0503
  else if !t.privileged && t.tag ≠ s.ctxTag c then 0x0502
  else if s.ksState = 1 && !cmdH t.opcode then 0x050B
  else if s.ks.phase = .recovery && !([0x0001, 0x0002, 0x0006, 0x0604, 0x0605].contains t.opcode) then 0x050B
  else if t.flags / 4 ≠ 0 || !clean then 0x0504
  else if !t.privileged && (s.ctx c).phase = .teardown then 0x0505
  else if cmdCtx t.opcode && 63 < c then 0x0502
  else if cmdCtx t.opcode && t.opcode ≠ 0x0501 && (s.ctx c).phase ≠ .active then 0x0505
  else if !argsClean t.opcode t.args then 0x0504
  else if cancel && cmdX t.opcode then 0x0507
  else 0

/-- Copy the header and ARGS of a flipped mailbox (R430, R435). A privileged command that names no context has ctx 64. -/
def State.copyCmd (s : State) (m : Nat) : Taken :=
  let x := s.mb m
  let op := ofBytes (x.read 4 2)
  let tag := ofBytes (x.read 0xC 4) % 2 ^ 18
  let args := x.read 0x40 1984
  let own := if (cmdCtx op || (op = 4 && tag ≠ 0)) && s.ctxTag (tagCtx tag) = tag then tagCtx tag else 64
  { opcode := op, flags := ofBytes (x.read 6 2), seq := ofBytes (x.read 8 4), tag := tag, args := args,
    ctx := (x.bound.map fun b => b.1).getD own, privileged := x.bound.isNone, ask := askOf op args, data := none,
    waits := false, todo := [], done := 0, total := 0 }

/-- The reserved bytes of a mailbox's header are zero (R428, R437). -/
def Mailbox.clean (x : Mailbox) : Bool := ofBytes (x.read 0x12 6) = 0 && ofBytes (x.read 0x30 16) = 0

/-- A command has been taken and its immediate part is still to run: the keystone carries each one out before it takes the
next (R433). -/
def State.midCommand (s : State) : Bool := s.ks.mbs.any fun x => match x.2.taken with
  | some t => !t.waits
  | none => false

/-- Take the oldest flipped mailbox; a command that reports progress starts at DONE 0 (R434, R436). -/
def State.takeNext (s : State) (m : Nat) (r : List Nat) : State :=
  let cancel := (s.mb m).cancel
  let t := s.copyCmd m
  let s := s.updKs fun k => { k with flips := r }
  let clean := (s.mb m).clean
  let s := (s.add64 (ksOff + 0x18) 1).updMb m fun x => { x with taken := some t }
  let s := if cmdR t.opcode then s.updMb m fun x => x.write 0x20 (toBytes 0 8) else s
  match s.takeStatus t clean cancel with
  | 0 => (match t.ask with
    | none => s
    | some (a, n) =>
      if s.role ≠ 2 && !s.hp.up then (s.orReg (hpOff + 4) 0x10).mbDone m 0x050A else s.hostAsk m a n)
  | st => s.mbDone m st

/-- COMMAND_TAKE: one pass of the service loop takes the mailbox that flipped first, once the immediate part of the
command taken before it has run (R433, R451 KS_ALIVE). -/
def execCommandTake (s : State) : Host.Outcome State Fault Refusal :=
  .next (if !s.takes then s
    else
      let s := s.add64 (ksOff + 0x10) 1
      if s.midCommand then s else match s.ks.flips with
      | [] => s
      | m :: r => s.takeNext m r)

/-- Commands whose PROG follows elapsed work that only the unit knows. -/
def cmdTimed (op : Nat) : Bool := op = 0x0308 || op = 0x0309 || op = 0x0507 || op = 0x0604 || op = 0x0804

/-- PROGRESS_UPDATE: PROG of a running command is written again; DONE never falls and never passes TOTAL (R436). -/
def execProgressUpdate (m : Mbx) (done : BitVec 48) (s : State) : Host.Outcome State Fault Refusal :=
  .next (match (s.mb m).taken with
    | none => s
    | some t =>
      if !t.waits || t.total = 0 then s
      else s.mbProg m (if cmdTimed t.opcode then max t.done (min done.toNat t.total) else t.done))

/-! ## Host-memory accesses end (R430, R437, R452) -/

/-- A host-memory access of mailbox m's command has ended: the bytes read, or none where it failed. -/
def State.hostDone (s : State) (m : Nat) (data : Option (List Byte)) : State :=
  match (s.mb m).taken with
  | none => s
  | some t =>
    match data with
    | none => (s.orReg (hpOff + 4) 0x10).endWait m 0x050A
    | some d =>
      if t.waits then
        (if t.opcode = 0x0310 && t.arg 24 1 = 1 && t.todo = [] then s.mbDoneAll m else s)
      else match t.ask with
        | some (_, n) =>
          if d.length ≠ n then s
          else (s.add64 (hpOff + 0x10) n).updMb m fun x => { x with taken := x.taken.map fun t => { t with data := some d } }
        | none => s

/-- The module that HP_BAY_MEMBERb names, if its entry is valid (R452). -/
def State.member (s : State) (b : Nat) : Option Nat :=
  let w := (s.reg (hpOff + 0x40 + 4 * b)).toNat
  if b < 16 && bit w 15 then some (fld w 0 13) else none

/-- HOST_MEMORY_ACCESS_DONE: an access for an own mailbox, or at a landing module for mailbox m % 256 of member
m / 256 - 1 (R449). -/
def execHostMemoryAccessDone (m : BitVec 16) (data : Option (List Byte)) (s : State) :
    Host.Outcome State Fault Refusal :=
  let m := m.toNat
  .next (if m < 256 then s.hostDone m data
    else match s.member (m / 256 - 1) with
      | none => s
      | some dst =>
        let s := if data.isNone then s.orReg (hpOff + 4) 0x10 else s.add64 (hpOff + 0x10) (data.getD []).length
        s.sendMsg 0 dst 4 (toBytes (m % 256) 2 ++ toBytes (b2n data.isSome) 1 ++ data.getD []))

/-! ## Event records (R439 to R442, R444, R470) -/

/-- The 64 bytes of a record at position SEQ of a ring (R439). -/
def EvRec.bytes (r : EvRec) (seq size : Nat) (loss : Bool) : List Byte :=
  let flags := b2n r.error + 2 * b2n r.tag.isSome + 4 * b2n loss + (1 - seq / size % 2) * 2 ^ 15
  toBytes r.stamp 8 ++ toBytes r.source 4 ++ toBytes r.code 2 ++ toBytes flags 2 ++ toBytes (r.tag.getD 0) 4 ++
    toBytes seq 4 ++ sliceBytes r.detail 0 40

/-- The room of a ring (R412, R442). -/
def EvRing.room (g : EvRing) : Nat := g.size - (g.prod + 2 ^ 32 - g.cons % 2 ^ 32) % 2 ^ 32

/-- Host memory can be written. -/
def State.hostOk (s : State) : Bool := s.role = 2 || s.hp.up

/-- Write a record to a ring: the ring after it, and whether the record was dropped. -/
def State.ringWrite (s : State) (g : EvRing) (r : EvRec) : EvRing × Bool × State :=
  if !g.set then (g, false, s)
  else if !s.hostOk || g.room = 0 then ({ g with lost := sat32 (g.lost + 1), loss := true }, true, s)
  else
    let s := s.hostWrite (g.base + 64 * (g.prod % g.size)) (r.bytes g.prod g.size g.loss)
    let prod := (g.prod + 1) % 2 ^ 32
    let s := if g.prodAddr = 0 then s else s.hostWrite g.prodAddr (toBytes prod 4)
    let due := g.thresh ≤ g.sinceMsg + 1 || r.error
    let g := { g with prod := prod, loss := false, sinceMsg := if due then 0 else g.sinceMsg + 1 }
    (g, false, if due && g.vector ≠ 0xFFFF then s.msix g.vector else s)

/-- The context ring that a record goes to (R441). -/
def State.ringOf (s : State) (r : EvRec) : Option Nat :=
  match r.tag with
  | some t => if s.ctxTag (tagCtx t) = t then some (tagCtx t) else none
  | none => none

/-- Write a record to the module log; a drop sets KS_ERR.LOG (R442, R451). -/
def State.logWrite (s : State) (r : EvRec) : State :=
  let (g, lost, s) := s.ringWrite s.ks.log r
  let s := s.updKs fun k => { k with log := g }
  if lost then s.orReg (ksOff + 0x30) 2 else s

/-- EVENT_RECORD: the oldest record on its way is written to its context's ring, to the module log, or to both
(R441, R442). -/
def execEventRecord (s : State) : Host.Outcome State Fault Refusal :=
  .next (if !s.takes then s
    else match s.ks.records with
      | [] => s
      | r :: l =>
        let s := s.updKs fun k => { k with records := l }
        match s.ringOf r with
        | none => s.logWrite r
        | some c =>
          let (g, _, s) := s.ringWrite (s.ctx c).ring r
          let s := s.updCtx c fun x => { x with ring := g }
          if r.error then s.logWrite r else s)

/-- HOLDOFF has passed since a vector's last message (R445). -/
def State.holdoffOver (s : State) (w : Nat) : Bool :=
  match s.hp.lastMsg.find w with
  | some t => decide (t + 1000 * s.rfld (hpOff + 8) 0 8 ≤ s.elapsed)
  | none => true

/-- HOLDOFF_EXPIRY: a vector held back, the module's own or a bay member's, is sent once HOLDOFF has passed since the last
message of that vector (R445). -/
def execHoldoffExpiry (v : BitVec 11) (s : State) : Host.Outcome State Fault Refusal :=
  .next (([v.toNat] ++ (List.range 16).map fun b => 2048 * (b + 1) + v.toNat).foldl (fun s w =>
    if s.hp.held.contains w && s.holdoffOver w then
      ({ s with hp := { s.hp with held := s.hp.held.erase w } } : State).msixSend w
    else s) s)

/-! ## One host access of any kind, as a bay carries it (R422 to R425, R431, R449) -/

/-- A host write to BAR0. -/
def State.hostAccess (s : State) (off : Nat) (d : List Byte) : State :=
  let inMb := inMailbox off
  if inMb then
    if 0x1000 < off % 0x1000 + d.length then s.orReg (hpOff + 4) 8
    else match s.mbAt off with
      | none => s
      | some (m, o) =>
        let v := leAt d 0 4
        if o = 0 && d.length = 4 then
          (if bit v 0 then (if !(s.mb m).owner then s.ownFlip m else if bit v 1 then s.mbCancel m else s)
           else if (s.mb m).owner then s.orReg (hpOff + 4) 1 else s)
        else if (s.mb m).owner then s.orReg (hpOff + 4) 1
        else s.mbWrite m o d
  else if !accessOk off d.length then s.orReg (hpOff + 4) 8
  else if inRun off 0x1000000 0x1FFFFFF then s.orReg (hpOff + 4) 2
  else if !named off then s.orReg (hpOff + 4) 4
  else (wordsOf off d).foldl (fun s x => s.hostWord x.1 x.2) s

/-- A host read of BAR0: the bytes, and the state with its snapshots and error bits. -/
def State.hostFetch (s : State) (off n : Nat) : List Byte × State :=
  let inMb := inMailbox off
  if inMb then
    if 0x1000 < off % 0x1000 + n then (List.replicate n 0xFF, s.orReg (hpOff + 4) 8)
    else match s.mbAt off with
      | none => (List.replicate n 0, s)
      | some (m, o) => ((s.mb m).view o n, s)
  else if !accessOk off n then (List.replicate n 0xFF, s.orReg (hpOff + 4) 8)
  else
    let s := if isCounterLow off then
        { s with hp := { s.hp with snapshots := s.hp.snapshots.put (off + 4) (s.liveWord (off + 4)) } }
      else s
    (((List.range (n / 4)).map fun i => toBytes (s.readWord (off + 4 * i)).toNat 4).flatten, s)

/-! ## Bays (R448, R449) -/

/-- The BAR2 access numbered n: its number on the wire holds its length in the low 12 bits. -/
def bayId (n len : Nat) : Nat := (n * 4096 + len % 4096) % 2 ^ 32

/-- An access that no entry or member takes: dropped, and a read returns all ones (R448). -/
def State.bayMiss (s : State) (id : Nat) (write : Bool) (n : Nat) : State :=
  let s := s.orReg (hpOff + 4) 0x20
  if write then s else s.emit (.bayReply id (List.replicate n 0xFF))

/-- BAY_APERTURE_ACCESS at a landing module (R448). A read names its length by the length of `data`. -/
def execBayApertureAccess (off : BitVec 36) (write : Bool) (data : List Byte) (s : State) :
    Host.Outcome State Fault Refusal :=
  let o := off.toNat
  let n := data.length
  let id := bayId s.hp.nextBay n
  .next (if s.role ≠ 1 then s
    else
      let waitRead (s : State) : State :=
        if write then s else { s with hp := { s.hp with bayReads := s.hp.bayReads ++ [id] } }
      let s := { s with hp := { s.hp with nextBay := s.hp.nextBay + 1 } }
      if o < 63 * 2 ^ 30 then
        let e := s.hp.aperture.get ApertureEntry.reset (o / 2 ^ 30)
        let i := o % 2 ^ 30
        if !e.valid || e.pages * 2 ^ 21 < i + n then s.bayMiss id write n
        else
          let la := e.base + i
          let p := if write then writePkt e.module e.tag e.tag la 0x3C data else readPkt e.module e.tag e.tag la n 0 0x3C
          ((waitRead s).farSend 0 p 0 (.bay id) none 0).2
      else
        let i := o - 63 * 2 ^ 30
        match s.member (i / 2 ^ 26) with
        | none => s.bayMiss id write n
        | some dst =>
          (waitRead s).sendMsg 0 dst 1
            ([BitVec.ofNat 8 (b2n write)] ++ toBytes id 4 ++ toBytes (i % 2 ^ 26) 4 ++ toBytes n 2 ++
              (if write then data else [])))

/-- BAY_READ_TIMEOUT: a read unanswered for 100 µs returns all ones (R448). -/
def execBayReadTimeout (id : Nat) (s : State) : Host.Outcome State Fault Refusal :=
  .next (if s.hp.bayReads.contains id then
      (s.orReg (hpOff + 4) 0x20).bayAnswered id (List.replicate (id % 4096) 0xFF)
    else s)

/-- The number of the member that a module is (R448). -/
def State.memberOf (s : State) (module : Nat) : Option Nat :=
  (List.range 16).find? fun b => s.member b = some module

/-- A message of a bay's traffic, at the member or at the landing module (R449). -/
def State.bayMsg (s : State) (p : Packet) : State :=
  let d := p.payload
  let mcode := leAt p.spec 0 2
  if mcode = 1 then
    let id := leAt d 1 4
    if leAt d 0 1 = 2 then s.bayAnswered id (d.drop 11)
    else if s.role ≠ 2 || p.src ≠ s.landing then s
    else if leAt d 0 1 = 1 then s.hostAccess (leAt d 5 4) (d.drop 11)
    else
      let (l, s) := s.hostFetch (leAt d 5 4) (leAt d 9 2)
      s.sendMsg 0 s.landing 1 ([(2 : Byte)] ++ toBytes id 4 ++ toBytes (leAt d 5 4) 4 ++ toBytes l.length 2 ++ l)
  else if s.role = 2 && mcode = 4 && p.src = s.landing then
    s.hostDone (leAt d 0 2) (if leAt d 2 1 = 1 then some (d.drop 3) else none)
  else match s.memberOf p.src with
    | none => s
    | some b =>
      if s.role ≠ 1 then s
      else if mcode = 2 then s.msixDue (2048 * (b + 1) + leAt d 0 2)
      else if mcode = 3 then s.hostWrite (leAt d 0 8) (d.drop 8)
      else if mcode = 4 then s.hostAsk (256 * (b + 1) + leAt d 0 2 % 256) (leAt d 2 8) (leAt d 10 8)
      else s

/-- BAY_MSG: the oldest message of MCODE 1 to 4 at die k (R449). -/
def execBayMsg (k : Die) (s : State) : Host.Outcome State Fault Refusal :=
  .next (match (s.die k).msgs.find? fun p => inRun (leAt p.spec 0 2) 1 4 with
    | none => s
    | some p => (s.msgTake k p).bayMsg p)

end Sys2Proof.Machine
end

