-- ==== Sys2Proof/Machine/Commands.lean ====
section
/-! DEFINITION. The Keystone commands of the module, its memory, windows, collectives, links, contexts, tasks and shards
(R429, R437, R441, R455, R263, R273, R278, R283, R330, R338, R351, R354, R356, R364, R366, R371). -/
namespace Sys2Proof.Machine
open Sys2Proof

/-! ## The module (R429, R437) -/

/-- NOP. -/
def execNopCommand (m : Mbx) (s : State) : Host.Outcome State Fault Refusal :=
  .next (s.command m 0x0001 fun s _ => s.mbDone m 0)

/-- IDENTIFY (R437, R454). -/
def execIdentify (m : Mbx) (s : State) : Host.Outcome State Fault Refusal :=
  .next (s.command m 0x0002 fun s _ =>
    let head := detail [(0xC016, 2), (0x00C0, 2), ((s.reg (ksOff + 4)).toNat, 4), (s.moduleId, 2)]
    ((s.mbResult m 0 head).mbResult m 16 (toBytes s.readyMap 16)).mbDone m 0)

/-- BIND (R429). -/
def execBind (m : Mbx) (s : State) : Host.Outcome State Fault Refusal :=
  .next (s.command m 0x0003 fun s t =>
    let n := t.arg 0 2
    let c := t.arg 2 1
    let f := t.arg 3 1
    let v := t.arg 4 2
    let frame := if c = 0xFF then none else some (c, f)
    if n = 0 ∨ 255 < n ∨ (c ≠ 0xFF ∧ (63 < c ∨ f = 0 ∨ 15 < f)) ∨ (2047 < v ∧ v ≠ 0xFFFF) then s.mbDone m 0x0504
    else if (s.mb n).owner ∨ (c ≠ 0xFF ∧ (s.frameMb c f).getD n ≠ n) then s.mbDone m 0x0506
    else (s.updMb n fun x => { x with bound := frame, vector := v }).mbDone m 0)

/-- The ring that EVENT_RING sets. -/
def ringOfArgs (t : Taken) : EvRing :=
  { EvRing.reset with
    set := true, base := t.arg 0 8, size := t.arg 8 4, vector := t.arg 12 2, thresh := t.arg 14 2,
    prodAddr := t.arg 16 8 }

/-- EVENT_RING (R437): the context's ring from a bound mailbox, the module log from a privileged one with TAG 0, and
the ring of the context that another TAG names. -/
def execEventRing (m : Mbx) (s : State) : Host.Outcome State Fault Refusal :=
  .next (s.command m 0x0004 fun s t =>
    let g := ringOfArgs t
    if g.base % 64 ≠ 0 ∨ g.size < 64 ∨ 1048576 < g.size ∨ popCount g.size 32 ≠ 1 ∨ (2047 < g.vector ∧ g.vector ≠ 0xFFFF) ∨
        g.thresh = 0 ∨ g.size < g.thresh then s.mbDone m 0x0504
    else if t.privileged ∧ t.tag = 0 then (s.updKs fun k => { k with log := g }).mbDone m 0
    else if 63 < t.ctx then s.mbDone m 0x0502
    else if (s.ctx t.ctx).phase = .teardown then s.mbDone m 0x0505
    else (s.updCtx t.ctx fun x => { x with ring := g }).mbDone m 0)

/-- APERTURE (R448). -/
def execAperture (m : Mbx) (s : State) : Host.Outcome State Fault Refusal :=
  .next (s.command m 0x0005 fun s t =>
    let e : ApertureEntry := { valid := t.arg 1 1 = 1, module := t.arg 2 2, tag := t.arg 4 4, base := t.arg 8 6,
                               pages := t.arg 16 4 }
    if 62 < t.arg 0 1 ∨ 1 < t.arg 1 1 ∨ 8191 < e.module ∨ 2 ^ 18 ≤ e.tag ∨ e.base % 2 ^ 21 ≠ 0 ∨ e.pages = 0 ∨
        512 < e.pages then s.mbDone m 0x0504
    else
      let tab := s.hp.aperture.put (t.arg 0 1) e
      ({ s with hp := { s.hp with aperture := tab } } : State).mbDone m 0)

/-! ## Translation (R257, R258, R260, R263) -/

/-- Two ranges of n and k entries share one. -/
def overlaps (a n b k : Nat) : Bool := decide (a < b + k ∧ b < a + n)

/-- The ranges overlap another context's (R257). -/
def State.rangeTaken (s : State) (c lb lc rb rc : Nat) : Bool :=
  ((List.range 64).filter (· ≠ c)).any fun d =>
    let x := s.ctx d
    (0 < lc && 0 < x.lcount && overlaps lb lc x.lbase x.lcount) ||
    (0 < rc && 0 < x.rcount && overlaps rb rc x.rbase x.rcount)

/-- A valid entry of the context would fall outside its new ranges. -/
def State.rangeLoses (s : State) (c lb lc rb rc : Nat) : Bool :=
  (s.ctxEntries c).any fun e =>
    !decide (lb ≤ e.1 ∧ e.1 < lb + lc) && !decide (393216 + rb ≤ e.1 ∧ e.1 < 393216 + rb + rc)

/-- MAP_RANGE (R257, R437). -/
def execMapRange (m : Mbx) (s : State) : Host.Outcome State Fault Refusal :=
  .next (s.command m 0x0301 fun s t =>
    let c := t.arg 0 1
    let lb := t.arg 4 4
    let lc := t.arg 8 4
    let rb := t.arg 12 4
    let rc := t.arg 16 4
    if 63 < c ∨ 393216 < lb + lc ∨ 131072 < rb + rc then s.mbDone m 0x0504
    else if t.ctx ≠ c then s.mbDone m 0x0502
    else if s.rangeLoses c lb lc rb rc || s.rangeTaken c lb lc rb rc then s.mbDone m 0x0509
    else (s.updCtx c fun x => { x with lbase := lb, lcount := lc, rbase := rb, rcount := rc }).mbDone m 0)

/-- First table entry and number of entries of one of a context's ranges. -/
def State.range (s : State) (c : Nat) (remote : Bool) : Nat × Nat :=
  let x := s.ctx c
  if remote then (393216 + x.rbase, x.rcount) else (x.lbase, x.lcount)

/-- KIND 3, a nonzero reserved bit, or a local page number whose place is not of the entry's KIND (R258, R437). -/
def entryBad (e : Nat) : Bool :=
  fld e 4 2 = 3 || fld e 6 2 ≠ 0 || fld e 26 6 ≠ 0 || fld e 59 5 ≠ 0 || bit e 77 || fld e 96 32 ≠ 0 ||
  (bit e 0 && fld e 4 2 < 2 && (match place (fld e 32 27 * 2 ^ 21) with
    | .stack _ _ => fld e 4 2 = 1
    | .sram _ _ => fld e 4 2 = 0
    | _ => true))

/-- The stack or the pier of a local entry has its Ready Map bit clear (R455). -/
def State.entryOff (s : State) (e : Nat) : Bool :=
  bit e 0 && (match place (fld e 32 27 * 2 ^ 21) with
    | .stack n _ => fld e 4 2 = 0 && !s.readyBit (16 + n)
    | .sram p _ => fld e 4 2 = 1 && !s.readyBit p
    | _ => false)

/-- Map one entry under a tag; none where the page or the entry is in use. -/
def State.mapOne (s : State) (i e tag : Nat) (exported : Bool) : Option State :=
  let old := (s.xlate.get 0 i).toNat
  let e := setFld e 8 18 tag
  let same := fld old 4 2 = fld e 4 2 && fld old 4 2 < 2 && fld old 32 27 = fld e 32 27 && bit e 0
  let g := fld e 32 27
  let w := s.owner g
  let s' := (({ s with xlate := s.xlate.put i (BitVec.ofNat 128 e) } : State).replicaWrites 1).invalidate [i]
  if bit old 0 && !same then none
  else if !bit e 0 || fld e 4 2 = 2 then some s'
  else if fld w 18 3 = 0 || (fld w 18 3 = 1 && fld w 0 18 = tag) then some (s'.setOwner g (ownerWord tag 1 exported))
  else none

/-- Map entries in order up to the first in use: the entries mapped, and whether all were. -/
def State.mapList (s : State) (tag : Nat) (exported : Bool) : Nat → Nat → List Nat → (Nat × Bool) × State
  | _, n, [] => ((n, true), s)
  | i, n, e :: r => match s.mapOne i e tag exported with
    | some s => State.mapList s tag exported (i + 1) (n + 1) r
    | none => ((n, false), s)

/-- MAP (R258, R261, R437, R455). -/
def execMap (m : Mbx) (s : State) : Host.Outcome State Fault Refusal :=
  .next (s.command m 0x0302 fun s t =>
    let fl := t.arg 0 1
    let vpn := t.arg 4 4
    let n := t.arg 8 4
    let (first, count) := s.range t.ctx (bit fl 0)
    let d := t.data.getD []
    let l := (List.range n).map fun i => leAt d (16 * i) 16
    if 3 < fl ∨ n = 0 ∨ 65536 < n ∨ count < vpn + n ∨ l.any entryBad then s.mbDone m 0x0504
    else if l.any s.entryOff then s.mbDone m 0x0104
    else
      let ((k, ok), s) := s.mapList t.tag (bit fl 1) (first + vpn) 0 l
      (s.mbResult m 0 (toBytes k 4)).mbDone m (if ok then 0 else 0x0509))

/-- An open window holds a page (R273). -/
def State.windowHolds (s : State) (g : Nat) : Bool :=
  match place (g * 2 ^ 21) with
  | .stack n _ => (s.stack n).windows.any fun w =>
      w.2.state ≠ .closed && (w.2.dstPages ++ w.2.sumPages ++ w.2.parkPages).contains g
  | _ => false

/-- UNMAP (R263, R437). -/
def execUnmap (m : Mbx) (s : State) : Host.Outcome State Fault Refusal :=
  .next (s.command m 0x0303 fun s t =>
    let fl := t.arg 0 1
    let vpn := t.arg 4 4
    let n := t.arg 8 4
    let (first, count) := s.range t.ctx (bit fl 0)
    let mine := s.xlate.filter fun e => bit e.2.toNat 0 && decide (first + vpn ≤ e.1 ∧ e.1 < first + vpn + n)
    let pages := (mine.filter fun e => fld e.2.toNat 4 2 < 2).map fun e => fld e.2.toNat 32 27
    if 1 < fl ∨ n = 0 ∨ count < vpn + n then s.mbDone m 0x0504
    else if pages.any s.windowHolds then s.mbDone m 0x0509
    else
      let (todo, s) := s.unmapEntries mine
      let s := (s.mbTotal m n).mbProg m (n - todo.length)
      if todo = [] then s.mbDoneAll m else s.mbWait m fun t => { t with todo := todo })

/-- One result of TRANSLATE: 16 bytes of address, module and status. -/
def State.translation (s : State) (tag va : Nat) : List Byte :=
  match s.translate tag va .rd with
  | .fault c => toBytes 0 6 ++ toBytes s.moduleId 2 ++ toBytes c 2
  | .here la => toBytes la 6 ++ toBytes s.moduleId 2 ++ toBytes 0 2
  | .far d la _ => toBytes la 6 ++ toBytes d 2 ++ toBytes 0 2

/-- TRANSLATE (R260, R437). -/
def execTranslate (m : Mbx) (s : State) : Host.Outcome State Fault Refusal :=
  .next (s.command m 0x0304 fun s t =>
    let n := t.arg 0 4
    if n = 0 ∨ 120 < n then s.mbDone m 0x0504
    else ((List.range n).foldl (fun u i => u.mbResult m (16 * i) (s.translation t.tag (t.arg (8 + 8 * i) 8))) s).mbDone m 0)

/-! ## Windows (R273, R278, R437) -/

/-- A window that another tag holds is in use. -/
def State.winForeign (s : State) (n w tag : Nat) : Bool := (s.win n w).state ≠ .closed && (s.win n w).tag ≠ tag

/-- WIN_OPEN. -/
def execWinOpen (m : Mbx) (s : State) : Host.Outcome State Fault Refusal :=
  .next (s.command m 0x0305 fun s t =>
    let n := t.arg 0 1
    let w := t.arg 1 1
    let d := sliceBytes t.args 8 64
    if 15 < n ∨ 63 < w ∨ fld (leAt d 0 4) 0 18 ≠ t.tag then s.mbDone m 0x0504
    else if !s.readyBit (16 + n) then s.mbDone m 0x0104
    else
      let (st, s) := s.openWin n w d
      s.mbDone m st)

/-- WIN_REARM. -/
def execWinRearm (m : Mbx) (s : State) : Host.Outcome State Fault Refusal :=
  .next (s.command m 0x0306 fun s t =>
    let n := t.arg 0 1
    let w := t.arg 1 1
    if 15 < n ∨ 63 < w ∨ t.arg 8 2 = 0 ∨ 8192 < t.arg 8 2 then s.mbDone m 0x0504
    else if s.winForeign n w t.tag then s.mbDone m 0x0509
    else
      let (st, s) := s.rearmWin n w (t.arg 4 4) (t.arg 8 2)
      s.mbDone m st)

/-- WIN_CLOSE. -/
def execWinClose (m : Mbx) (s : State) : Host.Outcome State Fault Refusal :=
  .next (s.command m 0x0307 fun s t =>
    let n := t.arg 0 1
    let w := t.arg 1 1
    if 15 < n ∨ 63 < w then s.mbDone m 0x0504
    else if s.winForeign n w t.tag then s.mbDone m 0x0509
    else if (s.win n w).state = .finishing then (s.closeWin n w m).mbWait m fun t => t
    else (s.closeWin n w m).mbDone m 0)

/-! ## Scrub and memory test (R283, R437, R455) -/

/-- SCRUB: one pass over each named stack in service (R283). `found` gives what the checks of the pass find, by local
address. -/
def execScrub (m : Mbx) (found : List (BitVec 48 × Ecc)) (s : State) : Host.Outcome State Fault Refusal :=
  .next (s.command m 0x0308 fun s t =>
    let l := (setBits (t.arg 0 2) 16).filter s.stackUp
    let atoms := (l.map fun n => s.stackBytes n / 64).sum
    let mine (n : Nat) : List (Nat × Ecc) :=
      (found.filter fun x => place x.1.toNat = .stack n (x.1.toNat % 2 ^ 36)).map fun x => (x.1.toNat % 2 ^ 36, x.2)
    ((l.foldl (fun s n => s.scrubPass n (mine n)) s).mbTotal m atoms).mbDoneAll m)

/-- A page of stack n is OWNED. -/
def State.stackOwned (s : State) (n : Nat) : Bool :=
  s.owners.any fun w => decide (n * 32768 ≤ w.1 ∧ w.1 < n * 32768 + 24576) && fld w.2.toNat 18 3 = 1

/-- MEMTEST (R437, R455). -/
def execMemtest (m : Mbx) (s : State) : Host.Outcome State Fault Refusal :=
  .next (s.command m 0x0309 fun s t =>
    let l := setBits (t.arg 0 2) 16
    if t.arg 2 1 = 0 ∨ 8 < t.arg 2 1 then s.mbDone m 0x0504
    else if l.any fun n => !s.readyBit (16 + n) then s.mbDone m 0x0104
    else if l.any s.stackOwned then s.mbDone m 0x0509
    else (s.mbTotal m ((l.map fun n => s.stackBytes n / 64).sum)).mbWait m fun t => { t with todo := l })

/-- MEMTEST_COMPLETE: the failing atoms of each named stack (R437). -/
def execMemtestComplete (m : Mbx) (failing : List (Stk × Nat)) (s : State) : Host.Outcome State Fault Refusal :=
  .next (match s.takenCmd m 0x0309 with
    | none => s
    | some t =>
      if !t.waits then s
      else
        let count (n : Nat) : Nat := if t.todo.contains n then
            ((failing.filter fun x => x.1.val = n).map fun x => x.2).sum else 0
        (s.mbResult m 0 ((List.range 16).map fun n => toBytes (sat32 (count n)) 4).flatten).mbDoneAll m)

/-! ## Host copies (R325, R437) -/

/-- The pieces of a copy: each within one 64 KiB unit of the copy and one page; offset and length. -/
def copyPieces (va : Nat) : Nat → Nat → Nat → List (Nat × Nat)
  | 0, _, _ => []
  | k + 1, off, n =>
    if n = 0 then []
    else
      let len := min n (min (65536 - off % 65536) (2 ^ 21 - (va + off) % 2 ^ 21))
      (off, len) :: copyPieces va k (off + len) (n - len)

/-- Move one piece: the far request it makes, if any, or the status that stops the copy. -/
def State.copyPiece (s : State) (m : Nat) (t : Taken) (off len : Nat) : Except Nat (Option Nat) × State :=
  let va := t.arg 8 8 + off
  let toModule := t.arg 24 1 = 0
  match s.translate t.tag va (if toModule then .wr else .rd) with
  | .fault c => (.error c, s)
  | .far d la tag =>
    let p := if toModule then writePkt d tag t.tag la 0x3C (sliceBytes (t.data.getD []) off len)
      else readPkt d tag t.tag la len 0 0x3C
    let (id, s) := s.farSend 0 p 0 (.hostCopy m) none off
    (.ok (some id), s)
  | .here _ =>
    if toModule then
      match s.writeVa none t.tag reachMemory 0x0302 va (sliceBytes (t.data.getD []) off len) with
      | (some f, s) => (.error f.code, s)
      | (none, s) => (.ok none, s)
    else match s.readVa none t.tag reachMemory 0x0302 va len with
      | (.error f, s) => (.error f.code, s)
      | (.ok d, s) => (.ok none, s.hostWrite (t.arg 0 8 + off) d)

/-- Move every piece up to the first that stops the copy: its status, the far requests, and the bytes moved before. -/
def State.copyAll (s : State) (m : Nat) (t : Taken) : List (Nat × Nat) → List Nat → (Option (Nat × Nat) × List Nat) × State
  | [], ids => ((none, ids), s)
  | (off, len) :: r, ids => match s.copyPiece m t off len with
    | (.error c, s) => ((some (c, off), ids), s)
    | (.ok none, s) => State.copyAll s m t r ids
    | (.ok (some id), s) => State.copyAll s m t r (ids ++ [id])

/-- HOST_COPY (R437): the data of DIR 0 have come from host memory; the writes of DIR 1 end with
HOST_MEMORY_ACCESS_DONE. -/
def execHostCopy (m : Mbx) (s : State) : Host.Outcome State Fault Refusal :=
  .next (s.command m 0x0310 fun s t =>
    let n := t.arg 16 8
    let units := cdiv n 65536
    if 1 < t.arg 24 1 then s.mbDone m 0x0504
    else if t.arg 24 1 = 1 && !s.hostOk then (s.orReg (hpOff + 4) 0x10).mbDone m 0x050A
    else
      let s := s.mbTotal m units
      match s.copyAll m t (copyPieces (t.arg 8 8) (2 * units + 2) 0 n) [] with
      | ((some (c, off), _), s) => (s.mbProg m (off / 65536)).mbDone m c
      | ((none, ids), s) =>
        if n = 0 || (ids = [] && t.arg 24 1 = 0) then s.mbDoneAll m
        else (s.mbProg m (units - ids.length)).mbWait m fun t => { t with todo := ids })

/-! ## Groups and collectives (R330, R338, R437) -/

/-- GROUP_SET. -/
def execGroupSet (m : Mbx) (s : State) : Host.Outcome State Fault Refusal :=
  .next (s.command m 0x0403 fun s t =>
    let g := t.arg 0 2
    let n := t.arg 2 2
    let l := (List.range n).map fun i => leAt (t.data.getD []) (2 * i) 2
    if 1023 < g ∨ n = 0 ∨ 8192 < n ∨ l.any fun x => 8191 < x then s.mbDone m 0x0504
    else if s.colls.any fun x => x.2.state = .opn && x.2.group = g then s.mbDone m 0x0509
    else (s.updKs fun k => { k with groups := k.groups.put g l }).mbDone m 0)

/-- A descriptor that another tag holds is in use. -/
def State.collForeign (s : State) (d tag : Nat) : Bool := (s.coll d).state ≠ .closed && (s.coll d).tag ≠ tag

/-- COLL_OPEN. -/
def execCollOpen (m : Mbx) (s : State) : Host.Outcome State Fault Refusal :=
  .next (s.command m 0x0404 fun s t =>
    let d := sliceBytes t.args 8 64
    if leAt d 32 4 % 2 ^ 18 ≠ t.tag then s.mbDone m 0x0504
    else
      let (st, s) := s.openColl (t.arg 0 1) d
      s.mbDone m st)

/-- COLL_REARM. -/
def execCollRearm (m : Mbx) (s : State) : Host.Outcome State Fault Refusal :=
  .next (s.command m 0x0405 fun s t =>
    if s.collForeign (t.arg 0 1) t.tag then s.mbDone m 0x0509
    else
      let (st, s) := s.rearmColl (t.arg 0 1) (t.arg 4 4) (t.arg 8 2) (t.arg 10 2) (t.arg 12 2)
      s.mbDone m st)

/-- COLL_CLOSE. -/
def execCollClose (m : Mbx) (s : State) : Host.Outcome State Fault Refusal :=
  .next (s.command m 0x0406 fun s t =>
    if s.collForeign (t.arg 0 1) t.tag then s.mbDone m 0x0509
    else (s.closeColl (t.arg 0 1)).mbDone m 0)

/-! ## Links (R437, R455) -/

/-- What LINK_CTRL does to one link. -/
def State.linkAction (s : State) (l act : Nat) : State :=
  if act = 0 then
    let s := s.linkEnable l true
    if (s.link l).phase = .failed then s.startTraining l else s
  else if act = 1 then s.linkEnable l false
  else s.leaveService l 4

/-- LINK_CTRL (R437, R455): it completes when every named link is UP, DOWN or FAILED. -/
def execLinkCtrl (m : Mbx) (s : State) : Host.Outcome State Fault Refusal :=
  .next (s.command m 0x0407 fun s t =>
    let l := setBits (t.arg 0 4) 24
    if 2 ^ 24 ≤ t.arg 0 4 ∨ 2 < t.arg 4 1 then s.mbDone m 0x0504
    else if l.any fun i => (s.link i).ctrlMb.isSome then s.mbDone m 0x0509
    else
      let s := (s.mbTotal m (20 * l.length)).mbWait m fun t => t
      let s := l.foldl (fun s i => s.linkAction i (t.arg 4 1)) s
      let s := l.foldl (fun s i => s.updLink i fun x => { x with ctrlMb := some m.val }) s
      match l with
      | [] => s.mbDoneAll m
      | i :: _ => s.settleLinkCtrl i)

/-! ## Contexts and piers (R378, R437, R446, R455) -/

/-- CTX_CREATE (R426, R446). -/
def execCtxCreate (m : Mbx) (s : State) : Host.Outcome State Fault Refusal :=
  .next (s.command m 0x0501 fun s t =>
    let c := t.arg 0 1
    if 63 < c then s.mbDone m 0x0504
    else if t.ctx ≠ c then s.mbDone m 0x0502
    else if (s.ctx c).phase ≠ .free then s.mbDone m 0x0505
    else
      let s := s.updCtx c fun x => { x with phase := .active, created := true }
      let tag := s.ctxTag c
      let s := s.record 0 0 0x0513 false none (detail [(c, 4), (tag, 4), (tag, 4)])
      (s.mbResult m 0 (toBytes tag 4)).mbDone m 0)

/-- A pier that may not join context c now: another context's, or one whose tag cannot be written (R164, R437). -/
def State.pierTaken (s : State) (c p : Nat) : Bool :=
  !((s.pier p).serves = none || (s.pier p).serves = some c) || (s.pier p).seq ≠ .idle || (s.pier p).taskQueue ≠ []

/-- Release a pier: its tasks are aborted and ARM is cleared (R437). -/
def State.leavePier (s : State) (c p : Nat) : State := ((s.abortTasks p).dropEntries c p).releasePier p

/-- PIERS (R378, R437, R455). -/
def execPiers (m : Mbx) (s : State) : Host.Outcome State Fault Refusal :=
  .next (s.command m 0x0503 fun s t =>
    let c := t.ctx
    let join := setBits (t.arg 0 2) 16
    let leave := setBits (t.arg 2 2) 16
    if join.any leave.contains || leave.any fun p => (s.pier p).serves ≠ some c then s.mbDone m 0x0504
    else if join.any fun p => !s.placeable p then s.mbDone m 0x0104
    else if join.any fun p => s.pierTaken c p then s.mbDone m 0x0509
    else ((leave.foldl (fun s p => s.leavePier c p) (join.foldl (fun s p => s.joinPier c p) s)).mbDone m 0).fencePoll)

/-! ## Tasks and steps (R206, R209, R437) -/

/-- A pier belongs to an open step. -/
def State.stepPier (s : State) (p : Nat) : Bool :=
  s.ks.ctxs.any fun x => match x.2.step with
    | some r => bit r.evalPiers p || bit r.stepPiers p
    | none => false

/-- TASKS (R437): the entries are submitted as their gates hold. -/
def execTasks (m : Mbx) (s : State) : Host.Outcome State Fault Refusal :=
  .next (s.command m 0x0505 fun s t =>
    let n := t.arg 0 1
    let l := (List.range n).map fun i => sliceBytes t.args (8 + 32 * i) 32
    let entries := l.map parseEntry
    if n = 0 ∨ 60 < n ∨ l.any (fun e => !entryClean e || leAt e 1 1 ≠ 0) ∨
        entries.any (fun e => (s.pier e.pier).serves ≠ some t.ctx) then s.mbDone m 0x0504
    else if entries.any fun e => s.stepPier e.pier then s.mbDone m 0x0509
    else (s.updKs fun k => { k with lists := k.lists ++ [{ mb := m, ctx := t.ctx, entries := entries }] }).mbWait m
      fun t => t)

/-- STEP: the keystone holds the descriptor until the step before it has been voted (R206). -/
def execStep (m : Mbx) (s : State) : Host.Outcome State Fault Refusal :=
  .next (s.command m 0x0506 fun s t =>
    (s.updCtx t.ctx fun x => { x with stepWait := x.stepWait ++ [m.val] }).mbWait m fun t => t)

/-! ## Shards, landing ranges and reshard jobs (R351, R354, R356, R364, R366, R371) -/

/-- SEAL (R351). -/
def execSeal (m : Mbx) (s : State) : Host.Outcome State Fault Refusal :=
  .next (s.command m 0x0507 fun s t =>
    let s := s.mbTotal m (cdiv (t.arg 8 8) 65536)
    match s.sealShard t.tag (t.arg 0 8) (t.arg 8 8) with
    | (none, s) => s.mbDoneAll m
    | (some c, s) => s.mbDone m c)

/-- SHARD_TABLE (R356). -/
def execShardTable (m : Mbx) (s : State) : Host.Outcome State Fault Refusal :=
  .next (s.command m 0x0508 fun s t =>
    (s.updCtx t.ctx fun x => { x with shardTable := some (t.arg 0 8, t.arg 8 4) }).mbDone m 0)

/-- The first local page and the page count of a range that maps to contiguous local stack pages. -/
def State.stackRun (s : State) (tag va bytes : Nat) : Option (Nat × Nat) :=
  let n := (va % 2 ^ 21 + bytes + 2 ^ 21 - 1) / 2 ^ 21
  let at_ (i : Nat) : Option Nat := match s.translate tag ((va / 2 ^ 21 + i) * 2 ^ 21) .rd with
    | .here la => (match place la with | .stack _ _ => some (pageOf la) | _ => none)
    | _ => none
  match at_ 0 with
  | none => none
  | some g => if bytes ≠ 0 && (List.range n).all fun i => at_ i = some (g + i) then some (g, n) else none

/-- SERVE_SHARD: RSH_SERVEn of all four dies (R354). -/
def execServeShard (m : Mbx) (s : State) : Host.Outcome State Fault Refusal :=
  .next (s.command m 0x0509 fun s t =>
    let c := t.ctx
    let put (g n : Nat) (s : State) : State := [0, 1, 2, 3].foldl (fun s k =>
      let o := rshOff k + 0x400 + 16 * c
      ((((s.setReg o (BitVec.ofNat 32 (t.arg 16 4))).setRfld (o + 4) 1 1 (t.arg 20 1)).setReg (o + 8)
        (BitVec.ofNat 32 g)).setReg (o + 12) (BitVec.ofNat 32 n))) s
    if 1 < t.arg 20 1 then s.mbDone m 0x0504
    else match s.stackRun t.tag (t.arg 0 8) (t.arg 8 8) with
      | none => s.mbDone m 0x0504
      | some (g, n) => (put g n s).mbDone m 0)

/-- The local address of a range whose pages are local, contiguous, OWNED by the tag and writable (R366, R386). -/
def State.landingRun (s : State) (tag va len : Nat) : Option Nat :=
  let n := (va % 2 ^ 21 + len + 2 ^ 21 - 1) / 2 ^ 21
  let at_ (i : Nat) : Option Nat := match s.translate tag ((va / 2 ^ 21 + i) * 2 ^ 21) .wr with
    | .here la => if fld (s.owner (pageOf la)) 18 3 = 1 && fld (s.owner (pageOf la)) 0 18 = tag then some (pageOf la)
        else none
    | _ => none
  match at_ 0 with
  | none => none
  | some g => if (List.range n).all fun i => at_ i = some (g + i) then some (g * 2 ^ 21 + va % 2 ^ 21) else none

/-- Write a landing range into all four dies; packets that counted for the range it replaces count no more (R364, R365,
R386). -/
def State.putLanding (s : State) (i : Nat) (w : List Nat) : State :=
  [0, 1, 2, 3].foldl (fun s k => ((List.range 8).foldl (fun s j =>
    s.setReg (rshOff k + 0x100 + 32 * i + 4 * j) (BitVec.ofNat 32 (w.getD j 0))) s).updDie k fun x =>
      { x with counts := x.counts.filter fun c => c.1 ≠ i }) s

/-- LANDING (R364 to R366). -/
def execLanding (m : Mbx) (s : State) : Host.Outcome State Fault Refusal :=
  .next (s.command m 0x050A fun s t =>
    let i := t.arg 0 1
    let va := t.arg 8 8
    let len := t.arg 16 4
    let slot := t.arg 20 4
    let home := t.arg 4 1 % 4
    let reject (s : State) : State := (s.orReg (rshOff home + 8) 4).mbDone m 0x0549
    if 15 < i ∨ 1 < t.arg 1 1 ∨ 15 < t.arg 2 1 ∨ 63 < t.arg 3 1 ∨ 3 < t.arg 4 1 ∨ va % 64 ≠ 0 ∨ len % 64 ≠ 0 then
      s.mbDone m 0x0504
    else if s.lrValid 0 i && s.lrTag 0 i ≠ t.tag then reject s
    else if t.arg 1 1 = 0 then (s.putLanding i []).mbDone m 0
    else match s.landingRun t.tag va len with
      | none => reject s
      | some la =>
        let clash := ((List.range 16).filter (· ≠ i)).any fun j =>
          s.lrValid 0 j && overlaps la len (s.lrBase 0 j) (s.lrLen 0 j)
        if clash || slot % 64 ≠ 0 || slot < 64 || 2 ^ 31 < slot || len < slot then reject s
        else (s.putLanding i [la % 2 ^ 32, la / 2 ^ 32, len, slot,
            t.tag + t.arg 2 1 * 2 ^ 18 + t.arg 3 1 * 2 ^ 22 + t.arg 4 1 * 2 ^ 28 + 2 ^ 30]).mbDone m 0)

/-- RESHARD (R371, R375, R376). -/
def execReshard (m : Mbx) (s : State) : Host.Outcome State Fault Refusal :=
  .next (s.command m 0x050B fun s t =>
    if 3 < t.arg 0 1 ∨ t.arg 8 6 % 64 ≠ 0 then s.mbDone m 0x0504
    else
      let s := s.mbWait m fun t => t
      match s.submitJob (t.arg 0 1) (t.arg 8 6) (some m) with
      | (some st, s) => s.mbDone m st
      | (none, s) => s)

end Sys2Proof.Machine
end

