-- ==== Sys2Proof/Machine/Config.lean ====
section
/-! DEFINITION. The Configuration Set: staging, the rules of a commit, the settings store, and how each unit takes its
values (R313, R314, R320, R456 to R462, R532). -/
namespace Sys2Proof.Machine
open Sys2Proof

/-! ## The staged set (R437, R456) -/

/-- The staged value of the word at a diagnostic-window offset. -/
def State.stagedWord (s : State) (d : Nat) : Nat := (s.ks.staged.get (s.reg (diagHome d)) (diagHome d)).toNat

/-- Write the RWC bits of a staged word. -/
def State.stageWord (s : State) (d v : Nat) : State :=
  let m := rwcMask d
  let old := s.stagedWord d
  s.updKs fun k => { k with
    staged := k.staged.put (diagHome d) (BitVec.ofNat 32 (old - (old &&& m) + (v &&& m))) }

/-- CFG_STAGE: every pair, or none where one names a word that holds no RWC field (R456). -/
def execCfgStage (m : Mbx) (s : State) : Host.Outcome State Fault Refusal :=
  .next (s.command m 0x0101 fun s t =>
    let n := t.arg 0 4
    let l := (List.range n).map fun i => (t.arg (8 + 8 * i) 4, t.arg (12 + 8 * i) 4)
    if n = 0 ∨ 240 < n ∨ l.any (fun x => rwcMask x.1 = 0) then s.mbDone m 0x0504
    else ((l.foldl (fun s x => s.stageWord x.1 x.2) s).mbResult m 0 (toBytes n 4)).mbDone m 0)

/-- ROUTE_STAGE (R437). -/
def execRouteStage (m : Mbx) (s : State) : Host.Outcome State Fault Refusal :=
  .next (s.command m 0x0401 fun s t =>
    let first := t.arg 0 2
    let n := t.arg 2 2
    let l := (List.range n).map fun i => BitVec.ofNat 32 (leAt (t.data.getD []) (4 * i) 4)
    if n = 0 ∨ 8192 < first + n then s.mbDone m 0x0504
    else (s.updKs fun k => { k with stagedRoutes := k.stagedRoutes.putList first l }).mbDone m 0)

/-- A fast entry: VALID in bit 39, identifier bits [12:8] in [36:32]; the whole identifier stays in [63:48] for the
checks of R459 (R314, R424). -/
def fastWord (id : Nat) : BitVec 64 :=
  if id = 0xFFFF then 0 else BitVec.ofNat 64 (fld id 8 5 * 2 ^ 32 + 2 ^ 39 + id * 2 ^ 48)

/-- FAST_STAGE: a link's whole table (R437). -/
def execFastStage (m : Mbx) (s : State) : Host.Outcome State Fault Refusal :=
  .next (s.command m 0x0402 fun s t =>
    let l := t.arg 0 1
    let ids := (List.range 256).map fun i => fastWord (leAt (t.data.getD []) (2 * i) 2)
    let bad := (List.range 256).any fun i =>
      let id := leAt (t.data.getD []) (2 * i) 2
      id ≠ 0xFFFF && (decide (8191 < id) || id % 256 ≠ i)
    if 23 < l || bad then s.mbDone m 0x0504
    else (s.updKs fun k => { k with stagedFast := k.stagedFast.putList (256 * l) ids }).mbDone m 0)

/-- The staged set becomes equal to the committed set: no overlay is left, but for the words of a snapshot that is being
committed, which keep the values committed now. -/
def State.discardStaged (s : State) : State :=
  let words (c : Commit) : Tab (BitVec 32) := c.words.map fun x => (x.1, s.reg x.1)
  let routes (c : Commit) : Tab (BitVec 32) := c.routes.map fun x => (x.1, s.routes.get 0 x.1)
  let fast (c : Commit) : Tab (BitVec 64) := c.fast.map fun x => (x.1, s.fast.get 0 x.1)
  s.updKs fun k => { k with
    staged := (k.commit.map words).getD [], stagedRoutes := (k.commit.map routes).getD [],
    stagedFast := (k.commit.map fast).getD [] }

/-- CFG_DISCARD. -/
def execCfgDiscard (m : Mbx) (s : State) : Host.Outcome State Fault Refusal :=
  .next (s.command m 0x0103 fun s _ => s.discardStaged.mbDone m 0)

/-! ## The rules of a commit (R459) -/

/-- A route entry of the staged set. -/
def State.stagedRoute (s : State) (i : Nat) : Nat := (s.ks.stagedRoutes.get (s.routes.get 0 i) i).toNat
/-- A fast entry of the staged set. -/
def State.stagedFastAt (s : State) (i : Nat) : Nat := (s.ks.stagedFast.get (s.fast.get 0 i) i).toNat
/-- Identifiers whose staged route entry may be nonzero. -/
def State.routeKeys (s : State) : List Nat := (s.routes.map (·.1) ++ s.ks.stagedRoutes.map (·.1)).dedup
/-- Fast entries that may be nonzero. -/
def State.fastKeys (s : State) : List Nat := (s.fast.map (·.1) ++ s.ks.stagedFast.map (·.1)).dedup

/-- Diagnostic-window offset of a route entry in AD0's replica (R424). -/
def routeOffset (i : Nat) : Nat := 0x40000 + 4 * i
/-- Diagnostic-window offset of a fast entry (R424). -/
def fastOffset (i : Nat) : Nat := 0x60000 + 0x800 * (i / 256) + 8 * (i % 256)

/-- A link number or 31 (R349). -/
def parentOk (p : Nat) : Bool := p ≤ 23 || p = 31

/-- A field of a word lies outside the range its register map gives (R166, R289, R346, R347, R349, R384, R452, R472). -/
def wordBad (d w : Nat) : Bool :=
  if d < 0x14000 then (if d % 0x400 = 0x30 then decide (fld w 0 16 < 63) else decide (52 < fld w 0 6))
  else if d < 0x28000 then
    (if d % 0x800 = 0x14 then decide (110 < fld w 16 8 ∨ fld w 24 4 < 1 ∨ 8 < fld w 24 4)
     else if d % 0x800 = 0x18 then decide (fld w 0 8 < 1 ∨ 168 < fld w 0 8) else decide (fld w 0 4 < 1))
  else if d < 0x29000 then decide (3 < fld w 0 3 ∧ fld w 0 3 < 7)
  else if d < 0x2A000 then decide (fld w 0 16 < 100)
  else if d = 0x2A008 then !parentOk (fld w 0 5) || !parentOk (fld w 5 5) || fld w 16 8 = 0
  else if d = 0x2AC0C then fld w 0 2 = 3
  else if d = 0x2B024 then decide (fld w 0 12 < 1200 ∨ 3200 < fld w 0 12 ∨ 12 < fld w 12 4 ∨ fld w 16 8 < 10)
  else if d = 0x2B028 then decide (fld w 0 8 < 20 ∨ 120 < fld w 0 8 ∨ fld w 8 8 < 1)
  else if 0x2B040 ≤ d ∧ d < 0x2B080 then fld w 0 2 = 3
  else if 0x2C000 ≤ d then decide (fld w 0 16 < 10)
  else false

/-- Offsets of the shard timeouts and of the far timeouts. -/
def rshCfgs : List Nat := [0x2C00C, 0x2C80C, 0x2D00C, 0x2D80C]
/-- Offsets of ZL_SW_CFG. -/
def swCfgs : List Nat := [0x29000, 0x29400, 0x29800, 0x29C00]

/-- Rule 1: a field outside its range, or a reserved bit of a route or fast entry. -/
def State.rule1 (s : State) : List Nat :=
  (rwcWords.filter fun d => wordBad d (s.stagedWord d)) ++
  ((s.routeKeys.filter fun i => decide (2 ^ 26 ≤ s.stagedRoute i)).map routeOffset) ++
  ((s.fastKeys.filter fun i => decide (2 ^ 61 ≤ s.stagedFastAt i)).map fastOffset)

/-- Rule 2: T1 < T2 < T3. -/
def State.rule2 (s : State) : List Nat :=
  ((List.range 16).map fun n => 0x20014 + 0x800 * n).filter fun d =>
    let w := s.stagedWord d
    !decide (fld w 0 8 < fld w 8 8 ∧ fld w 8 8 < fld w 16 8)

/-- Rule 3: one shard timeout for the module. -/
def State.rule3 (s : State) : List Nat :=
  if rshCfgs.all fun d => s.stagedWord d = s.stagedWord 0x2C00C then [] else rshCfgs

/-- Rule 4: every shard timeout is below every far timeout. -/
def State.rule4 (s : State) : List Nat :=
  if rshCfgs.all fun d => swCfgs.all fun e => decide (fld (s.stagedWord d) 0 16 < fld (s.stagedWord e) 0 16) then []
  else rshCfgs ++ swCfgs

/-- Rule 5: a parent link with OFF set. -/
def State.rule5 (s : State) : List Nat :=
  let w := s.stagedWord 0x2A008
  let off (p : Nat) : List Nat :=
    if p ≤ 23 && bit (s.stagedWord (0x2800C + 0x80 * p)) 5 then [0x2A008, 0x2800C + 0x80 * p] else []
  off (fld w 0 5) ++ off (fld w 5 5)

/-- Rule 6: PPS_EN away from the root, or an alternate equal to the parent. -/
def State.rule6 (s : State) : List Nat :=
  let w := s.stagedWord 0x2A008
  if (bit w 10 && fld w 0 5 ≠ 31) || (fld w 5 5 = fld w 0 5 && fld w 5 5 ≠ 31) then [0x2A008] else []

/-- Rule 7: LOCAL with PORTS, LOCAL on another identifier, or the module's own entry not LOCAL and VALID. -/
def State.rule7 (s : State) : List Nat :=
  let me := fld (s.stagedWord 0x2B020) 0 13
  ((s.routeKeys.filter fun i => bit (s.stagedRoute i) 24 && fld (s.stagedRoute i) 0 24 ≠ 0).map routeOffset) ++
  ((s.routeKeys.filter fun i => bit (s.stagedRoute i) 24 && i ≠ me).map fun i => [routeOffset i, 0x2B020]).flatten ++
  (if fld (s.stagedRoute me) 24 2 = 3 then [] else [routeOffset me, 0x2B020])

/-- Rule 8: a fast entry whose identifier differs from its index in bits [7:0]. -/
def State.rule8 (s : State) : List Nat :=
  (s.fastKeys.filter fun i => bit (s.stagedFastAt i) 39 && fld (s.stagedFastAt i) 48 8 ≠ i % 256).map fastOffset

/-- Rule 9: bay entries. -/
def State.rule9 (s : State) : List Nat :=
  let bay := s.stagedWord 0x2AC0C
  let w (b : Nat) : Nat := s.stagedWord (0x2AC40 + 4 * b)
  let valid := (List.range 16).filter fun b => bit (w b) 15
  (if fld bay 0 2 = 1 then [] else (valid.map fun b => [0x2AC0C, 0x2AC40 + 4 * b]).flatten) ++
  ((valid.filter fun b => valid.any fun e => b ≠ e && fld (w b) 0 13 = fld (w e) 0 13).map fun b => 0x2AC40 + 4 * b) ++
  (if fld bay 0 2 = 2 && fld bay 16 13 = fld (s.stagedWord 0x2B020) 0 13 then [0x2AC0C, 0x2B020] else [])

/-- Rule 10: the identifier changes while a link is not DOWN. -/
def State.rule10 (s : State) : List Nat :=
  if fld (s.stagedWord 0x2B020) 0 13 ≠ s.moduleId && (List.range 24).any fun l => (s.link l).phase ≠ .down then [0x2B020]
  else []

/-- A page of pier p's staging SRAM is OWNED. -/
def State.sramOwned (s : State) (p : Nat) : Bool :=
  s.owners.any fun w => decide (524288 + p * 128 ≤ w.1 ∧ w.1 < 524288 + p * 128 + 80) && fld w.2.toNat 18 3 = 1

/-- A page of stack n is OWNED. -/
def State.stackPagesOwned (s : State) (n : Nat) : Bool :=
  s.owners.any fun w => decide (n * 32768 ≤ w.1 ∧ w.1 < n * 32768 + 24576) && fld w.2.toNat 18 3 = 1

/-- Committed power word of a pier. -/
def State.pierWord (s : State) (p : Nat) : Nat := s.rfld (cfgOff + 0x40 + 4 * p) 0 7

/-- Rule 11 for one pier. -/
def State.powerBad (s : State) (p : Nat) : Bool :=
  let old := s.pierWord p
  let new := fld (s.stagedWord (0x2B040 + 4 * p)) 0 7
  old ≠ new && ((s.pier p).serves.isSome || s.winsOpen p ≠ 0 ||
    (fld new 0 2 = 1 && fld old 0 2 ≠ 1 && s.sramOwned p) ||
    (fld new 0 2 = 2 && fld old 0 2 ≠ 2 && (s.sramOwned p || s.stackPagesOwned p)))

/-- Rule 11: a power change of a pier in use. -/
def State.rule11 (s : State) : List Nat := ((List.range 16).filter s.powerBad).map fun p => 0x2B040 + 4 * p

/-- Rule 12: no pier ACTIVE. -/
def State.rule12 (s : State) : List Nat :=
  let l := (List.range 16).map fun p => 0x2B040 + 4 * p
  if l.all fun d => fld (s.stagedWord d) 0 2 ≠ 0 then l else []

/-- The rules in ascending number. -/
def State.rules (s : State) : List (Nat × List Nat) :=
  [(1, s.rule1), (2, s.rule2), (3, s.rule3), (4, s.rule4), (5, s.rule5), (6, s.rule6), (7, s.rule7), (8, s.rule8),
   (9, s.rule9), (10, s.rule10), (11, s.rule11), (12, s.rule12)]

/-- The first failing rule of the staged set, and the lowest offset of a field that its failing check reads. -/
def State.failingRule (s : State) : Option (Nat × Nat) :=
  match s.rules.find? fun r => r.2 ≠ [] with
  | some (n, l) => some (n, l.min?.getD 0)
  | none => none

/-! ## Units take a committed set (R320, R460) -/

/-- The span-time unit starts from commit: a root is LOCKED, a child acquires (R341). -/
def State.startTime (s : State) : State :=
  let p := s.rfld (tsOff + 8) 0 5
  s.updTs fun t => { t with
    parent := p, phase := if p = 31 then .locked else .acquiring, depth := if p = 31 then 0 else t.depth, stepped := false,
    thetas := [], good := 0 }

/-- Every link that may train and is DOWN trains (R453 step 7). -/
def State.trainAll (s : State) : State :=
  (List.range 24).foldl (fun s l => if (s.link l).phase = .down && s.mayTrain l then s.startTraining l else s) s

/-- The module enters RUNNING (R453 steps 7 and 8, R458 step 5). -/
def State.enterRunning (s : State) : State :=
  ((s.updKs fun k => { k with phase := .running }).startTime).trainAll

/-- A link takes its new role: OFF takes it out of service, another change retrains an UP link, and a failed role check
is forgotten (R297, R460). -/
def State.takeRole (s : State) (l old : Nat) : State :=
  let new := (s.reg (zlOff l + 0xC)).toNat
  if old = new then s
  else
    let s := s.updLink l fun x => { x with roleBad := false }
    if bit new 5 || ((s.link l).phase = .up && fld old 0 5 ≠ fld new 0 5) then s.leaveService l 4
    else s

/-- A new parent is followed by rate correction alone, with no step; a new root is LOCKED (R343, R460). -/
def State.takeParent (s : State) (old : Nat) : State :=
  let p := s.rfld (tsOff + 8) 0 5
  let s := if old ≠ p ∧ p ≠ 31 ∧ s.ts.phase = .locked then s.bump (tsOff + 0x2C) 1 else s
  if old = p then s
  else s.updTs fun t => { t with
    parent := p, phase := if p = 31 then .locked else .acquiring, depth := if p = 31 then 0 else t.depth, stepped := true,
    thetas := [], good := 0 }

/-- The committed set takes a snapshot's values, each unit as R460 says. -/
def State.takeSet (s : State) (words routes : Tab (BitVec 32)) (fast : Tab (BitVec 64)) : State :=
  let roles := (List.range 24).map fun l => (s.reg (zlOff l + 0xC)).toNat
  let parent := s.rfld (tsOff + 8) 0 5
  let piers := (List.range 16).map s.pierWord
  let put (a : Tab (BitVec 32)) (x : Nat × BitVec 32) : Tab (BitVec 32) := a.put x.1 x.2
  let putF (a : Tab (BitVec 64)) (x : Nat × BitVec 64) : Tab (BitVec 64) := a.put x.1 x.2
  let s := { s with
    regs := words.foldl put s.regs, routes := routes.foldl put s.routes, fast := fast.foldl putF s.fast,
    left := s.left.filter fun i => (routes.find i).isNone }
  let due := (List.range 16).filter fun p => piers.getD p 0 ≠ s.pierWord p
  let s := s.updKs fun k => { k with powerDue := (k.powerDue ++ due).dedup }
  let s := (List.range 24).foldl (fun s l => s.takeRole l (roles.getD l 0)) s
  if s.isRunning then (s.takeParent parent).trainAll else s

/-- Every committed RWC word. -/
def State.committedWords (s : State) : Tab (BitVec 32) := rwcWords.map fun d => (diagHome d, s.reg (diagHome d))

/-- Write the committed set over the older copy of the settings store, with the next sequence number (R458 step 3). -/
def State.storeSet (s : State) : Nat × State :=
  let b := s.ks.storeA.seq < s.ks.storeB.seq
  let seq := max s.ks.storeA.seq s.ks.storeB.seq + 1
  let st : Store := { valid := true, seq := seq, fmt := s.ks.fw.setFmt, words := s.committedWords, routes := s.routes,
                      fast := s.fast }
  (seq, s.updKs fun k => { k with storeA := if b then st else k.storeA, storeB := if b then k.storeB else st,
                                  storeLocked := false })

/-! ## CFG_COMMIT (R458) -/

/-- A commit that fails its rules: CFG_ERR, CFG_LAST and the result. -/
def State.commitFails (s : State) (m rule off : Nat) : State :=
  let s := ((s.orReg (cfgOff + 4) 1).setReg (cfgOff + 8) (BitVec.ofNat 32 rule)).setReg (cfgOff + 0xC) (BitVec.ofNat 32 off)
  (s.mbResult m 0 (detail [(rule, 2), (off, 4)])).mbDone m 0x0101

/-- CFG_COMMIT: steps 1 and 2; step 3 ends with SETTINGS_COPY_WRITTEN. -/
def execCfgCommit (m : Mbx) (s : State) : Host.Outcome State Fault Refusal :=
  .next (s.command m 0x0102 fun s _ =>
    if s.tripped then s.mbDone m 0x0850
    else if s.ks.commit.isSome then s.mbDone m 0x0509
    else match s.failingRule with
      | some (r, off) => s.commitFails m r off
      | none =>
        (s.updKs fun k => { k with
          commit := some { mb := m, words := k.staged, routes := k.stagedRoutes, fast := k.stagedFast } }).mbWait m
          fun t => t)

/-- SETTINGS_COPY_WRITTEN: steps 4 and 5 of a commit (R458, R460, R461). -/
def execSettingsCopyWritten (s : State) : Host.Outcome State Fault Refusal :=
  .next (match s.ks.commit with
    | none => s
    | some c =>
      if s.tripped then s
      else
        let s := (s.updKs fun k => { k with commit := none }).takeSet c.words c.routes c.fast
        let (seq, s) := s.storeSet
        let s := s.setReg64 (cfgOff + 0x10) seq
        let s := s.record 0 0 0x0105 false none (detail [(seq, 8)])
        let s := if s.ks.phase = .held then s.enterRunning else s
        if (s.takenCmd c.mb 0x0102).isSome then s.mbDone c.mb 0 else s)

/-! ## Step 4 of the bring-up (R457, R532) -/

/-- The copy that a flash holds: what the module last wrote there, or what the row says it holds (log entry 8). -/
def Store.copy (x : Store) (y : StoreCopy) : Store :=
  if x.valid then { x with valid := y.verifies }
  else { valid := y.verifies, seq := y.seq.toNat, fmt := y.fmt.toNat,
         words := rwcWords.filterMap fun d =>
           (Tab.find y.words (diagHome d)).map fun v => (diagHome d, v &&& BitVec.ofNat 32 (rwcMask d)),
         routes := y.routes.filter fun x => decide (x.1 < 8192), fast := y.fast.filter fun x => decide (x.1 < 6144) }

/-- Load a copy as the staged set. -/
def State.stageCopy (s : State) (x : Store) : State :=
  s.updKs fun k => { k with staged := x.words, stagedRoutes := x.routes, stagedFast := x.fast }

/-- The module is held after step 4, with an error in the module log (R457, R461, R532). -/
def State.holdWith (s : State) (code : Nat) : State :=
  let s := s.updKs fun k => { k with phase := .held, storeLocked := code = 0x060D }
  let s := if code = 0x0102 then s.orReg (cfgOff + 4) 2 else s
  s.record 0 0 code true none []

/-- What step 4 of the bring-up makes of the copy chosen and the other one. -/
def State.loadCopies (s : State) (c o : Store) : State :=
  if c.valid then
    if c.fmt ≠ s.ks.fw.setFmt then s.holdWith 0x060D
    else
      let t := s.stageCopy c
      match t.failingRule with
      | none =>
        let s := ((t.takeSet c.words c.routes c.fast).updKs fun k => { k with
          staged := [], stagedRoutes := [], stagedFast := [], powerDue := [] }).setReg64 (cfgOff + 0x10) c.seq
        s.enterRunning
      | some _ => t.holdWith 0x0102
  else if o.valid then (s.stageCopy o).holdWith 0x0102
  else s.holdWith 0x0102

/-- SETTINGS_LOAD (R453 step 4, R457). -/
def execSettingsLoad (copyA copyB : StoreCopy) (s : State) : Host.Outcome State Fault Refusal :=
  let a := s.ks.storeA.copy copyA
  let b := s.ks.storeB.copy copyB
  .next (if s.ks.bringup ≠ 3 ∨ s.ks.phase ≠ .boot then s
    else
      let s := s.updKs fun k => { k with storeA := a, storeB := b, bringup := 4 }
      let s := if a.seq < b.seq then s.loadCopies b a else s.loadCopies a b
      s.setRfld (cfgOff + 0x1C) 0 16 (min 0xFFFF ((s.elapsed - s.phys.t0) / 1000000)))

end Sys2Proof.Machine
end

