-- ==== Sys2Proof/Machine/Aes.lean ====
section
/-! DEFINITION. AES-256 in Galois counter mode, the seal of R517, R518, R522, R524 and R531. The spec names the function
and leaves its definition to its standards, FIPS 197 and NIST SP 800-38D: the field, the S-box, the key schedule and the
hash here are theirs (PRESUMED, log entry 10). -/
namespace Sys2Proof.Machine
open Sys2Proof

/-! ## The field of 256 elements and the S-box -/

/-- Multiply by x. -/
def xtime (a : Byte) : Byte := if 128 ≤ a.toNat then (a <<< 1) ^^^ 0x1B else a <<< 1

/-- The multiples of a by x to the powers 0 to n. -/
def xpowers (a : Byte) : Nat → List Byte
  | 0 => [a]
  | n + 1 => a :: xpowers (xtime a) n

/-- The product of two elements. -/
def gmul (a b : Byte) : Byte :=
  (List.zip (List.range 8) (xpowers a 7)).foldl (fun z x => if b.toNat / 2 ^ x.1 % 2 = 1 then z ^^^ x.2 else z) 0

/-- a to the power 2^n - 1. -/
def gmersenne (a : Byte) : Nat → Byte
  | 0 => 1
  | n + 1 => let y := gmersenne a n
             gmul (gmul y y) a

/-- The inverse: a to the power 254, zero of zero. -/
def ginv (a : Byte) : Byte := let y := gmersenne a 7
                              gmul y y

/-- SubBytes of one byte. -/
def subByte (a : Byte) : Byte :=
  let b := ginv a
  b ^^^ b.rotateLeft 1 ^^^ b.rotateLeft 2 ^^^ b.rotateLeft 3 ^^^ b.rotateLeft 4 ^^^ 0x63

/-! ## The cipher -/

/-- Round constant i of the key schedule. -/
def rcon (i : Nat) : List Byte := [(xpowers 1 i).getD i 0, 0, 0, 0]

/-- One more word of the key schedule; the words so far, last first. -/
def keyWord (w : List (List Byte)) (i : Nat) : List (List Byte) :=
  let last := w.getD 0 []
  let t := if i % 8 = 0 then xorBytes ((last.rotateLeft 1).map subByte) (rcon (i / 8 - 1))
    else if i % 8 = 4 then last.map subByte else last
  xorBytes (w.getD 7 []) t :: w

/-- The 15 round keys of 16 bytes. -/
def roundKeys (key : List Byte) : List (List Byte) :=
  let first := ((List.range 8).map fun i => sliceBytes key (4 * i) 4).reverse
  let w := (((List.range 52).map (· + 8)).foldl keyWord first).reverse
  (List.range 15).map fun r => ((w.drop (4 * r)).take 4).flatten

/-- ShiftRows: byte r + 4 c comes from column c + r. -/
def shiftRows (b : List Byte) : List Byte := (List.range 16).map fun i => b.getD ((i + 4 * (i % 4)) % 16) 0

/-- MixColumns of one column. -/
def mixColumn (c : List Byte) : List Byte :=
  (List.range 4).map fun i =>
    gmul 2 (c.getD i 0) ^^^ gmul 3 (c.getD ((i + 1) % 4) 0) ^^^ c.getD ((i + 2) % 4) 0 ^^^ c.getD ((i + 3) % 4) 0

/-- MixColumns. -/
def mixColumns (b : List Byte) : List Byte := ((List.range 4).map fun c => mixColumn (sliceBytes b (4 * c) 4)).flatten

/-- One block under the round keys. -/
def aesBlock (ks : List (List Byte)) (b : List Byte) : List Byte :=
  let b := ((List.range 13).map (· + 1)).foldl
    (fun b r => xorBytes (mixColumns (shiftRows (b.map subByte))) (ks.getD r [])) (xorBytes b (ks.getD 0 []))
  xorBytes (shiftRows (b.map subByte)) (ks.getD 14 [])

/-! ## Galois counter mode -/

/-- A block as a number, its first byte highest. -/
def beNat (b : List Byte) : Nat := ofBytes b.reverse
/-- A number in n bytes, the first highest. -/
def beBytes (v n : Nat) : List Byte := (toBytes v n).reverse

/-- The product in the field of the hash: the first bit of a block is the coefficient of 1. -/
def ghashMul (x y : Nat) : Nat :=
  ((List.range 128).foldl (fun (a : Nat × Nat) i =>
    (if x / 2 ^ (127 - i) % 2 = 1 then Nat.xor a.1 a.2 else a.1,
     if a.2 % 2 = 1 then Nat.xor (a.2 / 2) (0xE1 * 2 ^ 120) else a.2 / 2)) (0, y)).1

/-- The 16-byte blocks of a string, the last one filled with zeros. -/
def blocksOf (d : List Byte) : List (List Byte) := (List.range ((d.length + 15) / 16)).map fun i => sliceBytes d (16 * i) 16

/-- The counter block i of a nonce of 12 bytes. -/
def counterBlock (nonce : List Byte) (i : Nat) : List Byte := sliceBytes nonce 0 12 ++ beBytes i 4

/-- The data under the key stream, from counter 2 on. -/
def gcmStream (ks : List (List Byte)) (nonce d : List Byte) : List Byte :=
  xorBytes d ((List.range ((d.length + 15) / 16)).map fun i => aesBlock ks (counterBlock nonce (i + 2))).flatten

/-- The tag over a ciphertext with no associated data. -/
def gcmTag (ks : List (List Byte)) (nonce ct : List Byte) : List Byte :=
  let h := beNat (aesBlock ks (List.replicate 16 0))
  let y := (blocksOf ct ++ [beBytes (8 * ct.length) 16]).foldl (fun y b => ghashMul (Nat.xor y (beNat b)) h) 0
  xorBytes (beBytes y 16) (aesBlock ks (counterBlock nonce 1))

/-- Seal: the ciphertext and its 16-byte tag. -/
def gcmSeal (key nonce d : List Byte) : List Byte × List Byte :=
  let ks := roundKeys key
  let ct := gcmStream ks nonce d
  (ct, gcmTag ks nonce ct)

/-- Open: the plaintext, or none where the tag does not verify. -/
def gcmOpen (key nonce ct tag : List Byte) : Option (List Byte) :=
  let ks := roundKeys key
  if gcmTag ks nonce ct = tag then some (gcmStream ks nonce ct) else none

end Sys2Proof.Machine
end

