-- ==== Sys2Proof/Machine/Image.lean ====
section
/-! DEFINITION. The device's keys, firmware images, their manifests, keys and pieces, and the slots that a boot accepts
(R512, R513, R515 to R518, R522, R523, R533). -/
namespace Sys2Proof.Machine
open Sys2Proof

/-! ## Keys and identity (R512, R513, R533) -/

/-- The device keys of R512. -/
inductive DeviceKey where
  | attest | kem | settings | counter
deriving DecidableEq, Repr

/-- The label of a device key in ASCII (R512). -/
def DeviceKey.label : DeviceKey → List Byte
  | .attest => [0x43, 0x57, 0x41, 0x54, 0x54]
  | .kem => [0x43, 0x57, 0x4B, 0x45, 0x4D]
  | .settings => [0x43, 0x57, 0x53, 0x45, 0x54]
  | .counter => [0x43, 0x57, 0x52, 0x50, 0x4D, 0x43]

/-- The 64-byte seed of a device key (R512). -/
def keySeed (x : DeviceKey) : List Byte := shake256 (x.label ++ Config.deviceSecret) 64

/-- The attestation public key of 1,793 bytes (R512, R533). -/
def attestKey : List Byte := sliceBytes (Config.falconPublic (keySeed .attest)) 0 1793

/-- The encapsulation key of 1,568 bytes (R512, R533). -/
def kemKey : List Byte := sliceBytes (Config.kemPublic (keySeed .kem)) 0 1568

/-- The device identifier (R513). -/
def deviceId : List Byte := (shake256 attestKey 64).take 8

/-- The device certificate (R533): the part and the stepping are those of R534. -/
def certificate : List Byte :=
  let body := detail [(0x43445743, 4)] ++ deviceId ++ detail [(0xC016, 2), (0x00C0, 2)] ++
    sliceBytes Config.serialNumber 0 16 ++ attestKey ++ kemKey
  let sig := Config.certificateSignature body
  body ++ toBytes sig.length 2 ++ sig

/-! ## The slots -/

/-- The manifest of a slot: Valkader's until an update writes another (log entry 8). -/
def ImageSlot.man (x : ImageSlot) (b : Bool) : List Byte := if x.manifest = [] then Config.factoryManifest b else x.manifest

/-- The version floor: the higher of the two counters (R523). -/
def Firmware.floor (x : Firmware) : Nat := max x.slotA.counter x.slotB.counter

/-- One slot. -/
def Firmware.slot (x : Firmware) (b : Bool) : ImageSlot := if b then x.slotB else x.slotA

/-- Replace one slot. -/
def Firmware.setSlot (x : Firmware) (b : Bool) (y : ImageSlot) : Firmware :=
  if b then { x with slotB := y } else { x with slotA := y }

/-- The components' versions by KIND (R516). -/
def manVersions (m : List Byte) : Tab Nat :=
  (List.range 4).foldl (fun (t : Tab Nat) i => t.put (leAt m (96 + 32 * i) 1) (leAt m (104 + 32 * i) 4)) []

/-! ## The manifest (R515, R516) -/

/-- PIECES. -/
def manPieces (m : List Byte) : Nat := leAt m 16 2
/-- FLAGS.PLAIN. -/
def manPlain (m : List Byte) : Bool := bit (leAt m 6 2) 0
/-- Where SLEN stands: the bytes before it are signed. -/
def manSigned (m : List Byte) : Nat := 256 + 48 * manPieces m + 1793
/-- The manifest's length in bytes. -/
def manLen (m : List Byte) : Nat := manSigned m + 2 + leAt m (manSigned m) 2
/-- IMAGE_ID. -/
def manId (m : List Byte) : List Byte := sliceBytes m 20 8
/-- Entry of piece i: its digest and its tag. -/
def manEntry (m : List Byte) (i : Nat) : List Byte := sliceBytes m (256 + 48 * i) 48

/-- SIGNER is the firmware key, and it signed the bytes before SLEN. -/
def signatureOk (m : List Byte) : Bool :=
  let signer := sliceBytes m (manSigned m - 1793) 1793
  shake256 signer 64 = Config.keyDigest 0 &&
    Config.falconVerify signer (m.take (manSigned m)) (sliceBytes m (manSigned m + 2) (leAt m (manSigned m) 2))

/-- A component entry (R516). -/
def componentOk (m : List Byte) (i : Nat) : Bool :=
  let o := 96 + 32 * i
  let first := leAt m (o + 2) 2
  let n := leAt m (o + 4) 2
  leAt m o 1 = i && leAt m (o + 1) 1 = 0 && leAt m (o + 6) 2 = 0 && n ≠ 0 && decide (first + n ≤ manPieces m) &&
    leAt m (o + 12 + 4 * i) 4 = 0 && decide (leAt m (o + 28) 4 ≤ 65536 * n)

/-- The fields of a manifest (R516). -/
def fieldsOk (m : List Byte) : Bool :=
  leAt m 0 4 = 0x4D555743 && leAt m 4 2 = 1 && decide (leAt m 6 2 ≤ 1) && leAt m 18 2 = 0 && leAt m 28 4 = 0 &&
  ofBytes (sliceBytes m 224 32) = 0 && ([0, 1, 2, 3].all fun i => componentOk m i) &&
  (!manPlain m || (ofBytes (sliceBytes m 32 64) = 0 &&
    (List.range (manPieces m)).all fun i => ofBytes ((manEntry m i).drop 32) = 0))

/-- The checks of a manifest in the order of R519, up to SEC_EPOCH; 0 when all pass. -/
def Firmware.manStatus (x : Firmware) (m : List Byte) : Nat :=
  if manPieces m = 0 ∨ 1536 < manPieces m ∨ m.length < manLen m then 0x0602
  else if !signatureOk m then 0x0601
  else if !fieldsOk m then 0x0602
  else if leAt m 12 2 < x.floor then 0x0603
  else 0

/-! ## Image keys and pieces (R517, R518, R522, R531) -/

/-- The key-encryption key. -/
def kekOf (ss id : List Byte) : List Byte :=
  (shake256 ([0x43, 0x57, 0x4B, 0x45, 0x4B] ++ ss ++ id) 32).take 32

/-- Steps 1 to 3 of R517. -/
def unwrapKey (wrap id : List Byte) : Option (List Byte) :=
  gcmOpen (kekOf (Config.kemDecaps (keySeed .kem) (sliceBytes wrap 0 1568)) id) (List.replicate 12 0)
    (sliceBytes wrap 1568 32) (sliceBytes wrap 1600 16)

/-- The image key of a slot: its commitment stands in the manifest, or in the local tag table of a PLAIN slot. -/
def ImageSlot.imageKey (x : ImageSlot) : Option (List Byte) :=
  match unwrapKey x.wrap (manId x.manifest) with
  | none => none
  | some k =>
    let commit := if x.plain then x.key else sliceBytes x.manifest 32 64
    if shake256 k 64 = commit then some k else none

/-- The nonce of piece i. -/
def pieceNonce (id : List Byte) (i : Nat) : List Byte := id ++ toBytes i 4

/-- The digest of a piece as its entry holds it. -/
def pieceDigest (d : List Byte) : List Byte := (shake256 d 32).take 32

/-- Piece i of a slot decrypts and checks (R518, R522, R524). -/
def ImageSlot.pieceOk (x : ImageSlot) (k : List Byte) (i : Nat) : Bool :=
  let e := manEntry x.manifest i
  let d := (x.pieces.find i).getD []
  let tag := if x.plain then x.tags.getD i [] else e.drop 32
  match gcmOpen k (pieceNonce (manId x.manifest) i) d tag with
  | none => false
  | some p => !x.plain || pieceDigest p = e.take 32

/-! ## The slots at boot (R522, R523) -/

/-- Every piece of component i of a slot is there and checks (R522). -/
def ImageSlot.componentGood (x : ImageSlot) (i : Nat) : Bool :=
  x.manifest = [] || (match x.imageKey with
    | none => false
    | some k => (List.range (leAt x.manifest (100 + 32 * i) 2)).all fun j =>
        x.pieceOk k (leAt x.manifest (98 + 32 * i) 2 + j))

/-- The status of a slot at boot, 0 where it is accepted: what the row says the boot ROM reads in the flash, and for an
image that this module has stored what its bytes say (R522, R535). -/
def Firmware.slotStatus (x : Firmware) (b : Bool) (c : SlotCheck) : Nat :=
  let y := x.slot b
  if !c.manifest || (y.manifest ≠ [] && !signatureOk y.manifest) then 0x0601
  else if leAt (y.man b) 12 2 < x.floor then 0x0603
  else if !c.key || (y.manifest ≠ [] && y.imageKey.isNone) then 0x0604
  else if !c.pieces || y.refused || !y.componentGood 3 then 0x0605
  else 0

/-- Advance both counters to an epoch (R523). -/
def Firmware.advance (x : Firmware) (e : Nat) : Firmware :=
  let up (y : ImageSlot) : ImageSlot := { y with counter := max y.counter e }
  { x with slotA := up x.slotA, slotB := up x.slotB }

/-- Boot from slot b (R522, R523). -/
def Firmware.boot (x : Firmware) (b : Bool) : Firmware :=
  let m := (x.slot b).man b
  { x.advance (leAt m 12 2) with
    puf := true, bootedB := b, byRecovery := (x.slot b).plain, versions := manVersions m, setFmt := leAt m 14 2,
    secEpoch := leAt m 12 2 }

/-- Update the firmware state. -/
def State.updFw (s : State) (f : Firmware → Firmware) : State := s.updKs fun k => { k with fw := f k.fw }

end Sys2Proof.Machine
end

