-- ==== Sys2Proof/Machine/Power.lean ====
section
/-! DEFINITION. Power domains, what survives each reset and low-power state, bring-up, and pier power (R18, R453 to R455,
R465 to R470, R484, R512 to R514, R522, R523, R538, R544). -/
namespace Sys2Proof.Machine
open Sys2Proof

/-! ## Clearing parts of the module (R468) -/

/-- Registers of a run of offsets return to their reset values, but for words of RWC fields. -/
def State.dropRegs (s : State) (off n : Nat) : State :=
  { s with regs := s.regs.filter fun x =>
      !(decide (off ≤ x.1 ∧ x.1 < off + n) && rwcMask (x.1 - 0x1000000) = 0) }

/-- The MAR_, PSQ_ and VEC_ blocks of a pier. -/
def State.dropPierRegs (s : State) (p : Nat) : State :=
  ((s.dropRegs (marOff p 0) 0x800).dropRegs (psqOff p) 0x400).dropRegs (vecOff p) 0x100

/-- Page-owner words of a run of local pages return to FREE, and the bytes of the pages are lost. -/
def State.dropPages (s : State) (page n : Nat) : State :=
  { s with
    mem := Memory.clear s.mem (page * 2 ^ 21) (n * 2 ^ 21),
    badAtoms := s.badAtoms.filter fun a => !decide (page * 32768 ≤ a ∧ a < (page + n) * 32768),
    owners := s.owners.filter fun w => !decide (page ≤ w.1 ∧ w.1 < page + n) }

/-- The staging SRAM of pier p, contents and owners. -/
def State.dropSram (s : State) (p : Nat) : State := s.dropPages (524288 + 128 * p) 80
/-- The stack of pier n, contents and owners. -/
def State.dropStack (s : State) (n : Nat) : State := s.dropPages (32768 * n) 24576

/-- What a compute die that loses power keeps: only its place in the count of tasks. -/
def PierState.powered (x : PierState) (power : Nat) : PierState :=
  { PierState.reset with nextSer := x.nextSer, power := power }

/-- A compute die loses power: RETAIN and OFF columns of R468, staging SRAM and the CFG_DROOP_CNT word included. -/
def State.dropDie (s : State) (p power : Nat) : State :=
  let s := ((s.dropPierRegs p).dropSram p).setReg (cfgOff + 0xC0 + 4 * p) 0
  let s : State := { s with phys := { s.phys with droop := s.phys.droop.del p } }
  s.updPier p fun x => x.powered power

/-! ## Power domains (R18, R19, R465, R546) -/

/-- Pier p's domains: j = 0 to 3 the array pairs, 4 the vector engine, 5 the core of the compute die, 6 the stack. -/
def State.pierDomain (s : State) (p j : Nat) : Bool :=
  let x := s.pier p
  if j < 4 then x.power = 0 && bit x.arrOn j
  else if j = 4 then x.power = 0 && x.vecOn
  else if j = 5 then x.power = 0
  else x.power ≠ 2 || (s.stack p).up || (s.stack p).retain

/-- Abutment die k's domains: j = 0 and 1 three links each, 2 the switch slice and engines, 3 always on. -/
def State.dieDomain (s : State) (k j : Nat) : Bool :=
  if j < 2 then (s.die k).switchUp && (List.range 3).any fun i => !s.linkOff (6 * k + 3 * j + i)
  else if j = 2 then
    (s.die k).switchUp && (((List.range 16).any fun p => fld (s.pierWord p) 0 2 ≠ 2) ||
      (List.range 6).any fun i => !s.linkOff (6 * k + i))
  else true

/-- Power domain PD0 to PD127 is on. -/
def State.domainOn (s : State) (pd : Nat) : Bool :=
  s.phys.input &&
    (if pd < 112 then !s.tripped && s.pierDomain (pd / 7) (pd % 7)
     else ((pd - 112) % 4 = 3 || !s.tripped) && s.dieDomain ((pd - 112) / 4) ((pd - 112) % 4))

/-! ## Cold and warm resets (R467 to R469, R484, R546) -/

/-- What the configuration flashes hold of a context, and what a warm reset keeps of its generation (R468, R469). -/
def Context.restart (x : Context) (warm : Bool) : Context :=
  { Context.reset with
    gen := if warm then x.gen else x.recorded, lastRaise := if warm then x.lastRaise else none,
    raises := if warm then x.raises else 0, recorded := x.recorded }

/-- The inspection record as the settings store holds it (R468, R501). -/
def Inspection.restart (x : Inspection) : Inspection :=
  match x.saved with
  | none => Inspection.reset
  | some y => { Inspection.reset with
      score := y.score, stamp := y.stamp, acc := y.acc, raw := y.raw, conds := y.conds,
      selftestStamp := y.selftestStamp, selftestFails := y.selftestFails, saved := some y }

/-- Firmware state that the flashes hold. -/
def Firmware.restart (x : Firmware) : Firmware :=
  { Firmware.reset with slotA := x.slotA, slotB := x.slotB, activeB := x.activeB }

/-- The sticky registers (R468): CFG_RESET and MGT_TRIP but for TRIP. -/
def State.sticky (s : State) : Tab (BitVec 32) :=
  [(mgtOff + 4, s.reg (mgtOff + 4) &&& 0xFFFFFF0E), (cfgOff + 0x18, s.reg (cfgOff + 0x18))]

/-- The settings store when a reset meets a commit past its step 2: a warm reset finds the copy written, a loss of power
finds it written or not, as the next read says (R457, R458, log entry 8). -/
def State.settleStore (s : State) (warm : Bool) : Keystone :=
  match s.ks.commit with
  | none => s.ks
  | some c =>
    let k := (s.takeSet c.words c.routes c.fast).storeSet.2.ks
    if warm then { s.ks with storeA := k.storeA, storeB := k.storeB }
    else if s.ks.storeA.seq < s.ks.storeB.seq then { s.ks with storeA := Store.reset }
    else { s.ks with storeB := Store.reset }

/-- The module before any step of its bring-up: what R468 does not keep is at its reset value. -/
def State.restart (s : State) (warm : Bool) : State :=
  let k := s.settleStore warm
  let phys : Physical :=
    if warm then { Physical.reset with
      input := true, t0 := s.elapsed, temps := s.phys.temps, lidHot := s.phys.lidHot, dieHot := s.phys.dieHot,
      undervolt := s.phys.undervolt, strap := s.phys.strap }
    else Physical.reset
  { State.reset with
    pending := s.pending, out := s.out, elapsed := s.elapsed, freeCtr := s.freeCtr, phys := phys,
    regs := if warm then s.sticky else [],
    ks := { Keystone.reset with
      ctxs := k.ctxs.map fun x => (x.1, x.2.restart warm), storeA := k.storeA, storeB := k.storeB,
      failedChannels := k.failedChannels, repairs := k.repairs, insp := k.insp.restart, fw := k.fw.restart } }

/-- A warm reset: R453 from step 1, with the cause and the count kept (R472, R484). -/
def State.warmReset (s : State) (cause : Nat) : State :=
  let n := min 0xFFFF (s.rfld (cfgOff + 0x18) 16 16 + 1)
  let s := (s.restart true).updKs fun k => { k with bringup := 1 }
  s.setReg (cfgOff + 0x18) (BitVec.ofNat 32 (cause + n * 2 ^ 16))

/-- CFG_RESET.CAUSE of a warm reset. -/
def causeCode : WarmCause → Nat
  | .command => 1
  | .managementPort => 2
  | .keystoneError => 3

/-- Some sensor reads above 95 °C (R546). -/
def State.hotSensor (s : State) : Bool :=
  s.phys.temps.any fun x => 1 ≤ x.1 && x.1 ≤ 56 && decide (380 < x.2.toInt)

/-- A warm reset is requested; after a trip it waits for the sensors (R546). -/
def State.raiseWarm (s : State) (c : WarmCause) : State :=
  if !s.phys.input then s
  else if s.tripped && s.hotSensor then s.updKs fun k => { k with warmWaits := some c }
  else s.warmReset (causeCode c)

/-- WARM_RESET (R467, R484). -/
def execWarmReset (cause : WarmCause) (s : State) : Host.Outcome State Fault Refusal := .next (s.raiseWarm cause)

/-- TRIP_COOLDOWN_RESET: every sensor reads 95 °C or below, and the warm reset that waited starts (R546). -/
def execTripCooldownReset (s : State) : Host.Outcome State Fault Refusal :=
  .next (match s.ks.warmWaits with
    | none => s
    | some c =>
      let cool := s.phys.temps.filter fun x => decide (x.2.toInt ≤ 380)
      ({ s with phys := { s.phys with temps := cool } } : State).warmReset (causeCode c))

/-- POWER_ON: the input rises above 40 V after a fall below 38 V: a cold reset, and step 1 of the bring-up; the strap is
sampled (R453, R467, R539). -/
def execPowerOn (strap : BitVec 2) (s : State) : Host.Outcome State Fault Refusal :=
  .next (if s.phys.input then s
    else
      let s := (s.restart false).updKs fun k => { k with bringup := 1 }
      { s with phys := { s.phys with input := true, t0 := s.elapsed, strap := strap } })

/-- POWER_LOSS: the input falls below 38 V and the regulators stop; the flashes keep what they hold (R544). -/
def execPowerLoss (s : State) : Host.Outcome State Fault Refusal :=
  .next (if s.phys.input then s.restart false else s)

/-! ## Steps 2 and 3 of the bring-up (R453, R512, R514, R522, R523) -/

/-- KEYSTONE_IMAGE_ACCEPT (R453 step 2, R512, R514, R522). -/
def execKeystoneImageAccept (puf : Bool) (slotA slotB : SlotCheck) (s : State) : Host.Outcome State Fault Refusal :=
  .next (if s.ks.bringup ≠ 1 ∨ s.ks.phase ≠ .boot then s
    else if !puf then
      ((s.updFw fun x => { x with puf := false }).updKs fun k => { k with phase := .recovery }).record 0 0 0x0610 true none
        []
    else
      let x := s.ks.fw
      let stA := x.slotStatus false slotA
      let stB := x.slotStatus true slotB
      let first := x.activeB
      let st (b : Bool) : Nat := if b then stB else stA
      if st first ≠ 0 ∧ st (!first) ≠ 0 then
        ((s.updFw fun x => { x with puf := true }).updKs fun k => { k with phase := .recovery }).record
          0 0 0x060E true none (detail [(2, 1), (0, 1), (stA, 2), (stB, 2)])
      else
        let b := if st first = 0 then first else !first
        let s := s.updFw fun x => x.boot b
        let s := s.setReg (ksOff + 4) (BitVec.ofNat 32 (leAt ((x.slot b).man b) 8 4))
        let s := [0, 1, 2, 3].foldl (fun s k => s.updDie k fun y => { y with shareUp := true }) s
        let s := s.updKs fun k => { k with bringup := 2 }
        if b = first then s
        else s.record 0 0 0x060F true none (detail [(b2n first, 1), (0, 1), (stA, 2), (stB, 2)]))

/-- A component of the booted slot fails its tag: the slot is marked refused and a warm reset follows (R522). -/
def State.componentFails (s : State) : State :=
  let b := s.ks.fw.bootedB
  (s.updFw fun x => x.setSlot b { x.slot b with refused := true }).raiseWarm .keystoneError

/-- ENGINE_START (R453 step 3). The link firmware is checked here, the base dies' and the sequencers' at step 5 (R522;
which component starts with which die is DEDUCED, log entry 147). -/
def execEngineStart (componentFails : Bool) (s : State) : Host.Outcome State Fault Refusal :=
  .next (if s.ks.bringup ≠ 2 ∨ s.ks.phase ≠ .boot then s
    else if componentFails || !(s.ks.fw.slot s.ks.fw.bootedB).componentGood 2 then s.componentFails
    else
      let s := [0, 1, 2, 3].foldl (fun s k => s.updDie k fun y => { y with switchUp := true }) s
      (s.orReg mgtOff 0x100).updKs fun k => { k with bringup := 3 })

/-! ## Steps 5 and 6 (R284 to R286, R453, R465, R466) -/

/-- Committed STATE of a pier: 0 ACTIVE, 1 RETAIN, 2 OFF. -/
def State.pierGoal (s : State) (p : Nat) : Nat := fld (s.pierWord p) 0 2

/-- The arrays and the vector engine take their committed enables. -/
def State.pierEnables (s : State) (p : Nat) : State :=
  let w := s.pierWord p
  s.updPier p fun x => { x with arrOn := fld w 2 4, vecOn := bit w 6 }

/-- STACK_BRINGUP: the stack is trained and zeroed; a channel that does not train, or is recorded as failed, is mapped
out, and two keep the stack out of service; post-package repair takes the settings store's repair list; every page is
written (R247, R284 to R286, R453 step 5). The base die's firmware and the sequencer's are checked as their dies start
(R522). -/
def execStackBringup (n : Stk) (untrained : BitVec 32) (s : State) : Host.Outcome State Fault Refusal :=
  let x := s.stack n
  let fw := s.ks.fw.slot s.ks.fw.bootedB
  .next (if s.ks.bringup < 4 ∨ s.tripped = true ∨ s.pierGoal n = 2 ∨ x.up = true ∨ x.retain = true ∨ x.dead = true then s
    else if !fw.componentGood 0 || !fw.componentGood 1 then s.componentFails
    else
      let bad := untrained.toNat ||| s.ks.failedChannels.get 0 n
      let s := if bad = 0 then s else s.noteFailed n bad
      let s := (s.dropStack n).setReg (dmcOff n + 0xC) (BitVec.ofNat 32 bad)
      let many := decide (1 < popCount bad 32)
      let hold := s.pierGoal n = 1 && !s.ks.powerDue.contains n.val
      let s := s.updStack n fun _ => { StackState.reset with
        up := !many && !hold, dead := many, oos := many, retain := !many && hold, repaired := s.ks.repairs.get [] n }
      let s := match lowBit bad 32 with
        | some c => if many then s else s.mapOut n c
        | none => s
      let s := s.add64 (dmcOff n + 0x30) (s.stackBytes n)
      if hold then s.updPier n fun x => { x with power := 1 } else s)

/-- The compute die of a pier comes up ACTIVE: domains on, PLL locked, staging SRAM zeroed (R453 step 6, R466). -/
def State.dieUp (s : State) (p : Nat) : State :=
  ((s.dropSram p).updPier p fun x => { x with power := 0, ready := true }).pierEnables p

/-- PIER_BRINGUP (R453 step 6). -/
def execPierBringup (p : Pier) (s : State) : Host.Outcome State Fault Refusal :=
  .next (if s.ks.bringup < 4 ∨ s.tripped = true ∨ s.pierGoal p ≠ 0 ∨ (s.pier p).power ≠ 2 ∨ s.stackUp p = false ∨
      s.ks.powerDue.contains p.val then s
    else s.dieUp p)

/-- A pier goes OFF: its stack's contents and owners are lost too. -/
def State.pierOff (s : State) (p : Nat) : State :=
  ((((s.dropDie p 2).dropStack p).dropRegs (dmcOff p) 0x800).updStack p fun _ => StackState.reset)

/-- A pier goes from ACTIVE to RETAIN: the stack enters self-refresh. -/
def State.pierRetain (s : State) (p : Nat) : State :=
  (s.dropDie p 1).updStack p fun x => { x with up := false, retain := true }

/-- A pier leaves RETAIN: self-refresh ends. -/
def State.pierWake (s : State) (p : Nat) : State :=
  (s.updStack p fun x => { x with up := true, retain := false }).dieUp p

/-- A transition of R466 that can complete now, if one can. -/
def State.transition (s : State) (p : Nat) : Option State :=
  let now := (s.pier p).power
  let goal := s.pierGoal p
  if goal = 2 then some (s.pierOff p)
  else if now = goal then some (if goal = 0 then s.pierEnables p else s)
  else if now = 0 then some (s.pierRetain p)
  else if now = 1 then some (s.pierWake p)
  else if !s.stackUp p then none
  else some (if goal = 0 then s.dieUp p else s.pierRetain p)

/-- PIER_POWER_TRANSITION: a committed power change completes (R465, R466). -/
def execPierPowerTransition (p : Pier) (s : State) : Host.Outcome State Fault Refusal :=
  .next (if s.tripped = true ∨ !s.ks.powerDue.contains p.val then s
    else match s.transition p with
      | none => s
      | some t =>
        let w := t.pierWord p
        (t.updKs fun k => { k with powerDue := k.powerDue.erase p.val }).record 0 0 0x0103 false none
          (detail [(p.val, 1), (fld w 0 2, 1), (fld w 2 4, 1), (fld w 6 1, 1)]))

/-! ## The host port (R453, R467, R468, R470, R538) -/

/-- PERST_DEASSERT: the host port's link is trained and memory space is enabled; SPEED, WIDTH and FLIT are what the
partner agreed to. -/
def execPerstDeassert (speed : BitVec 3) (width : BitVec 5) (flit : Bool) (s : State) :
    Host.Outcome State Fault Refusal :=
  .next (if !s.phys.input then s
    else ({ s with hp := { s.hp with up := true } } : State).setReg hpOff
      (BitVec.ofNat 32 (speed.toNat + width.toNat * 8 + b2n flit * 2 ^ 8)))

/-- HOST_PORT_RESET: PCIe configuration space, the MSI-X table, HP_ fields other than RWC and the event rings' settings
return to reset values (R468, R470). -/
def execHostPortReset (_cause : PortCause) (s : State) : Host.Outcome State Fault Refusal :=
  let keep := s.regs.filter fun x =>
    !((decide (hpOff ≤ x.1 ∧ x.1 < hpOff + 0xC)) || (decide (hpOff + 0x10 ≤ x.1 ∧ x.1 < hpOff + 0x40)) ||
      decide (0x510000 ≤ x.1 ∧ x.1 < 0x518000))
  let unring (c : Nat × Context) : Nat × Context := (c.1, { c.2 with ring := EvRing.reset })
  let ks : Keystone := { s.ks with log := EvRing.reset, ctxs := s.ks.ctxs.map unring }
  .next { s with regs := keep, hp := { HostPort.reset with aperture := s.hp.aperture }, ks := ks }

end Sys2Proof.Machine
end

