-- ==== Sys2Proof/Machine/Physical.lean ====
section
/-! DEFINITION. Droop, the power cap, trips, temperatures, the management port and the TAP (R463, R464, R501, R510, R539,
R540, R544, R546 to R550). -/
namespace Sys2Proof.Machine
open Sys2Proof

/-! ## Droop (R463, R510) -/

/-- One step down of a compute die's clock: counted, and an input to the score (R463, R501). -/
def State.droopDown (s : State) (p : Nat) : State :=
  let s := ({ s with phys := { s.phys with droop := s.phys.droop.put p (s.phys.droop.get 0 p + 1) } } : State)
  (s.bump (cfgOff + 0xC0 + 4 * p) 1).score 4 1 1

/-- A compute die with its power on. -/
def State.dieOn (s : State) (p : Nat) : Bool := s.pierDomain p 5 && !s.tripped

/-- The first step of a droop: 7/8 of the set rate. -/
def State.droopFirst (s : State) (p : Nat) : State :=
  if s.dieOn p && s.phys.droop.get 0 p = 0 then s.droopDown p else s

/-- DROOP_SENSE (R463). -/
def execDroopSense (p : Pier) (s : State) : Host.Outcome State Fault Refusal := .next (s.droopFirst p)

/-- DROOP_SECOND_STEP: 6/8 (R463). -/
def execDroopSecondStep (p : Pier) (s : State) : Host.Outcome State Fault Refusal :=
  .next (if s.dieOn p && s.phys.droop.get 0 p = 1 then s.droopDown p else s)

/-- DROOP_RECOVERY: one eighth back (R463). -/
def execDroopRecovery (p : Pier) (s : State) : Host.Outcome State Fault Refusal :=
  .next (if s.dieOn p && s.phys.droop.get 0 p ≠ 0 then
      { s with phys := { s.phys with droop := s.phys.droop.put p (s.phys.droop.get 0 p - 1) } }
    else s)

/-- EMULATED_SAG: LT_DROOP names the die, and an enable with MASK bit 4 is in force (R506, R510). -/
def execEmulatedSag (p : Pier) (s : State) : Host.Outcome State Fault Refusal :=
  .next (if s.ltOn && bit (s.reg ltOff).toNat 5 && s.rfld (ltOff + 0x1C) 0 16 ≠ 0 && bit (s.reg (ltOff + 0x1C)).toNat (16 + p) then
      s.droopFirst p
    else s)

/-! ## The power cap (R464) -/

/-- CFG_PWR.CAP. -/
def State.cap (s : State) : Nat := s.rfld (cfgOff + 0x24) 0 12
/-- CFG_PWR.CLK_MAX. -/
def State.clkMax (s : State) : Nat := s.rfld (cfgOff + 0x24) 12 4
/-- CFG_PWR.HYST. -/
def State.capHyst (s : State) : Nat := s.rfld (cfgOff + 0x24) 16 8

/-- The clock step after a control step, and the run of steps below CAP - HYST: step, then run. -/
def nextStep (step run avg cap hyst top : Nat) : Nat × Nat :=
  let step := min step top
  if cap < avg then (step - 1, 0)
  else if avg + hyst < cap then
    (if run + 1 < 10 then (step, run + 1) else (min top (step + 1), 0))
  else (step, 0)

/-- POWER_CAP_STEP: the 1 ms control step with its average and the input voltage (R464, R472). -/
def execPowerCapStep (watts tenthVolts : BitVec 16) (s : State) : Host.Outcome State Fault Refusal :=
  let avg := watts.toNat
  .next (if s.ks.bringup < 4 ∨ s.tripped = true then s
    else
      let s := s.setReg (cfgOff + 0x30) (BitVec.ofNat 32 (avg + tenthVolts.toNat * 2 ^ 16))
      let old := 12 - s.phys.capStep
      let (step, run) := nextStep old s.phys.belowCap avg s.cap s.capHyst s.clkMax
      let above := if s.cap < avg ∧ old = 0 then s.phys.overMs + 1 else 0
      let alarm := decide (100 ≤ above) && !s.phys.capAlarmed
      let s : State := { s with phys := { s.phys with
        capStep := 12 - step, belowCap := run, overMs := above,
        capAlarmed := if above = 0 then false else s.phys.capAlarmed || alarm } }
      let s := if step < s.clkMax then s.bump (cfgOff + 0x34) 1 else s
      if alarm then
        (s.orReg (cfgOff + 4) 4).record 0 0 0x0106 true none (detail [(avg, 2), (s.clockMhz, 2)])
      else s)

/-! ## Trips (R544, R546) -/

/-- Everything outside the four always-on domains is off: its state is lost, its links are DOWN. -/
def State.domainsOff (s : State) : State :=
  let s := (List.range 16).foldl (fun s p => s.pierOff p) s
  let dark (x : Nat × DieState) : Nat × DieState := (x.1, { DieState.reset with shareUp := x.2.shareUp })
  let s := [0, 1, 2, 3].foldl (fun s k => (s.dropRegs (swOff k) 0x400).dropRegs (rshOff k) 0x800) s
  let s := s.dropRegs (zlOff 0) 0xC00
  { s with
    mem := [], badAtoms := [], owners := [], links := [], dies := s.dies.map dark, colls := [], replies := [],
    tallies := [] }

/-- The module trips: domains off, THERMTRIP#, MGT_TRIP and 0x0850 (R546). -/
def State.trip (s : State) (cause sensor reading : Nat) : State :=
  let n := min 0xFFFF (s.rfld (mgtOff + 4) 16 16 + 1)
  let s := s.domainsOff
  let s : State := { s with phys := { s.phys with thermtrip := true } }
  let s := s.updKs fun k => { k with fence := none, fences := [] }
  let s := s.setReg (mgtOff + 4) (BitVec.ofNat 32 (1 + cause * 2 + sensor * 2 ^ 8 + n * 2 ^ 16))
  s.record 0 0 0x0850 true none (detail [(sensor, 1), (cause, 1), (reading, 2)])

/-- Sensor ID of R549. -/
def sensorId : Sensor → Nat
  | .computeDie p => 1 + p
  | .coreDie n => 17 + n
  | .baseDie n => 33 + n
  | .abutmentDie k => 49 + k
  | .lid q => 53 + q
  | .power => 57
  | .voltage => 58
  | .score => 59
  | .ready m => 60 + m

/-- MGT_TRIP.CAUSE of a temperature sensor and its trip limit in 0.25 °C (R546, R550). -/
def tripLimit : Sensor → Option (Nat × Int)
  | .computeDie _ => some (1, 460)
  | .coreDie _ => some (2, 460)
  | .baseDie _ => some (3, 460)
  | .abutmentDie _ => some (4, 460)
  | .lid _ => some (5, 360)
  | _ => none

/-- A temperature as its sensor last read. -/
def State.setTemp (s : State) (id : Nat) (v : BitVec 16) : State :=
  { s with phys := { s.phys with temps := s.phys.temps.put id v } }

/-- THERMAL_TRIP: a sensor reaches its trip limit (R546). -/
def execThermalTrip (x : Sensor) (reading : BitVec 16) (s : State) : Host.Outcome State Fault Refusal :=
  .next (match tripLimit x with
    | none => s
    | some (cause, limit) =>
      if !s.phys.input then s
      else
        let s := s.setTemp (sensorId x) reading
        if reading.toInt < limit || s.tripped then s else s.trip cause (sensorId x) reading.toNat)

/-- OVERVOLTAGE: the input stays above 62 V for 1 ms; the reading above 62 V is free (R544, R546, log entry 3). -/
def execOvervoltage (s : State) : Host.Outcome State Fault Refusal :=
  .next (if !s.phys.input || s.tripped then s
    else
      let (f, s) := s.free
      s.trip 6 58 (621 + f % 64000))

/-- The input voltage as CFG_POWER.VIN shows it. -/
def State.setVin (s : State) (v : Nat) : State := s.setRfld (cfgOff + 0x30) 16 16 v

/-- INPUT_UNDERVOLTAGE: below 40 V and not below 38 V; an excursion counts once, and its lowest voltage is kept (R544). -/
def execInputUndervoltage (tenthVolts : BitVec 16) (s : State) : Host.Outcome State Fault Refusal :=
  let v := tenthVolts.toNat
  .next (if !s.phys.input || v < 380 || 400 ≤ v then s
    else match s.phys.undervolt with
      | some low => ({ s with phys := { s.phys with undervolt := some (min low v) } } : State).setVin v
      | none =>
        let s := (({ s with phys := { s.phys with undervolt := some v } } : State).setVin v)
        let s := s.setRfld (mgtOff + 8) 0 16 (min 0xFFFF (s.rfld (mgtOff + 8) 0 16 + 1))
        s.record 0 0 0x0851 true none (detail [(v, 2)]))

/-- UNDERVOLTAGE_EXCURSION_END (R544). -/
def execUndervoltageExcursionEnd (tenthVolts : BitVec 16) (s : State) : Host.Outcome State Fault Refusal :=
  let v := tenthVolts.toNat
  .next (if v < 400 ∨ s.phys.undervolt = none then s
    else ({ s with phys := { s.phys with undervolt := none } } : State).setVin v)

/-! ## Temperatures that do not trip (R501, R547) -/

/-- LID_OVER_MAXIMUM: the sample of a quadrant. Above 80 °C the event is raised, at the rise and every 10 s; a rise
counts as an excursion, and again only after the lid has fallen below 77 °C (R501, R547). -/
def execLidOverMaximum (q : Fin 4) (temp : BitVec 16) (s : State) : Host.Outcome State Fault Refusal :=
  .next (if !s.phys.input then s
    else
      let s := s.setTemp (53 + q) temp
      let lid := s.phys.temps.filter fun x => 53 ≤ x.1 && x.1 ≤ 56
      let s := if lid.all fun x => decide (x.2.toInt < 308) then
          { s with phys := { s.phys with lidHot := s.phys.lidHot.put 0 false } }
        else s
      if temp.toInt ≤ 320 then s
      else
        let s := s.record 0 0 0x0852 false none (detail [(q.val, 1), (0, 1), (temp.toNat, 2)])
        if s.phys.lidHot.get false 0 then s
        else ({ s with phys := { s.phys with lidHot := s.phys.lidHot.put 0 true } } : State).score 5 4096 1)

/-- DIE_TEMPERATURE_EXCURSION: the sample of a compute die; a rise above 105 °C counts once until it has fallen below
102 °C (R501). -/
def execDieTemperatureExcursion (p : Pier) (temp : BitVec 16) (s : State) : Host.Outcome State Fault Refusal :=
  .next (if !s.phys.input then s
    else
      let s := s.setTemp (1 + p) temp
      if temp.toInt < 408 then { s with phys := { s.phys with dieHot := s.phys.dieHot.put p false } }
      else if 420 < temp.toInt && !s.phys.dieHot.get false p then
        ({ s with phys := { s.phys with dieHot := s.phys.dieHot.put p true } } : State).score 5 4096 1
      else s)

/-! ## The management port and the TAP (R539, R540, R549) -/

/-- The unit of a sensor is neither OFF nor tripped (R549). -/
def State.sensorOn (s : State) (id : Nat) : Bool :=
  s.phys.input &&
  (if id ≤ 16 then s.domainOn (7 * (id - 1) + 5)
   else if id ≤ 48 then s.domainOn (7 * ((id - 1) % 16) + 6)
   else true)

/-- SENSOR_THRESHOLD_CROSSING: MG_ALERT# is asserted and a PLDM event waits; sensors 60 to 63 have no threshold (R549). -/
def execSensorThresholdCrossing (id : BitVec 6) (s : State) : Host.Outcome State Fault Refusal :=
  let i := id.toNat
  .next (if i = 0 ∨ 59 < i ∨ s.sensorOn i = false ∨ !bit (s.reg mgtOff).toNat 8 then s
    else { s with phys := { s.phys with mgAlert := true, pldm := s.phys.pldm ++ [i] } })

/-- PLDM_EVENT_READ: the oldest event is read; MG_ALERT# clears with the last one (R539). -/
def execPldmEventRead (s : State) : Host.Outcome State Fault Refusal :=
  let rest := s.phys.pldm.drop 1
  .next { s with phys := { s.phys with pldm := rest, mgAlert := s.phys.mgAlert && rest ≠ [] } }

/-- TAP_INSTRUCTION: EXTEST and CLAMP act only in BOOT or HELD and are BYPASS otherwise; IDCODE shifts out the code
(R540). -/
def execTapInstruction (i : TapInsn) (s : State) : Host.Outcome State Fault Refusal :=
  let act := if (i = .extest ∨ i = .clamp) ∧ !(s.ksState = 0 || s.ksState = 1) then .bypass else i
  let s : State := { s with phys := { s.phys with tap := some act } }
  .next (if act = .idcode then s.emit (.tdo 0x0C016A5F) else s)

end Sys2Proof.Machine
end

