-- ==== Sys2Proof/Machine/Watchdog.lean ====
section
/-! DEFINITION. The heartbeat over piers, the keystone reset and its restart, and the RESET command (R474 to R476, R482 to
R485, R530). -/
namespace Sys2Proof.Machine
open Sys2Proof

/-! ## The heartbeat (R474 to R476) -/

/-- A place in a task: queue, task serial, word offset. -/
abbrev TaskPlace := Nat × Nat × Nat

/-- Places of the unsatisfied TWAITs that hold a queue or the front end (R134, R135). -/
def State.twaits (s : State) (p : Nat) : List TaskPlace :=
  let x := s.pier p
  let heads := x.queues.filterMap fun q => match q.2 with
    | e :: _ =>
      let w := e.w0.toNat
      if opc w = 0x1C && !tcHolds (s.tc p (fld w 12 6)) (fld w 32 32) then some (q.1, e.ser, e.word) else none
    | [] => none
  match x.hold with
  | some (.twait tc v w) => if tcHolds (s.tc p tc) v then heads
      else heads ++ [(13, (x.run.map fun r => r.task.ser).getD 0, w)]
  | _ => heads

/-- A transfer waits for something outside its engine: a far or shard row request, or a refused chunk. -/
def Transfer.outside (t : Transfer) : Bool :=
  t.waiting ≠ [] || t.refused ≠ [] || t.fetch.any fun f => f.txid.isSome && f.data.isNone

/-- Places of the transfers that wait outside their engine. -/
def PierState.engineWaits (x : PierState) : List TaskPlace :=
  (x.transfers.map fun q => (q.2.filter Transfer.outside).map fun t => (9 + q.1, t.entry.ser, t.entry.word)).flatten

/-- Places of the instructions started and not completed: passes, transfers, gathers and reduces. -/
def PierState.inFlight (x : PierState) : List TaskPlace :=
  (x.arrays.map fun a => a.2.passes.map fun r => (a.1, r.entry.ser, r.entry.word)).flatten ++
  (x.transfers.map fun q => q.2.map fun t => (9 + q.1, t.entry.ser, t.entry.word)).flatten

/-- The place that comes first in task order. -/
def oldest (l : List TaskPlace) : Option TaskPlace :=
  l.foldl (fun a b => match a with
    | some c => if b.2.1 < c.2.1 then some b else some c
    | none => some b) none

/-- Where dispatch stands, when no instruction is in flight. -/
def PierState.dispatchPlace (x : PierState) : TaskPlace :=
  match x.run with
  | some r => (13, r.task.ser, r.pc)
  | none => match x.queues.find? fun q => q.2 ≠ [] with
    | some (q, e :: _) => (q, e.ser, e.word)
    | _ => (13, (x.started.head?.map fun t => t.ser).getD 0, 0)

/-- The detail of 0x0810 and 0x0811 (R440). -/
def PierState.stallDetail (x : PierState) (a : TaskPlace) (ms : Nat) : List Byte :=
  let id := ((x.started.find? fun t => t.ser = a.2.1).map fun t => t.id).getD 0
  detail [(a.1, 1), (0, 1), (id, 2), (a.2.2, 4), (ms, 4)]

/-- HEARTBEAT_SAMPLE: PSQ_PROGRESS of a RUNNING or HALTING sequencer, 1 ms after the sample before (R474 to R476). -/
def execHeartbeatSample (p : Pier) (s : State) : Host.Outcome State Fault Refusal :=
  let x := s.pier p
  let now := s.reg64 (psqOff p + 0x58) + 1
  .next (if !s.takes then s
    else if !(x.seq = .running || x.seq = .halting) then
      s.updPier p fun x => { x with lastProgress := 0, waitMs := 0, stuckMs := 0 }
    else if x.lastProgress ≠ now then s.updPier p fun x => { x with lastProgress := now, waitMs := 0, stuckMs := 0 }
    else
      let waits := s.twaits p ++ x.engineWaits
      match oldest (if s.twaits p = [] then waits else s.twaits p) with
      | some a =>
        let ms := x.waitMs + 1
        let s := s.updPier p fun x => { x with waitMs := ms }
        if 100 ≤ ms ∧ (ms - 100) % 1000 = 0 then
          s.record 0 0 0x0811 false (some x.tag) (x.stallDetail a ms)
        else s
      | none =>
        let ms := x.stuckMs + 1
        let s := s.updPier p fun x => { x with stuckMs := ms }
        if ms ≠ 100 then s
        else
          let a := (oldest x.inFlight).getD x.dispatchPlace
          (s.record 0 0 0x0810 true (some x.tag) (x.stallDetail a ms)).startPierReset p 0x0810 none)

/-! ## The end of a Load Test enable (R507) -/

/-- LT_STATUS.MASK. -/
def State.ltMask (s : State) : Nat := s.rfld ltOff 1 7

/-- Every LT_ field is cleared and 0x0842 is raised. -/
def State.ltEnd (s : State) : State :=
  if !s.ltOn then s
  else
    let d := detail [(s.ltMask, 1), (0, 1), (s.ks.ltMinutes, 2)]
    ((s.clearRegs ltOff 13).updKs fun k => { k with ltMinutes := 0 }).record 0 0 0x0842 false none d

/-! ## Keystone reset (R468, R482, R483, R530) -/

/-- A command that the keystone had taken is lost with its mailbox still owned; no unit completes it any more (R483). -/
def State.loseCmd (s : State) (m : Nat) : State := (s.detachMb m).updMb m fun x => { x with taken := none }

/-- Mailboxes with OWNER 1. -/
def State.ownedMbs (s : State) : List Nat := (s.ks.mbs.filter fun x => x.2.owner).map (·.1)

/-- The keystone cores and mailbox logic stop; while an update runs the reset is a warm one (R530). -/
def State.keystoneReset (s : State) (mb : Option Nat) (warm : WarmCause) : State :=
  if !s.phys.input || s.ks.phase = .boot || s.ks.resetting then s
  else if s.ks.fw.activation.isSome then s.raiseWarm warm
  else
    let s := s.ltEnd
    let s := s.ownedMbs.foldl State.loseCmd s
    let s := [0, 1, 2, 3].foldl (fun s k => s.updDie k fun x => { x with shareUp := false }) s
    s.updKs fun k => { k with resetting := true, restarting := false, resetMb := mb, flips := [], challenge := none }

/-- KEYSTONE_RESET: KSRST_REQ# or the management port's request (R482, R530, R539). -/
def execKeystoneReset (s : State) : Host.Outcome State Fault Refusal := .next (s.keystoneReset none .managementPort)

/-- A step that was open: an OPEN entry votes with TASK, a CONTRIBUTED one waits for its result (R483). -/
def StepRun.replay (r : StepRun) : StepRun :=
  if r.contributed.isSome then { r with mb := none }
  else { r with mb := none, main := [], deferred := [], eval := [], taskFault := true }

/-- Replay one journal entry. -/
def State.replayStep (s : State) (c : Nat) : State :=
  match (s.ctx c).step with
  | none => s
  | some r =>
    let r := r.replay
    let s := s.updCtx c fun x => { x with step := some r }
    if r.contributed.isSome then s
    else
      let (st, s) := if r.localStamp ≠ 0 then (r.localStamp, s) else s.stamp 0 0
      let r := { r with localStamp := st }
      (s.updCtx c fun x => { x with step := some r }).contribute c r

/-- The mailbox of a command that a sequence was to complete has ended. -/
def FenceKind.orphan : FenceKind → FenceKind
  | .teardown _ => .teardown 256
  | .replace _ mask => .replace 256 mask
  | .pierReset p cause _ w => .pierReset p cause none w

/-- Sequences and the commit under way go on without their mailboxes. -/
def Keystone.orphan (k : Keystone) : Keystone :=
  let fence (f : Fence) : Fence := { f with kind := f.kind.orphan }
  { k with
    fence := k.fence.map fence, fences := k.fences.map fence, lists := [],
    commit := k.commit.map fun c => { c with mb := 256 },
    truss := { k.truss with waiting := [], boot := k.truss.boot.map fun b => (256, b.2) } }

/-- Complete a mailbox that has OWNER 1. -/
def State.endOwned (s : State) (m : Nat) : State :=
  let status := if s.ks.resetMb = some m then 0 else 0x0805
  (s.updMb m fun x => { x with taken := some (s.copyCmd m) }).mbDone m status

/-- The restart's work once every task is reported (R483). -/
def State.restartEnd (s : State) : State :=
  let s := (List.range 16).foldl State.restPier s
  let s := s.updKs fun k => k.orphan
  let s := (List.range 64).foldl State.replayStep s
  let unwait (x : Nat × Context) : Nat × Context := (x.1, { x.2 with stepWait := [] })
  let s := (List.range 64).foldl State.abandonServe (s.updKs fun k => { k with ctxs := k.ctxs.map unwait })
  let s := (s.dropRegs (ksOff + 0x10) 0x10).dropRegs (ksOff + 0x30) 4
  let s := s.discardStaged.updKs fun k => { k with log := { k.log with lost := 0 } }
  let s := s.ownedMbs.foldl State.endOwned s
  let s := [0, 1, 2, 3].foldl (fun s k => s.updDie k fun x => { x with shareUp := true }) s
  (s.updKs fun k => { k with resetting := false, restarting := false, resetMb := none }).fencePoll

/-- The restart goes on once every pier's tasks are reported. -/
def State.restartPoll (s : State) : State :=
  if s.ks.restarting && (List.range 16).all fun p => (s.pier p).drained then s.restartEnd else s

/-- KEYSTONE_RESTART: the restarted keystone aborts every task; the rest follows when they are reported (R483). -/
def execKeystoneRestart (s : State) : Host.Outcome State Fault Refusal :=
  .next (if !s.ks.resetting then s
    else
      let s := (List.range 16).foldl State.abortTasks s
      (s.updKs fun k => { k with restarting := true }).restartPoll)

/-- TASK_COMPLETION (R116, R158). -/
def execTaskCompletion (p : Pier) (s : State) : Host.Outcome State Fault Refusal :=
  .next (s.taskCompletion p).fencePoll.restartPoll

/-- FAULTED_ENTRY (R158). -/
def execFaultedEntry (p : Pier) (s : State) : Host.Outcome State Fault Refusal :=
  .next (s.faultedEntry p).fencePoll.restartPoll

/-! ## The RESET command (R484, R485) -/

/-- RESET: a warm reset completes no command; a keystone reset completes at the restart; a pier reset completes when it
ends. -/
def execResetCommand (m : Mbx) (s : State) : Host.Outcome State Fault Refusal :=
  .next (s.command m 0x0006 fun s t =>
    let kind := t.arg 0 1
    let p := t.arg 1 1
    if 2 < kind ∨ (kind ≠ 2 ∧ p ≠ 0) ∨ 15 < p then s.mbDone m 0x0504
    else if kind = 0 then s.raiseWarm .command
    else if kind = 1 then (s.mbWait m fun t => t).keystoneReset (some m) .command
    else (s.mbWait m fun t => t).startPierReset p 0x052A (some m))

end Sys2Proof.Machine
end

