-- ==== Sys2Proof/Machine/Truss.lean ====
section
/-! DEFINITION. The Truss protocol: suspicion, messages, windows and installation, and MEMBERSHIP (R278, R338, R359, R376,
R413, R488 to R500). -/
namespace Sys2Proof.Machine
open Sys2Proof

/-- Change the Truss agent. -/
def State.updTruss (s : State) (f : Truss → Truss) : State := s.updKs fun k => { k with truss := f k.truss }

/-- Detail of 0x0801 and 0x0802 (R440). -/
def TrussRecord.detail (r : TrussRecord) : List Byte :=
  Sys2Proof.Machine.detail [(r.epoch, 8), (r.notice, 2), (r.members.length, 2), (0, 4), (r.inst, 8)]

/-! ## Suspicion (R488, R489) -/

/-- A change to what is known of a neighbour. -/
def State.updNear (s : State) (n : Nat) (f : Neighbour → Neighbour) : State :=
  s.updTruss fun t => { t with near := t.near.map fun x => if x.1 = n then (n, f x.2) else x }

/-- The module suspends itself when at least half of its neighbours are suspected within 256 µs (R489). -/
def State.checkSelf (s : State) : State :=
  let t := s.ks.truss
  let l := s.neighbours
  let bad := l.filter fun m => match t.near.find m with
    | some y => y.suspected.isSome && decide (s.elapsed ≤ y.suspectSince + 256000)
    | none => false
  if t.state ≠ 4 ∧ l ≠ [] ∧ l.length ≤ 2 * bad.length then
    (s.record 0 0 0x0807 true none (detail [(t.record.epoch, 8)])).updTruss fun t => { t with state := 4 }
  else s

/-- NEIGHBOUR_SUSPECT: a neighbour's frames have been absent, frozen or of another digest for 32 µs (R488, R489). -/
def execNeighbourSuspect (n : BitVec 13) (s : State) : Host.Outcome State Fault Refusal :=
  let n := n.toNat
  .next (match s.ks.truss.near.find n with
    | none => s
    | some y =>
      if y.suspected.isSome || s.ks.resetting then s
      else
        let s := s.updNear n fun y => { y with suspected := some s.elapsed, suspectSince := s.elapsed }
        let s := s.record 0 0 0x0803 false none (detail [(n, 2), (0, 6), (y.stamp, 8)])
        let s := if s.ks.truss.member ∧ s.ks.truss.state ≠ 4 then (s.originate 0 n []).2 else s
        if s.ks.truss.member then s.checkSelf else s)

/-- SUSPECT_REPEAT: 128 µs after the last one, while the suspicion lasts (R488). -/
def execSuspectRepeat (n : BitVec 13) (s : State) : Host.Outcome State Fault Refusal :=
  let n := n.toNat
  .next (match s.ks.truss.near.find n with
    | none => s
    | some y =>
      if y.suspected.isSome && !s.ks.resetting && s.ks.truss.member && s.ks.truss.state ≠ 4 then
        (s.updNear n fun y => { y with suspected := some s.elapsed }).originate 0 n [] |>.2
      else s)

/-! ## Messages (R490) -/

/-- TRUSS_MESSAGE: the oldest message of MCODE 0x0801 at die k, taken in once; a member forwards it (R490). -/
def execTrussMessage (k : Die) (s : State) : Host.Outcome State Fault Refusal :=
  .next (match s.msgFirst k 0x0801 with
    | none => s
    | some p =>
      let s := s.msgTake k p
      let c := parseChange p.payload
      if s.ks.resetting || s.ks.truss.seen.any c.same then s
      else
        let s := s.takeChange c
        if s.ks.truss.member then s.flood c (some p.src) else s)

/-- RECORD_REQUEST: a neighbour asks for the installed record; it goes back as its host image (R490, R496). -/
def execRecordRequest (k : Die) (s : State) : Host.Outcome State Fault Refusal :=
  .next (match s.msgFirst k 0x0802 with
    | none => s
    | some p =>
      let s := s.msgTake k p
      if s.ks.resetting then s
      else match s.linksTo p.src with
        | l :: _ => s.sendNear l p.src 0x0803 s.ks.truss.record.image
        | [] => s.sendMsg k p.src 0x0803 s.ks.truss.record.image)

/-! ## What a new epoch does (R359, R413, R495) -/

/-- The row requests of a gather whose holder is no member end, and the row waits for the table's other sources (R359). -/
def State.releaseRows (s : State) (members : List Nat) : State :=
  let lost (k : Nat) : List (Nat × FarReq) :=
    ((s.die k).far.filter fun r => r.packet.type = 2 && !members.contains r.dst).map fun r => (k, r)
  let drop (s : State) (x : Nat × FarReq) : State :=
    let (k, r) := x
    match r.unit with
    | .engine p te id =>
      (match s.xfer p te id with
       | some t =>
         if t.begun && gVchk t.entry && opc t.entry.n0 = 0x54 && t.waiting.contains r.txid then
           let again : Refetch := { next := 0, got := [], waiting := none, expelled := true }
           (s.farEnd k r.txid).updXfer p te id fun t =>
             { t with waiting := t.waiting.erase r.txid, row := [], refetch := some again }
         else s
       | none => s)
    | .refetch p te id => (s.farEnd k r.txid).refetchAnswer p te id r.txid none
    | _ => s
  (([0, 1, 2, 3].map lost).flatten).foldl drop s

/-- The streams of a context whose landing module has left end with no record (R413). -/
def State.endStreams (s : State) (c : Nat) (gone : List Nat) : State :=
  match (s.ctx c).serve with
  | none => s
  | some v =>
    if !gone.contains (sdLanding v.desc) then s
    else
      let l := s.streamsOf c fun x => x.phase ≠ .free && x.phase ≠ .ending
      let stop (s : State) (i : Nat) : State :=
        if (s.stream i).rides then
          s.updStream i fun x => { x with phase := .ending, spepoch := (x.spepoch + 1) % 65536 }
        else s.freeStream i
      (l.foldl stop s).record 0 0 0x070F true (some (s.ctxTag c)) (detail [(l.length, 4)])

/-- A contribution whose round was abandoned is due again under the new epoch (R239). -/
def State.renewVotes (s : State) : State :=
  let again (r : StepRun) : StepRun :=
    match r.contributed with
    | some d => if r.result.isNone && (s.coll d).state = .abandoned then { r with contributed := none } else r
    | none => r
  s.updKs fun k => { k with ctxs := k.ctxs.map fun x => (x.1, { x.2 with step := x.2.step.map again }) }

/-- The effects of a new EPOCH, from the record before it (R495). -/
def State.newEpoch (s : State) (old : TrussRecord) : State :=
  let r := s.ks.truss.record
  let s := [0, 1, 2, 3].foldl (fun s k => s.setReg (swOff k + 8) (BitVec.ofNat 32 r.epoch)) s
  let s := (List.range 16).foldl (fun s n => s.abandonWins n (fun w => w.state = .opn) .abandoned true false) s
  let s := (List.range 256).foldl State.abandonColl s
  let s := [0, 1, 2, 3].foldl (fun s k => s.abandonJobs k fun j => leAt j.header 12 4 ≠ r.epoch % 2 ^ 32) s
  let s := s.renewVotes.releaseRows r.members
  let gone := old.members.filter fun m => !r.members.contains m
  let came := r.members.filter fun m => !old.members.contains m
  let s := (List.range 64).foldl (fun s c => s.endStreams c gone) s
  let left := ((s.left ++ gone).dedup).filter fun m => !came.contains m
  ({ s with left := left } : State).record 0 0 0x0801 false none r.detail

/-- The module's own state under an installed record; absent from it, it enters NOT_MEMBER with 0x0808 (R497). -/
def State.ownState (s : State) (joined : Bool) : State :=
  let t := s.ks.truss
  let me := s.moduleId
  if t.record.members.contains me then
    s.updTruss fun t => { t with state := if t.record.probation.contains me then 1 else 0 }
  else if t.state = 3 ∨ (t.state = 2 ∧ joined = false) then s
  else (s.record 0 0 0x0808 true none (detail [(t.record.epoch, 8)])).updTruss fun t => { t with state := 3 }

/-- The inspection record is written to the settings store (R501). -/
def State.saveInsp (s : State) : State :=
  if s.ks.storeLocked then s
  else s.updKs fun k =>
    let i := k.insp
    { k with insp := { i with saved := some {
        score := i.score, stamp := i.stamp, acc := i.acc, raw := i.raw, conds := i.conds,
        selftestStamp := i.selftestStamp, selftestFails := i.selftestFails } } }

/-- A record becomes the installed one: a higher epoch, or a notice of the same epoch (R494, R495). -/
def State.installRecord (s : State) (r : TrussRecord) (joined : Bool) : State :=
  let old := s.ks.truss.record
  let was := old.probation.contains s.moduleId
  let s := s.updTruss fun t => { t with
    record := r, suspects := t.suspects.filter fun c => r.members.contains c.subject }
  let s := if r.epoch ≠ old.epoch then s.newEpoch old else s.record 0 0 0x0802 false none r.detail
  let s := s.ownState joined
  if was ≠ r.probation.contains s.moduleId then s.saveInsp else s

/-- RECORD_REPLY: an installed record of a higher EPOCH or NOTICE lets the module catch up (R490). -/
def execRecordReply (k : Die) (s : State) : Host.Outcome State Fault Refusal :=
  .next (match s.msgFirst k 0x0803 with
    | none => s
    | some p =>
      let s := s.msgTake k p
      let r := parseRecord p.payload
      let own := s.ks.truss.record
      if s.ks.resetting then s
      else if own.epoch < r.epoch ∨ (own.epoch = r.epoch ∧ own.notice < r.notice) then
        let w := r.inst - (if r.twin then 3500000 else 1500000)
        (s.updTruss fun t => { t with
          wins := w :: t.wins, pending := t.pending.filter fun c => decide (w + 100000 ≤ c.stamp) }).installRecord r false
      else s)

/-! ## Windows and installation (R493, R494, R500) -/

/-- The earliest stamp of a pending change at least 100 µs after the window before it (R493). -/
def Truss.nextWindow (t : Truss) : Option Nat :=
  ((t.pending.map fun c => c.stamp).filter fun x => t.wins.all fun w => decide (w + 100000 ≤ x)).min?

/-- Order of the changes of a window: by stamp, then by origin. -/
def insertChange (c : Change) : List Change → List Change
  | [] => [c]
  | d :: r => if c.stamp < d.stamp ∨ (c.stamp = d.stamp ∧ c.origin < d.origin) then c :: d :: r else d :: insertChange c r

/-- The order of R500: by SCORE, then by ORIGIN. -/
def insertScore (c : Change) : List Change → List Change
  | [] => [c]
  | d :: r => if c.score < d.score ∨ (c.score = d.score ∧ c.origin < d.origin) then c :: d :: r else d :: insertScore c r

/-- A member leaves the record. -/
def TrussRecord.dropMember (r : TrussRecord) (m : Nat) : TrussRecord :=
  { r with members := r.members.filter (· ≠ m), probation := r.probation.filter (· ≠ m), neighbours := r.neighbours.del m }

/-- The effect of one change on the record (R491). -/
def TrussRecord.apply (r : TrussRecord) (c : Change) : TrussRecord :=
  if c.kind = 1 then r.dropMember c.subject
  else if c.kind = 2 then
    { r with members := if r.members.contains c.origin then r.members else c.origin :: r.members,
             neighbours := r.neighbours.put c.origin (bodyNeighbours c.body) }
  else if c.kind = 3 then r.dropMember c.origin
  else if c.kind = 4 then
    (if r.members.contains c.origin then { r with neighbours := r.neighbours.put c.origin (bodyNeighbours c.body) } else r)
  else if c.kind = 7 then { r with probation := r.probation.filter (· ≠ c.origin) }
  else if c.kind = 8 then { r with thresh := leAt c.body 0 2, budget := leAt c.body 2 1 }
  else r

/-- The SCORE_LOW changes of a window in order, one for each member that sent one (R500). -/
def TrussRecord.lows (r : TrussRecord) (l : List Change) : List Change :=
  ((l.filter fun c => c.kind = 6 && r.members.contains c.origin).foldl (fun a c =>
    if a.any fun d => d.origin = c.origin then a else insertScore c a) [])

/-- Score removals whose install stamps lie in the 3,600 s before I (R500). -/
def TrussRecord.recent (r : TrussRecord) (inst : Nat) : Nat :=
  (r.removals.filter fun t => decide (inst ≤ t + 3600000000000)).length

/-- The record after the score changes of a window, and the removals made (R500). -/
def TrussRecord.applyLows (r : TrussRecord) (l : List Change) (inst : Nat) : TrussRecord × Nat :=
  let lows := r.lows l
  let n := min lows.length (r.budget - r.recent inst)
  let out := lows.take n
  let rest := (lows.drop n).map fun c => c.origin
  let r := out.foldl (fun r c => { r.dropMember c.origin with removals := r.removals ++ [inst] }) r
  ({ r with probation := rest.foldl (fun p m => if p.contains m then p else m :: p) r.probation }, n)

/-- The record that a window's changes install; none where they change nothing. A notice that would wrap becomes an
epoch (R494). -/
def TrussRecord.installWindow (r : TrussRecord) (l : List Change) (inst : Nat) : Option TrussRecord :=
  let (a, n) := r.applyLows l inst
  let b := (l.foldr insertChange []).foldl TrussRecord.apply a
  let epochal := (l.any fun c => 1 ≤ c.kind && c.kind ≤ 5) || n ≠ 0
  let noted := l.any (fun c => c.kind = 7 || c.kind = 8) || a.probation ≠ r.probation
  if epochal || (noted && r.notice = 65535) then some { b with epoch := r.epoch + 1, notice := 0, inst := inst }
  else if noted then some { b with notice := r.notice + 1, inst := inst }
  else none

/-- Complete a MEMBERSHIP command: its result is the installed EPOCH and NOTICE and the module's state (R498). -/
def State.memberDone (s : State) (m : Nat) : State :=
  let t := s.ks.truss
  (s.mbResult m 0 (detail [(t.record.epoch, 8), (t.record.notice, 2), (t.state, 1)])).mbDone m 0

/-- Complete a MEMBERSHIP command that still waits. -/
def State.memberEnd (s : State) (m : Nat) : State := if (s.takenCmd m 0x0801).isSome then s.memberDone m else s

/-- A bootstrap installs epoch 1, with the founders' neighbour sets as seen at that instant; another founder's set is
free (R498, log entry 3). -/
def State.bootstrap (s : State) (m : Nat) (r : TrussRecord) : State :=
  let mine := s.neighbours
  let near (x : Nat) : Nat × List Nat :=
    (x, if x = s.moduleId then mine else Config.founderNeighbours s.freeCtr x)
  let r := { r with neighbours := r.members.map near }
  let s := { s with freeCtr := s.freeCtr + 1 }
  let s := s.updTruss fun t => { t with boot := none, pending := [], suspects := [], seen := [], wins := [] }
  (s.installRecord r true).memberEnd m

/-- MEMBERSHIP_INSTALL: at span time I the next window installs, or a bootstrap does (R493 to R498, R500). -/
def execMembershipInstall (s : State) : Host.Outcome State Fault Refusal :=
  let t := s.ks.truss
  .next (if s.ks.resetting then s
    else match t.boot with
    | some (m, r) => s.bootstrap m r
    | none =>
      match t.nextWindow with
      | none => s
      | some w =>
        if t.record.epoch = 0 then s
        else
          let l := t.pending.filter fun c => decide (w ≤ c.stamp ∧ c.stamp < w + 100000)
          let s := s.updTruss fun t => { t with
            wins := w :: t.wins, pending := t.pending.filter fun c => !decide (w ≤ c.stamp ∧ c.stamp < w + 100000) }
          let me := s.moduleId
          let joined := l.any fun c => c.kind = 2 && c.origin = me
          let s := match t.record.installWindow l (w + if t.record.twin then 3500000 else 1500000) with
            | some r => s.installRecord r joined
            | none => s
          let ends := (t.waiting.filter fun x => l.any fun c => c.kind = x.2 && c.origin = me).map (·.1)
          let s := s.updTruss fun t => { t with waiting := t.waiting.filter fun x => !ends.contains x.1 }
          ends.foldl State.memberEnd s)

/-! ## MEMBERSHIP (R498) -/

/-- THRESH and BUDGET as the command gives them. -/
def memberParams (t : Taken) : Nat × Nat :=
  (if t.arg 24 2 = 0xFFFF then 512 else t.arg 24 2, if t.arg 26 1 = 255 then 4 else t.arg 26 1)

/-- A change of the module's own that a MEMBERSHIP command waits for. -/
def State.memberChange (s : State) (m kind : Nat) (body : List Byte) : State :=
  let s := s.mbWait m fun t => t
  let s := s.updTruss fun t => { t with waiting := t.waiting ++ [(m, kind)] }
  (s.originate kind s.moduleId body).2

/-- MEMBERSHIP (R496, R498). -/
def execMembership (m : Mbx) (s : State) : Host.Outcome State Fault Refusal :=
  .next (s.command m 0x0801 fun s t =>
    let act := t.arg 0 1
    let tr := s.ks.truss
    let (thresh, budget) := memberParams t
    if 4 < act ∨ 1023 < thresh ∨ 1 < t.arg 27 1 then s.mbDone m 0x0504
    else if act = 0 then
      (if s.hostOk then (s.hostWrite (t.arg 8 8) tr.record.image).memberDone m
       else (s.orReg (hpOff + 4) 0x10).mbDone m 0x050A)
    else if act = 1 then
      (if tr.member || s.ts.phase ≠ .locked || t.arg 16 8 < s.ts.count.toNat + 10000000 then s.mbDone m 0x0815
       else if tr.boot.isSome then s.mbDone m 0x0509
       else
         let r : TrussRecord := { TrussRecord.reset with
           epoch := 1, thresh := thresh, budget := budget, twin := t.arg 27 1 = 1, inst := t.arg 16 8,
           members := ofBitmap (t.data.getD []) }
         (s.mbWait m fun t => t).updTruss fun x => { x with boot := some (m.val, r) })
    else if act = 2 then
      (if tr.member then s.mbDone m 0x0815
       else (s.updTruss fun x => { x with state := 2 }).memberChange m 2 (neighbourBody s.neighbours))
    else if !tr.member then s.mbDone m 0x0815
    else if act = 3 then s.memberChange m 3 []
    else s.memberChange m 8 (toBytes thresh 2 ++ toBytes budget 1))

end Sys2Proof.Machine
end

