-- ==== Sys2Proof/Machine/Score.lean ====
section
/-! DEFINITION. The inspection score, the self-test, and the Load Test enable (R501 to R510). -/
namespace Sys2Proof.Machine
open Sys2Proof

/-- Change the inspection record. -/
def State.updInsp (s : State) (f : Inspection → Inspection) : State := s.updKs fun k => { k with insp := f k.insp }

/-! ## The score (R500, R501, R503, R504) -/

/-- The score that the accumulators give. -/
def scoreNow (acc : Tab Nat) : Nat := 1023 - min 1023 ((((List.range 6).map fun i => acc.get 0 i).sum) / 256)

/-- SCORE_COMPUTE: every 1 s; below THRESH a member sends SCORE_LOW, again every 60 s (R500, R501). -/
def execScoreCompute (s : State) : Host.Outcome State Fault Refusal :=
  .next (if !s.takes then s
    else
      let (st, s) := s.stamp 0 0
      let v := scoreNow s.ks.insp.acc
      let s := s.updInsp fun i => { i with score := v, stamp := st }
      let t := s.ks.truss
      if t.record.thresh ≤ v then s.updTruss fun t => { t with lastLow := none }
      else if !t.member then s
      else
        let due := match t.lastLow with
          | some x => decide (x + 60000000000 ≤ s.elapsed)
          | none => true
        if due then (s.updTruss fun t => { t with lastLow := some s.elapsed }).originate 6 s.moduleId [] |>.2 else s)

/-- SCORE_DECAY: every 60 s of span time each A loses ⌊A / 64⌋, and the record is stored (R501). -/
def execScoreDecay (s : State) : Host.Outcome State Fault Refusal :=
  .next (if !s.takes then s
    else (s.updInsp fun i => { i with acc := i.acc.map fun a => (a.1, a.2 - a.2 / 64) }).saveInsp)

/-- PROBATION_REPORT (R503). -/
def execProbationReport (s : State) : Host.Outcome State Fault Refusal :=
  .next (if s.ks.truss.state = 1 && s.takes then
      s.record 0 0 0x0820 false none (detail [(s.ks.insp.score, 2), (s.ks.truss.record.thresh, 2)])
    else s)

/-- The inspection record as INSPECT returns it (R504). -/
def State.inspection (s : State) : List Byte :=
  let i := s.ks.insp
  let t := s.ks.truss
  detail [(i.score, 2), (t.record.thresh, 2), (t.state, 1), (0, 3), (i.stamp, 8)] ++
  ((List.range 6).map fun k => toBytes (i.acc.get 0 k) 4).flatten ++
  ((List.range 6).map fun k => toBytes (i.raw.get 0 k) 4).flatten ++
  ((List.range 32).map fun k => detail [((i.conds.get (0, 0) k).1, 2), ((i.conds.get (0, 0) k).2, 2)]).flatten ++
  detail [(t.record.epoch, 8), (i.selftestStamp, 8), (i.selftestFails, 4)]

/-- INSPECT (R504). -/
def execInspect (m : Mbx) (s : State) : Host.Outcome State Fault Refusal :=
  .next (s.command m 0x0802 fun s _ => (s.mbResult m 0 s.inspection).mbDone m 0)

/-! ## The self-test (R502, R503, R505) -/

/-- The condition tag with the most gauge mismatches; the lowest of equals. -/
def worstCondition (c : Tab (Nat × Nat)) : Nat :=
  (List.range 32).foldl (fun b k => if (c.get (0, 0) b).1 < (c.get (0, 0) k).1 then k else b) 0

/-- With CONDITIONS set and load class 3, the named piers emulate a droop: one step down and back (R463, R505). -/
def State.selftestDroop (s : State) (l : List Nat) : State :=
  if worstCondition s.ks.insp.conds % 4 ≠ 3 then s
  else l.foldl (fun s p =>
    if s.phys.droop.get 0 p = 0 then
      let t := s.droopDown p
      { t with phys := { t.phys with droop := t.phys.droop.put p 0 } }
    else s) s

/-- What a self-test adds to the inspection record: its mismatches under their condition tags, its failures, and half of
A_gauge gone after a clean test of at least 1,000 samples a pier (R501, R502, R505). -/
def State.selftestScore (s : State) (perPier : Nat) (tags : List Nat) (fails : Nat) : State :=
  let s := tags.foldl (fun s c => (s.score 3 8192 1).condition c true) s
  let s := s.score 3 8192 fails
  let (st, s) := s.stamp 0 0
  let clean := decide (1000 ≤ perPier) && tags = [] && fails = 0
  s.updInsp fun i => { i with
    selftestStamp := st, selftestFails := sat32 (tags.length + fails),
    acc := if clean then i.acc.put 3 (i.acc.get 0 3 - i.acc.get 0 3 / 2) else i.acc }

/-- SELFTEST (R505): the mismatches and failures that the comparison with the ROM finds on the named piers. -/
def execSelftest (m : Mbx) (mismatches : List (Pier × BitVec 5)) (failures : List Pier) (s : State) :
    Host.Outcome State Fault Refusal :=
  .next (s.command m 0x0804 fun s t =>
    let l := Sys2Proof.Machine.setBits (t.arg 0 2) 16
    let rounds := t.arg 2 2
    if rounds = 0 ∨ 1000 < rounds ∨ 1 < t.arg 4 1 then s.mbDone m 0x0504
    else if l.any fun p => !s.placeable p then s.mbDone m 0x0104
    else if l.any fun p => (s.pier p).serves.isSome then s.mbDone m 0x0509
    else
      let mis := mismatches.filter fun x => l.contains x.1.val
      let bad := failures.filter fun p => l.contains p.val
      let per (p : Nat) : Nat := rounds * Config.selftestSamples (s.pier p).arrOn
      let s := if t.arg 4 1 = 1 then s.selftestDroop l else s
      let s := s.selftestScore (((l.map per).min?).getD 0) (mis.map fun x => x.2.toNat) bad.length
      let one (p : Nat) : List Byte :=
        toBytes ((mis.filter fun x => x.1.val = p).length + (bad.filter fun q => q.val = p).length) 4
      let res := detail [(sat32 (l.map per).sum, 4), (mis.length, 4), (bad.length, 4), (0, 4)] ++
        ((List.range 16).map one).flatten
      ((s.mbTotal m rounds).mbResult m 0 res).mbDoneAll m)

/-- PROBATION_SELFTEST: a module on probation tests every placeable pier that serves no context, with CONDITIONS set;
with a score of at least THRESH it then sends PROB_END (R503). -/
def execProbationSelftest (samples : Nat) (mismatches : List (BitVec 5)) (failures : Nat) (s : State) :
    Host.Outcome State Fault Refusal :=
  let l := (List.range 16).filter fun p => s.placeable p && (s.pier p).serves.isNone
  .next (if s.ks.truss.state ≠ 1 ∨ l = [] ∨ s.takes = false then s
    else
      let s := (s.selftestDroop l).selftestScore samples (mismatches.map fun c => c.toNat) failures
      if s.ks.truss.record.thresh ≤ s.ks.insp.score then (s.originate 7 s.moduleId []).2 else s)

/-! ## The Load Test enable (R506, R507, R510) -/

/-- The MASK bit that an LT_ offset needs: none for LT_SEED, which every perturbation shares (R506, R510). -/
def ltBit (o : Nat) : Option Nat :=
  if o = 0x08 then some 0 else if o = 0x0C then some 1 else if o = 0x10 ∨ o = 0x14 then some 2
  else if o = 0x18 then some 3 else if o = 0x1C then some 4 else if o = 0x20 then some 5
  else if o = 0x24 ∨ o = 0x28 ∨ o = 0x2C then some 6 else none

/-- A pair names a field of the mask. -/
def ltPairOk (mask : Nat) (x : Nat × Nat) : Bool :=
  x.1 = 4 || (match ltBit x.1 with
    | some b => bit mask b
    | none => false)

/-- The RW bits of an LT_ word. -/
def ltRw (o : Nat) : Nat := match ltAccess o with
  | .rw m => m
  | _ => 0

/-- Apply the pairs (R507). -/
def State.ltPairs (s : State) (l : List (Nat × Nat)) : State :=
  l.foldl (fun s x => s.setReg (ltOff + x.1) (BitVec.ofNat 32 (x.2 &&& ltRw x.1))) s

/-- Minutes left of the enable. -/
def State.ltLeft (s : State) : Nat := s.ltWord 0 / 2 ^ 16

/-- The result of an enable: EN, MASK, minutes left. -/
def State.ltResult (s : State) (m : Nat) : State :=
  (s.mbResult m 0 (detail [(b2n s.ltOn, 1), (s.ltMask, 1), (if s.ltOn then s.ltLeft else 0, 2)])).mbDone m 0

/-- A token is whole, names this device and the challenge, and is signed by the Load Test key (R506). -/
def tokenOk (t chal : List Byte) : Bool :=
  let n := leAt t 32 2
  leAt t 0 4 = 0x314B544C && leAt t 4 1 < 128 && leAt t 5 1 = 0 && decide (leAt t 6 2 ≤ 1440) &&
    sliceBytes t 8 16 = chal && sliceBytes t 24 8 = deviceId && decide (34 + n ≤ t.length) &&
    Config.falconVerify Config.loadTestKey (t.take 32) (sliceBytes t 34 n)

/-- The enable begins, in place of one in force (R507). -/
def State.ltBegin (s : State) (mask minutes : Nat) : State :=
  let s := s.setReg ltOff (BitVec.ofNat 32 (1 + mask * 2 + minutes * 2 ^ 16))
  let s := s.updKs fun k => { k with ltMinutes := minutes, ltSince := s.elapsed }
  s.record 0 0 0x0840 false none (detail [(mask, 1), (0, 1), (minutes, 2)])

/-- A token is used: it consumes the challenge, and enables with its pairs, or ends the enable (R507). -/
def State.ltToken (s : State) (m : Nat) (tok : List Byte) (l : List (Nat × Nat)) : State :=
  let ok := match s.ks.challenge with
    | some c => tokenOk tok c
    | none => false
  let s := s.updKs fun k => { k with challenge := none }
  let mask := leAt tok 4 1
  let minutes := leAt tok 6 2
  if !ok then s.mbDone m 0x0841
  else if minutes = 0 then
    let s := s.ltEnd
    if l = [] then s.ltResult m else s.mbDone m 0x0841
  else if l.any fun x => !ltPairOk mask x then s.mbDone m 0x0504
  else ((s.ltBegin mask minutes).ltPairs l).ltResult m

/-- A new challenge (R507). -/
def State.ltChallenge (s : State) (m : Nat) : State :=
  let (a, s) := s.free
  let (b, s) := s.free
  let c := toBytes a 8 ++ toBytes b 8
  ((s.updKs fun k => { k with challenge := some c }).mbResult m 0 (c ++ deviceId)).mbDone m 0

/-- LT_ENABLE (R507). -/
def execLtEnable (m : Mbx) (s : State) : Host.Outcome State Fault Refusal :=
  .next (s.command m 0x0803 fun s t =>
    let tlen := t.arg 0 2
    let n := t.arg 2 2
    let none_ := tlen = 0 || tlen = 0xFFFF
    let first := if none_ then 8 else 8 + roundUp tlen 8
    let l := (List.range n).map fun i => (t.arg (first + 8 * i) 4, t.arg (first + 8 * i + 4) 4)
    if 55 < n || (!none_ && 1536 < tlen) || decide (1984 < first + 8 * n) then s.mbDone m 0x0504
    else if tlen = 0 then s.ltChallenge m
    else if tlen = 0xFFFF then
      (if !s.ltOn then s.mbDone m 0x0841
       else if l.any fun x => !ltPairOk s.ltMask x then s.mbDone m 0x0504
       else (s.ltPairs l).ltResult m)
    else s.ltToken m (sliceBytes t.args 8 tlen) l)

/-- LT_EXPIRY: MINUTES have passed (R507). -/
def execLtExpiry (s : State) : Host.Outcome State Fault Refusal := .next s.ltEnd

end Sys2Proof.Machine
end

