-- ==== Sys2Proof/Machine/Update.lean ====
section
/-! DEFINITION. Firmware images, their delivery, activation, recovery loading and attestation (R519 to R534). -/
namespace Sys2Proof.Machine
open Sys2Proof

/-! ## Delivery (R519 to R521) -/

/-- The target slot is the one not booted. -/
def Firmware.targetB (x : Firmware) : Bool := !x.bootedB
/-- The target slot. -/
def Firmware.target (x : Firmware) : ImageSlot := x.slot x.targetB

/-- Change the target slot. -/
def State.updTarget (s : State) (f : ImageSlot → ImageSlot) : State :=
  s.updFw fun x => x.setSlot x.targetB (f x.target)

/-- Pieces received. -/
def ImageSlot.received (x : ImageSlot) : Nat := x.pieces.length

/-- The bitmap of 1,536 bits: a received piece reads 0. -/
def ImageSlot.bitmap (x : ImageSlot) : List Byte :=
  (List.range 192).map fun b =>
    BitVec.ofNat 8 (((List.range 8).map fun i => b2n (x.pieces.find (8 * b + i)).isNone * 2 ^ i).sum)

/-- Version of component i of a manifest. -/
def manVersion (m : List Byte) (i : Nat) : Nat := leAt m (104 + 32 * i) 4

/-- The compatibility rule (R528). -/
def Firmware.live (x : Firmware) (m : List Byte) : Bool :=
  ([0, 1, 2, 3].all fun i => [0, 1, 2, 3].all fun j =>
    i = j || decide (leAt m (108 + 32 * i + 4 * j) 4 ≤ (if j < i then manVersion m j else x.versions.get 0 j))) &&
  leAt m 14 2 = x.setFmt

/-- An update command during an activation is refused (R521). -/
def State.updating (s : State) : Bool := s.ks.fw.activation.isSome

/-- UPD_MANIFEST (R519). The row says whether the flash erases and programs (R535); where it does not, the slot keeps
what it held (DESIGN CHOICE, log entry 148). A PLAIN manifest has no wrap block, so no key unwraps from it (R517, R522).
-/
def execUpdManifest (m : Mbx) (flash : Bool) (s : State) : Host.Outcome State Fault Refusal :=
  .next (s.command m 0x0601 fun s t =>
    let d := t.data.getD []
    let man := d.take (manLen d)
    let wrap := sliceBytes d (manLen d) 1616
    let x := s.ks.fw
    let st := x.manStatus d
    let new : ImageSlot := { ImageSlot.reset with manifest := man, wrap := wrap, counter := x.target.counter }
    if s.updating then s.mbDone m 0x0608
    else if st ≠ 0 then s.mbDone m st
    else if manPlain man || d.length < manLen d + 1616 || new.imageKey.isNone then s.mbDone m 0x0604
    else if !flash then s.mbDone m 0x0609
    else
      let same := x.target.manifest.take (manSigned man) = man.take (manSigned man)
      let s := if same then s.updTarget fun y => { y with wrap := wrap } else s.updTarget fun _ => new
      let y := s.ks.fw.target
      ((s.mbResult m 0 (detail [(manPieces man, 4), (y.received, 4), (b2n (x.live man), 1), (0, 7)])).mbResult m 16
        y.bitmap).mbDone m 0)

/-- UPD_PIECE (R520). The row says whether the flash erases, programs and reads back (R535; log entry 148). -/
def execUpdPiece (m : Mbx) (flash : Bool) (s : State) : Host.Outcome State Fault Refusal :=
  .next (s.command m 0x0602 fun s t =>
    let i := t.arg 0 4
    let d := t.data.getD []
    let y := s.ks.fw.target
    let done (s : State) : State := (s.mbResult m 0 (toBytes s.ks.fw.target.received 4)).mbDone m 0
    if s.updating then s.mbDone m 0x0608
    else if y.manifest = [] ∨ manPieces y.manifest ≤ i then s.mbDone m 0x0606
    else if (y.pieces.find i).isSome then done s
    else if pieceDigest d ≠ (manEntry y.manifest i).take 32 then s.mbDone m 0x0605
    else if !flash then s.mbDone m 0x0609
    else done (s.updTarget fun y => { y with pieces := y.pieces.put i d }))

/-! ## Activation (R523 to R530) -/

/-- The active pointer names the target slot and the module warm-resets, which completes no command (R525). -/
def State.bootTarget (s : State) : State :=
  (s.updFw fun x => { x with activeB := x.targetB }).raiseWarm .command

/-- UPD_ACTIVATE (R524 to R526). -/
def execUpdActivate (m : Mbx) (s : State) : Host.Outcome State Fault Refusal :=
  .next (s.command m 0x0603 fun s _ =>
    let x := s.ks.fw
    let y := x.target
    let l := List.range (manPieces y.manifest)
    if s.updating then s.mbDone m 0x0509
    else if y.manifest = [] || l.any fun i => (y.pieces.find i).isNone then s.mbDone m 0x0607
    else if leAt y.manifest 12 2 < x.floor then s.mbDone m 0x0603
    else match y.imageKey with
      | none => s.mbDone m 0x0604
      | some k =>
        match l.find? fun i => !y.pieceOk k i with
        | some i => (s.updTarget fun y => { y with pieces := y.pieces.del i }).mbDone m 0x0605
        | none =>
          if !x.live y.manifest then s.bootTarget
          else ((s.mbWait m fun t => t).mbTotal m 37).updFw fun x => { x with activation := some (m.val, 0) })

/-- KIND of processor i of R526. -/
def processorKind (i : Nat) : Nat := if i < 16 then 0 else if i < 32 then 1 else if i < 36 then 2 else 3

/-- The keystone's last share runs: pointer, counters, UPDATING, event and command (R526). -/
def State.activationEnd (s : State) (m : Nat) : State :=
  let man := s.ks.fw.target.manifest
  let s := s.updFw fun x =>
    let b := x.targetB
    { x.advance (leAt man 12 2) with
      activeB := b, bootedB := b, byRecovery := (x.slot b).plain, versions := manVersions man,
      secEpoch := leAt man 12 2, activation := none }
  let s := s.setReg (ksOff + 4) (BitVec.ofNat 32 (leAt man 8 4))
  let s := s.record 0 0 0x060C false none (detail [(s.ks.fw.floor, 2), (0, 2), (leAt man 8 4, 4)])
  if (s.takenCmd m 0x0603).isSome then s.mbDoneAll m else s

/-- PROCESSOR_SWITCH: the next processor of a live activation takes its firmware; a pier that is not ACTIVE counts as
updated, one that serves a context is waited for (R526, R527, R529). -/
def execProcessorSwitch (s : State) : Host.Outcome State Fault Refusal :=
  .next (match s.ks.fw.activation with
    | none => s
    | some (m, i) =>
      let p := i - 16
      let pier := 16 ≤ i && i < 32
      if s.tripped || s.ks.resetting || (pier && (s.pier p).power = 0 && (s.pier p).serves.isSome) then s
      else
        let kind := processorKind i
        let s := if pier && (s.pier p).power ≠ 0 then s
          else s.record 0 0 0x060B false none
            (detail [(i, 1), (kind, 1), (0, 2), (manVersion s.ks.fw.target.manifest kind, 4)])
        let s := (s.updFw fun x => { x with activation := some (m, i + 1) }).mbProg m (i + 1)
        if i = 36 then s.activationEnd m else s)

/-- DRAIN_REQUEST: the pier at its turn serves a context; the event names both, again every 10 s (R529). -/
def execDrainRequest (p : Pier) (s : State) : Host.Outcome State Fault Refusal :=
  .next (match s.ks.fw.activation, (s.pier p).serves with
    | some (_, i), some c =>
      if i = 16 + p.val ∧ (s.pier p).power = 0 then
        s.record 0 0 0x060A false (some (s.ctxTag c)) (detail [(p.val, 1), (0, 3), (s.ctxTag c, 4)])
      else s
    | _, _ => s)

/-! ## Recovery loading (R531) -/

/-- Pieces of a recovery image, in index order after the manifest. -/
def imagePieces (d : List Byte) : List (List Byte) :=
  (List.range (manPieces d)).map fun i => sliceBytes d (manLen d + 65536 * i) 65536

/-- 32 fresh random bytes. -/
def State.random32 (s : State) : List Byte × State :=
  let (l, s) := s.frees 4
  ((l.map fun v => toBytes v 8).flatten, s)

/-- The image encrypted for this module: wrap block, pieces and local tag table under a fresh key. -/
def State.sealImage (s : State) (d : List Byte) (counter : Nat) : ImageSlot × State :=
  let man := d.take (manLen d)
  let (k, s) := s.random32
  let (r, s) := s.random32
  let (ct, ss) := Config.kemEncaps kemKey r
  let (wk, wt) := gcmSeal (kekOf ss (manId man)) (List.replicate 12 0) k
  let parts := (List.zip (List.range (manPieces man)) (imagePieces d)).map fun x =>
    (x.1, gcmSeal k (pieceNonce (manId man) x.1) x.2)
  ({ manifest := man, wrap := sliceBytes ct 0 1568 ++ sliceBytes wk 0 32 ++ sliceBytes wt 0 16,
     pieces := parts.map fun x => (x.1, x.2.1), tags := parts.map fun x => x.2.2, plain := true, refused := false,
     counter := counter, key := shake256 k 64 }, s)

/-- RECOVERY_LOAD: into the slot that failed to boot, or as a privileged command in HELD and RUNNING into the target slot
(R531). The row says whether the flash takes it (R535; log entry 148). -/
def execRecoveryLoad (m : Mbx) (flash : Bool) (s : State) : Host.Outcome State Fault Refusal :=
  .next (s.command m 0x0604 fun s t =>
    let d := t.data.getD []
    let x := s.ks.fw
    let st := x.manStatus d
    let ok (y : Nat × List Byte) : Bool := pieceDigest y.2 = (manEntry d y.1).take 32
    if s.updating then s.mbDone m 0x0608
    else if st ≠ 0 then s.mbDone m st
    else if !manPlain d || d.length < manLen d + 65536 * manPieces d then s.mbDone m 0x0602
    else
      let s := s.mbTotal m (manPieces d)
      match (List.zip (List.range (manPieces d)) (imagePieces d)).find? fun y => !ok y with
      | some (i, _) => (s.mbProg m i).mbDone m 0x0605
      | none =>
        if !flash then s.mbDone m 0x0609 else
        let b := if s.ks.phase = .recovery then x.activeB else x.targetB
        let (slot, s) := s.sealImage d (x.slot b).counter
        let s := s.updFw fun x => x.setSlot b slot
        if s.ks.phase = .recovery then
          (s.updFw fun x => { x with activeB := b, recoveryAt := some s.elapsed }).mbDoneAll m
        else (s.mbProg m (manPieces d)).bootTarget)

/-- RECOVERY_WARM_RESET: 10 ms after a successful load (R531). -/
def execRecoveryWarmReset (s : State) : Host.Outcome State Fault Refusal :=
  .next (if s.ks.fw.recoveryAt.isSome then s.raiseWarm .command else s)

/-! ## Attestation (R533, R534) -/

/-- The lowest version of a kind that runs (R534). -/
def Firmware.runs (x : Firmware) (kind : Nat) : Nat :=
  let old := x.versions.get 0 kind
  let new := manVersion x.target.manifest kind
  match x.activation with
  | none => old
  | some (_, i) =>
    let first := [0, 16, 32, 36].getD kind 0
    let last := [16, 32, 36, 37].getD kind 0
    if i ≤ first then old else if last ≤ i then new else min old new

/-- The 256 bytes of the report that the attestation key signs. -/
def State.report256 (s : State) (nonce : List Byte) (stamp : Nat) : List Byte :=
  let x := s.ks.fw
  sliceBytes
    (detail [(0x52415743, 4), (1, 2), (0xC016, 2), (0x00C0, 2), (s.moduleId, 2)] ++ deviceId ++
     ([0, 1, 2, 3].map fun k => toBytes (x.runs k) 4).flatten ++ detail [(x.secEpoch, 2), (x.floor, 2)] ++
     sliceBytes nonce 0 32 ++ shake256 ((x.slot x.bootedB).man x.bootedB) 64 ++
     shake256 (Config.setBytes s.committedWords s.routes s.fast) 64 ++
     detail [(stamp, 8), (s.reg64 (cfgOff + 0x10), 8), (s.ksState, 1),
       (b2n s.ltOn + 2 * b2n x.byRecovery + 4 * b2n x.activation.isSome, 1), (s.ks.insp.score, 2)]) 0 256

/-- ATTEST (R533, R534): the certificate goes to host memory where an address is given, then the report. -/
def execAttest (m : Mbx) (s : State) : Host.Outcome State Fault Refusal :=
  .next (s.command m 0x0605 fun s t =>
    let addr := t.arg 32 8
    if addr ≠ 0 && !s.hostOk then (s.orReg (hpOff + 4) 0x10).mbDone m 0x050A
    else
      let s := if addr = 0 then s else s.hostWrite addr certificate
      let (st, s) := s.stamp 0 0
      let r := s.report256 (sliceBytes t.args 0 32) st
      let sig := Config.falconSign (keySeed .attest) r
      (s.mbResult m 0 (r ++ toBytes sig.length 2 ++ sig)).mbDone m 0)

end Sys2Proof.Machine
end

