-- ==== Sys2Proof/Machine/Dispatch.lean ====
section
/-! DEFINITION. One arm per command: the meaning it calls. -/
namespace Sys2Proof.Machine
open Sys2Proof
def exec (i : Instr) (s : State) : Host.Outcome State Fault Refusal :=
  match i with
  -- dispatch and queue steps of the pier sequencer
  | .nop p => Sys2Proof.Machine.execNop p s
  | .endTask p => Sys2Proof.Machine.execEndTask p s
  | .setb p => Sys2Proof.Machine.execSetb p s
  | .addb p => Sys2Proof.Machine.execAddb p s
  | .loop p => Sys2Proof.Machine.execLoop p s
  | .br p => Sys2Proof.Machine.execBr p s
  | .twait p => Sys2Proof.Machine.execTwait p s
  | .twaitRelease p q => Sys2Proof.Machine.execTwaitRelease p q s
  | .tsig p ph => Sys2Proof.Machine.execTsig p ph s
  | .tset p => Sys2Proof.Machine.execTset p s
  | .mark p ph => Sys2Proof.Machine.execMark p ph s
  | .setx p => Sys2Proof.Machine.execSetx p s
  | .setl p => Sys2Proof.Machine.execSetl p s
  | .ldd p => Sys2Proof.Machine.execLdd p s
  | .lddDescriptorsArrive p => Sys2Proof.Machine.execLddDescriptorsArrive p s
  | .pass p => Sys2Proof.Machine.execPass p s
  | .passAdmission p a steps => Sys2Proof.Machine.execPassAdmission p a steps s
  | .passEndMarker p a steps => Sys2Proof.Machine.execPassEndMarker p a steps s
  | .drainComplete p a steps => Sys2Proof.Machine.execDrainComplete p a steps s
  | .overflowReissue p a steps => Sys2Proof.Machine.execOverflowReissue p a steps s
  | .passCompletion p a steps => Sys2Proof.Machine.execPassCompletion p a steps s
  | .accZeroingDone p a => Sys2Proof.Machine.execAccZeroingDone p a s
  | .xfer p ph => Sys2Proof.Machine.execXfer p ph s
  | .gather p ph => Sys2Proof.Machine.execGather p ph s
  | .reduce p ph => Sys2Proof.Machine.execReduce p ph s
  | .taskSubmission p len => Sys2Proof.Machine.execTaskSubmission p len s
  | .taskStart p => Sys2Proof.Machine.execTaskStart p s
  | .taskCompletion p => Sys2Proof.Machine.execTaskCompletion p s
  | .faultedEntry p => Sys2Proof.Machine.execFaultedEntry p s
  | .haltComplete p => Sys2Proof.Machine.execHaltComplete p s
  | .tallyIncrementReceived p src => Sys2Proof.Machine.execTallyIncrementReceived p src s
  -- vector engine
  | .vfma p ph => Sys2Proof.Machine.execVfma p ph s
  | .vadd p ph => Sys2Proof.Machine.execVadd p ph s
  | .vmul p ph => Sys2Proof.Machine.execVmul p ph s
  | .vcmp p ph => Sys2Proof.Machine.execVcmp p ph s
  | .vspec p ph => Sys2Proof.Machine.execVspec p ph s
  | .vact p ph => Sys2Proof.Machine.execVact p ph s
  | .vshf p ph => Sys2Proof.Machine.execVshf p ph s
  | .vred p ph => Sys2Proof.Machine.execVred p ph s
  | .vld p ph => Sys2Proof.Machine.execVld p ph s
  | .vst p ph => Sys2Proof.Machine.execVst p ph s
  | .vqst p ph => Sys2Proof.Machine.execVqst p ph s
  | .vopt p ph => Sys2Proof.Machine.execVopt p ph s
  | .vectorZeroingDone p => Sys2Proof.Machine.execVectorZeroingDone p s
  | .gaugeCheck p => Sys2Proof.Machine.execGaugeCheck p s
  -- register rows
  | .marCtrlEn p a v => Sys2Proof.Machine.execMarCtrlEn p a v s
  | .marCtrlHalt p a v => Sys2Proof.Machine.execMarCtrlHalt p a v s
  | .marCtrlCntClr p a => Sys2Proof.Machine.execMarCtrlCntClr p a s
  | .psqCtrlArm p v => Sys2Proof.Machine.execPsqCtrlArm p v s
  | .psqCtrlHalt p v => Sys2Proof.Machine.execPsqCtrlHalt p v s
  | .psqCtrlAbort p => Sys2Proof.Machine.execPsqCtrlAbort p s
  | .psqCtrlClrFault p => Sys2Proof.Machine.execPsqCtrlClrFault p s
  | .psqCtrlCntClr p => Sys2Proof.Machine.execPsqCtrlCntClr p s
  | .psqCtxTag p tag => Sys2Proof.Machine.execPsqCtxTag p tag s
  | .psqTcnWrite p tc v => Sys2Proof.Machine.execPsqTcnWrite p tc v s
  | .vecCtrlCntClr p => Sys2Proof.Machine.execVecCtrlCntClr p s
  | .dmcCtrlScrubEn n v => Sys2Proof.Machine.execDmcCtrlScrubEn n v s
  | .dmcCtrlCntClr n => Sys2Proof.Machine.execDmcCtrlCntClr n s
  | .dmcFenceTag n tag => Sys2Proof.Machine.execDmcFenceTag n tag s
  | .dmcFenceQuiet n => Sys2Proof.Machine.execDmcFenceQuiet n s
  | .zlCtrlEn l v => Sys2Proof.Machine.execZlCtrlEn l v s
  | .zlCtrlRetrain l => Sys2Proof.Machine.execZlCtrlRetrain l s
  | .zlCtrlCntClr l => Sys2Proof.Machine.execZlCtrlCntClr l s
  | .zlSwFenceTag k tag => Sys2Proof.Machine.execZlSwFenceTag k tag s
  | .switchFenceQuiet k => Sys2Proof.Machine.execSwitchFenceQuiet k s
  | .tsCtrlCntClr => Sys2Proof.Machine.execTsCtrlCntClr s
  | .tsSetCount v => Sys2Proof.Machine.execTsSetCount v s
  | .rshCtrlEn k v => Sys2Proof.Machine.execRshCtrlEn k v s
  | .rshCtrlAbort k => Sys2Proof.Machine.execRshCtrlAbort k s
  | .rshCtrlCntClr k => Sys2Proof.Machine.execRshCtrlCntClr k s
  | .rshSubmitAddr k addr => Sys2Proof.Machine.execRshSubmitAddr k addr s
  | .registerWrite w off data => Sys2Proof.Machine.execRegisterWrite w off data s
  | .counterSnapshotRead off => Sys2Proof.Machine.execCounterSnapshotRead off s
  -- memory
  | .read r => Sys2Proof.Machine.execRead r s
  | .write r data mask => Sys2Proof.Machine.execWrite r data mask s
  | .plain r pair wide data => Sys2Proof.Machine.execPlain r pair wide data s
  | .chunk c => Sys2Proof.Machine.execChunk c s
  | .zero page => Sys2Proof.Machine.execZero page s
  | .window n w op => Sys2Proof.Machine.execWindow n w op s
  | .channelMapOut n c => Sys2Proof.Machine.execChannelMapOut n c s
  | .zeroComplete page => Sys2Proof.Machine.execZeroComplete page s
  | .roundFinish n w => Sys2Proof.Machine.execRoundFinish n w s
  | .chunkRepeat p te => Sys2Proof.Machine.execChunkRepeat p te s
  | .patrolScrub n found => Sys2Proof.Machine.execPatrolScrub n found s
  | .refreshBandSample n core base => Sys2Proof.Machine.execRefreshBandSample n core base s
  -- links
  | .linkTrainingStep l t => Sys2Proof.Machine.execLinkTrainingStep l t s
  | .trainingTimeout l => Sys2Proof.Machine.execTrainingTimeout l s
  | .trainingRetry l => Sys2Proof.Machine.execTrainingRetry l s
  | .slotReceived l x => Sys2Proof.Machine.execSlotReceived l x s
  | .replayTimeout l => Sys2Proof.Machine.execReplayTimeout l s
  | .resync l frame => Sys2Proof.Machine.execResync l frame s
  | .time l f => Sys2Proof.Machine.execTime l f s
  | .truss l frame => Sys2Proof.Machine.execTruss l frame s
  | .lockLoss l => Sys2Proof.Machine.execLockLoss l s
  | .sideFrameSilence l => Sys2Proof.Machine.execSideFrameSilence l s
  | .headerFlit src header payload => Sys2Proof.Machine.execHeaderFlit src header payload s
  | .writePacket k => Sys2Proof.Machine.execWritePacket k s
  | .landingCount k => Sys2Proof.Machine.execLandingCount k s
  | .readPacket k => Sys2Proof.Machine.execReadPacket k s
  | .chunkPacket k => Sys2Proof.Machine.execChunkPacket k s
  | .coll k => Sys2Proof.Machine.execColl k s
  | .msg k => Sys2Proof.Machine.execMsg k s
  | .ack k => Sys2Proof.Machine.execAck k s
  | .rdata k => Sys2Proof.Machine.execRdata k s
  | .refused k => Sys2Proof.Machine.execRefused k s
  | .nack k => Sys2Proof.Machine.execNack k s
  | .farTimeout k txid => Sys2Proof.Machine.execFarTimeout k txid s
  | .collectiveRoundComplete d => Sys2Proof.Machine.execCollectiveRoundComplete d s
  | .collChunkRepeat d => Sys2Proof.Machine.execCollChunkRepeat d s
  | .spanTimeHoldover => Sys2Proof.Machine.execSpanTimeHoldover s
  | .ppsEdge => Sys2Proof.Machine.execPpsEdge s
  | .ppsMissing => Sys2Proof.Machine.execPpsMissing s
  | .replicaTrim => Sys2Proof.Machine.execReplicaTrim s
  -- shards, resharding, steps
  | .shardRefetch p te => Sys2Proof.Machine.execShardRefetch p te s
  | .shardTimeout p te => Sys2Proof.Machine.execShardTimeout p te s
  | .shardSeal c idx => Sys2Proof.Machine.execShardSeal c idx s
  | .reshardJobStart k => Sys2Proof.Machine.execReshardJobStart k s
  | .reshardJobComplete k => Sys2Proof.Machine.execReshardJobComplete k s
  | .stepOpen c => Sys2Proof.Machine.execStepOpen c s
  | .gateEvaluation c => Sys2Proof.Machine.execGateEvaluation c s
  | .stepLocalCompletion c => Sys2Proof.Machine.execStepLocalCompletion c s
  | .twinRootArrival c step root => Sys2Proof.Machine.execTwinRootArrival c step root s
  | .voteResult c => Sys2Proof.Machine.execVoteResult c s
  -- serving
  | .stepComposition c => Sys2Proof.Machine.execStepComposition c s
  | .servingSubmit c => Sys2Proof.Machine.execServingSubmit c s
  | .servingStepApply c => Sys2Proof.Machine.execServingStepApply c s
  | .servingStepFail c => Sys2Proof.Machine.execServingStepFail c s
  | .creditReread c stream => Sys2Proof.Machine.execCreditReread c stream s
  | .streamRecords => Sys2Proof.Machine.execStreamRecords s
  | .recordResend => Sys2Proof.Machine.execRecordResend s
  -- mailboxes and the host port
  | .mailboxOwnFlip m => Sys2Proof.Machine.execMailboxOwnFlip m s
  | .mailboxCancel m => Sys2Proof.Machine.execMailboxCancel m s
  | .mailboxWriteWhileOwned m off => Sys2Proof.Machine.execMailboxWriteWhileOwned m off s
  | .commandTake => Sys2Proof.Machine.execCommandTake s
  | .progressUpdate m done => Sys2Proof.Machine.execProgressUpdate m done s
  | .eventRecord => Sys2Proof.Machine.execEventRecord s
  | .holdoffExpiry v => Sys2Proof.Machine.execHoldoffExpiry v s
  | .badOffsetAccess a => Sys2Proof.Machine.execBadOffsetAccess a s
  | .badWidthAccess a => Sys2Proof.Machine.execBadWidthAccess a s
  | .diagWindowWrite off => Sys2Proof.Machine.execDiagWindowWrite off s
  | .bayApertureAccess off write data => Sys2Proof.Machine.execBayApertureAccess off write data s
  | .bayReadTimeout id => Sys2Proof.Machine.execBayReadTimeout id s
  | .bayMsg k => Sys2Proof.Machine.execBayMsg k s
  -- the Keystone command set
  | .nopCommand m => Sys2Proof.Machine.execNopCommand m s
  | .identify m => Sys2Proof.Machine.execIdentify m s
  | .bind m => Sys2Proof.Machine.execBind m s
  | .eventRing m => Sys2Proof.Machine.execEventRing m s
  | .aperture m => Sys2Proof.Machine.execAperture m s
  | .resetCommand m => Sys2Proof.Machine.execResetCommand m s
  | .cfgStage m => Sys2Proof.Machine.execCfgStage m s
  | .cfgCommit m => Sys2Proof.Machine.execCfgCommit m s
  | .cfgDiscard m => Sys2Proof.Machine.execCfgDiscard m s
  | .mapRange m => Sys2Proof.Machine.execMapRange m s
  | .map m => Sys2Proof.Machine.execMap m s
  | .unmap m => Sys2Proof.Machine.execUnmap m s
  | .translate m => Sys2Proof.Machine.execTranslate m s
  | .winOpen m => Sys2Proof.Machine.execWinOpen m s
  | .winRearm m => Sys2Proof.Machine.execWinRearm m s
  | .winClose m => Sys2Proof.Machine.execWinClose m s
  | .scrub m found => Sys2Proof.Machine.execScrub m found s
  | .memtest m => Sys2Proof.Machine.execMemtest m s
  | .hostCopy m => Sys2Proof.Machine.execHostCopy m s
  | .routeStage m => Sys2Proof.Machine.execRouteStage m s
  | .fastStage m => Sys2Proof.Machine.execFastStage m s
  | .groupSet m => Sys2Proof.Machine.execGroupSet m s
  | .collOpen m => Sys2Proof.Machine.execCollOpen m s
  | .collRearm m => Sys2Proof.Machine.execCollRearm m s
  | .collClose m => Sys2Proof.Machine.execCollClose m s
  | .linkCtrl m => Sys2Proof.Machine.execLinkCtrl m s
  | .ctxCreate m => Sys2Proof.Machine.execCtxCreate m s
  | .ctxTeardown m => Sys2Proof.Machine.execCtxTeardown m s
  | .piers m => Sys2Proof.Machine.execPiers m s
  | .replace m => Sys2Proof.Machine.execReplace m s
  | .tasks m => Sys2Proof.Machine.execTasks m s
  | .step m => Sys2Proof.Machine.execStep m s
  | .seal m => Sys2Proof.Machine.execSeal m s
  | .shardTable m => Sys2Proof.Machine.execShardTable m s
  | .serveShard m => Sys2Proof.Machine.execServeShard m s
  | .landing m => Sys2Proof.Machine.execLanding m s
  | .reshard m => Sys2Proof.Machine.execReshard m s
  | .updManifest m flash => Sys2Proof.Machine.execUpdManifest m flash s
  | .updPiece m flash => Sys2Proof.Machine.execUpdPiece m flash s
  | .updActivate m => Sys2Proof.Machine.execUpdActivate m s
  | .processorSwitch => Sys2Proof.Machine.execProcessorSwitch s
  | .drainRequest p => Sys2Proof.Machine.execDrainRequest p s
  | .recoveryLoad m flash => Sys2Proof.Machine.execRecoveryLoad m flash s
  | .recoveryWarmReset => Sys2Proof.Machine.execRecoveryWarmReset s
  | .attest m => Sys2Proof.Machine.execAttest m s
  | .serveOpen m => Sys2Proof.Machine.execServeOpen m s
  | .lane m => Sys2Proof.Machine.execLane m s
  | .admitStream m => Sys2Proof.Machine.execAdmitStream m s
  | .ring m => Sys2Proof.Machine.execRing m s
  | .cancel m => Sys2Proof.Machine.execCancel m s
  | .adapterLoad m => Sys2Proof.Machine.execAdapterLoad m s
  | .adapterRetire m => Sys2Proof.Machine.execAdapterRetire m s
  | .weightSwap m => Sys2Proof.Machine.execWeightSwap m s
  | .membership m => Sys2Proof.Machine.execMembership m s
  | .inspect m => Sys2Proof.Machine.execInspect m s
  | .ltEnable m => Sys2Proof.Machine.execLtEnable m s
  | .selftest m mismatches failures => Sys2Proof.Machine.execSelftest m mismatches failures s
  | .ltExpiry => Sys2Proof.Machine.execLtExpiry s
  | .emulatedSag p => Sys2Proof.Machine.execEmulatedSag p s
  -- faults, resets, bring-up, power
  | .heartbeatSample p => Sys2Proof.Machine.execHeartbeatSample p s
  | .pierReset p => Sys2Proof.Machine.execPierReset p s
  | .generationHoldoffExpiry => Sys2Proof.Machine.execGenerationHoldoffExpiry s
  | .fenceTimeout => Sys2Proof.Machine.execFenceTimeout s
  | .keystoneReset => Sys2Proof.Machine.execKeystoneReset s
  | .keystoneRestart => Sys2Proof.Machine.execKeystoneRestart s
  | .warmReset cause => Sys2Proof.Machine.execWarmReset cause s
  | .powerOn strap => Sys2Proof.Machine.execPowerOn strap s
  | .powerLoss => Sys2Proof.Machine.execPowerLoss s
  | .inputUndervoltage tenthVolts => Sys2Proof.Machine.execInputUndervoltage tenthVolts s
  | .overvoltage => Sys2Proof.Machine.execOvervoltage s
  | .keystoneImageAccept puf slotA slotB => Sys2Proof.Machine.execKeystoneImageAccept puf slotA slotB s
  | .engineStart componentFails => Sys2Proof.Machine.execEngineStart componentFails s
  | .settingsLoad copyA copyB => Sys2Proof.Machine.execSettingsLoad copyA copyB s
  | .stackBringup n untrained => Sys2Proof.Machine.execStackBringup n untrained s
  | .pierBringup p => Sys2Proof.Machine.execPierBringup p s
  | .perstDeassert speed width flit => Sys2Proof.Machine.execPerstDeassert speed width flit s
  | .hostPortReset cause => Sys2Proof.Machine.execHostPortReset cause s
  | .droopSense p => Sys2Proof.Machine.execDroopSense p s
  | .droopSecondStep p => Sys2Proof.Machine.execDroopSecondStep p s
  | .droopRecovery p => Sys2Proof.Machine.execDroopRecovery p s
  | .powerCapStep watts tenthVolts => Sys2Proof.Machine.execPowerCapStep watts tenthVolts s
  | .pierPowerTransition p => Sys2Proof.Machine.execPierPowerTransition p s
  | .thermalTrip x reading => Sys2Proof.Machine.execThermalTrip x reading s
  | .lidOverMaximum q temp => Sys2Proof.Machine.execLidOverMaximum q temp s
  | .tripCooldownReset => Sys2Proof.Machine.execTripCooldownReset s
  | .neighbourSuspect n => Sys2Proof.Machine.execNeighbourSuspect n s
  | .suspectRepeat n => Sys2Proof.Machine.execSuspectRepeat n s
  | .trussMessage k => Sys2Proof.Machine.execTrussMessage k s
  | .recordRequest k => Sys2Proof.Machine.execRecordRequest k s
  | .recordReply k => Sys2Proof.Machine.execRecordReply k s
  | .membershipInstall => Sys2Proof.Machine.execMembershipInstall s
  | .scoreCompute => Sys2Proof.Machine.execScoreCompute s
  | .scoreDecay => Sys2Proof.Machine.execScoreDecay s
  | .probationReport => Sys2Proof.Machine.execProbationReport s
  | .probationSelftest samples mismatches failures => Sys2Proof.Machine.execProbationSelftest samples mismatches failures s
  | .dieTemperatureExcursion p temp => Sys2Proof.Machine.execDieTemperatureExcursion p temp s
  | .sensorThresholdCrossing id => Sys2Proof.Machine.execSensorThresholdCrossing id s
  | .pldmEventRead => Sys2Proof.Machine.execPldmEventRead s
  | .tapInstruction insn => Sys2Proof.Machine.execTapInstruction insn s
  | .hostMemoryAccessDone m data => Sys2Proof.Machine.execHostMemoryAccessDone m data s
  | .settingsCopyWritten => Sys2Proof.Machine.execSettingsCopyWritten s
  | .memtestComplete m failing => Sys2Proof.Machine.execMemtestComplete m failing s
  | .undervoltageExcursionEnd tenthVolts => Sys2Proof.Machine.execUndervoltageExcursionEnd tenthVolts s
end Sys2Proof.Machine
end

