-- ==== Sys2Proof/Machine/Tick.lean ====
section
/-! DEFINITION. What one nanosecond of the block's own time does: the span-time count under its rate correction, and the
times of open steps (R215, R341, R343, R344; log entry 2). -/
namespace Sys2Proof.Machine
open Sys2Proof

/-- TS_RATE.PPB (R349). -/
def State.ratePpb (s : State) : Int := sext (s.reg (tsOff + 0x28)).toNat 32

/-- Parts of 10^9 of a nanosecond of span time that are due after one nanosecond of the reference. -/
def State.spanParts (s : State) : Nat := (((s.ts.frac + 1000000000 : Nat) : Int) + s.ratePpb).toNat

/-- What step does on an empty queue: one nanosecond of the reference passes (log entry 2). The master count advances by
it under the rate correction, and the times of every open step by as much of span time. -/
def idleTick (s : State) : State :=
  let dt := s.spanParts / 1000000000
  let s := { s with
    elapsed := s.elapsed + 1,
    ts := { s.ts with count := s.ts.count + BitVec.ofNat 64 dt, frac := s.spanParts % 1000000000 } }
  let times (c : Nat × Context) : Nat × Context := (c.1, { c.2 with step := c.2.step.map (s.stepTimes dt) })
  s.updKs fun k => { k with ctxs := k.ctxs.map times }

end Sys2Proof.Machine
end

