-- ==== Sys2Proof/Safety.lean ====
section
/-! DEFINITION. What a safe run is, and the words in which claims speak of a step: what it leaves unchanged, what stands
at a sequencer's program counter, and the forms of the state that steps keep. -/
namespace Sys2Proof
open Sys2Proof.Machine

/-- A step is safe in a state when it answers a next state: neither a fault nor a refusal. -/
def safeStep (s : State) : Prop := ∃ t, step s = .next t

end Sys2Proof

namespace Sys2Proof.Machine
open Sys2Proof

/-- Memory stands in its canonical form: addresses strictly rising, no entry that reads as an unlisted address does. -/
def State.memOk (s : State) : Prop := Memory.wf s.mem = true

/-- From u to t every register but those listed reads as before. -/
def State.regsBut (u t : State) (l : List Nat) : Prop := ∀ o, o ∉ l → t.reg o = u.reg o

/-- From u to t only pier p and the registers listed have changed: every other pier, register, byte of memory, stack,
link, die, table, queue and output is as it was. -/
def State.pierOnly (u t : State) (p : Nat) (l : List Nat) : Prop :=
  (∀ q, q ≠ p → t.pier q = u.pier q) ∧ u.regsBut t l ∧ ({ t with piers := u.piers, regs := u.regs } : State) = u

/-- From u to t only the registers listed have changed. -/
def State.regsOnly (u t : State) (l : List Nat) : Prop :=
  u.regsBut t l ∧ ({ t with regs := u.regs } : State) = u

/-- PSQ_PROGRESS of pier p has counted n more instructions (R164). -/
def State.progressed (u t : State) (p n : Nat) : Prop :=
  t.reg64 (psqOff p + 0x58) = (u.reg64 (psqOff p + 0x58) + n) % 2 ^ 64

/-- An instruction of pier p has completed at dispatch: PSQ_PROGRESS counts it, and nothing but the pier has changed
(R135, R139, R164). -/
def State.feOnly (u t : State) (p : Nat) : Prop :=
  u.progressed t p 1 ∧ u.pierOnly t p [psqOff p + 0x58, psqOff p + 0x5C]

/-- From u to t only pier p and the registers listed have changed, and beside them at most the stamp that a task of the
pier takes when its last instruction completes (R27, R116). -/
def State.pierStamped (u t : State) (p : Nat) (l : List Nat) : Prop :=
  (∀ q, q ≠ p → t.pier q = u.pier q) ∧ u.regsBut t l ∧
    ({ t with piers := u.piers, regs := u.regs, ts := u.ts, freeCtr := u.freeCtr } : State) = u ∧
    ({ t.ts with stamps := u.ts.stamps } : SpanTime) = u.ts

/-- Pier p is RUNNING with task r dispatching, nothing holds its front end, and the words w0 and w1 stand at its program
counter; u is the state after their fetch (R115, R118, R119). -/
def State.atInstr (s : State) (p : Nat) (r : RunTask) (w0 w1 : Nat) (u : State) : Prop :=
  (s.pier p).seq = .running ∧ (s.pier p).hold = none ∧ (s.pier p).run = some r ∧ s.fetchInstr p r = (.ok w0 w1, u)

/-- The head of queue q of pier p is an instruction with opcode o. -/
def State.atHead (s : State) (p q o : Nat) (e : Entry) : Prop := s.head p q = some e ∧ opc e.w0.toNat = o

/-- The memory of stack n serves a request for a local address under a tag: the stack is in service and no pier reset
runs on it, the tag is not being fenced there, and the page is OWNED by it, with EXPORT when the request comes from a
peer module (R249, R262, R266, R279, R284). -/
def State.stackServes (s : State) (n la tag : Nat) (peer : Bool) : Prop :=
  (∃ o, place la = .stack n o) ∧ s.stackOpen n = true ∧ (s.stack n).fenced ≠ some tag ∧
    fld (s.owner (pageOf la)) 18 3 = 1 ∧ fld (s.owner (pageOf la)) 0 18 = tag ∧
    (peer = true → bit (s.owner (pageOf la)) 21 = true)

/-- From u to t only memory, its counters and the answers have changed: the list names the registers. -/
def State.memOnly (u t : State) (l : List Nat) : Prop :=
  u.regsBut t l ∧ ({ t with mem := u.mem, regs := u.regs, replies := u.replies } : State) = u

/-! ## Keystone commands -/

/-- A command with opcode op stands taken in mailbox m, runs its immediate part now, and any host memory it asked for has
come (R430, R433). -/
def State.cmd (s : State) (m op : Nat) (k : Taken) : Prop :=
  (s.mb m).taken = some k ∧ k.opcode = op ∧ k.waits = false ∧ (k.ask = none ∨ k.data ≠ none)

/-- Mailbox m has been given back with a status: STATUS holds it and OWN is clear (R432). -/
def State.answered (t : State) (m status : Nat) : Prop :=
  (t.mb m).owner = false ∧ (t.mb m).taken = none ∧ ofBytes ((t.mb m).read 0x10 2) = status

/-- From u to t mailbox m has been given back with a status; every other mailbox stands, and beside the mailbox itself,
stamps, records, free values and what a vector's message moves, the state is as it was. Without FLAGS bit 1 no message
moves anything (R430, R432). -/
def State.finished (u t : State) (m status : Nat) : Prop :=
  t.answered m status ∧ (∀ k, k ≠ m → t.mb k = u.mb k) ∧
    ({ t.ks with mbs := u.ks.mbs, records := u.ks.records, txid := u.ks.txid } : Keystone) = u.ks ∧
    ({ t.ts with stamps := u.ts.stamps } : SpanTime) = u.ts ∧
    ({ t with ks := u.ks, ts := u.ts, regs := u.regs, dies := u.dies, links := u.links, out := u.out, hp := u.hp,
              freeCtr := u.freeCtr } : State) = u ∧
    (∀ k, (u.mb m).taken = some k → bit k.flags 1 = false →
      ({ t with ks := u.ks, ts := u.ts, freeCtr := u.freeCtr } : State) = u)

/-- From u to t mailbox m has been completed with a status and nothing else: its PROG, TOTAL, ARGS and RESULT stand as in
u (R432). -/
def State.completed (u t : State) (m status : Nat) : Prop :=
  u.finished t m status ∧ ∀ o, 0x20 ≤ o → (t.mb m).bytes.get 0 o = (u.mb m).bytes.get 0 o

/-- From u to t the command k of mailbox m now waits for its completion event; the mailbox's bytes may hold its
progress, and nothing but the mailbox has changed (R433, R436). -/
def State.waitsOn (u t : State) (m : Nat) (k : Taken) : Prop :=
  (t.mb m).owner = (u.mb m).owner ∧ (t.mb m).taken = some { k with waits := true } ∧
    (∀ j, j ≠ m → t.mb j = u.mb j) ∧ ({ t with ks := { t.ks with mbs := u.ks.mbs } } : State) = u

/-- Drain descriptor b is one that pass e may use: its reserved fields are 0, its strides hold the rows they step over,
its conversion descriptor is good, and its format, factor and function are ones the pass's class allows (R127, R554). -/
def Entry.drainGood (e : Entry) (b : Nat) : Prop :=
  fld b 29 3 = 0 ∧ fld b 200 56 = 0 ∧ ddStep b < 32 ∧ ddDest b % 8 = 0 ∧ rowBytes (fld b 0 4) e.nValid ≤ ddDest b ∧
  (ddStage b 3 = true → funcSide (ddFunc b) = true → ddSide b % 8 = 0 ∧ rowBytes (ddSideFmt b) e.nValid ≤ ddSide b) ∧
  convCheck (ddConv b) (if e.cls = 4 then 8 else 7) = none ∧
  (fld b 0 4 = 11 → e.isInt = true ∧ ddStage b 1 = false ∧ ddStage b 2 = false ∧ ddStage b 3 = false) ∧
  (e.cls = 4 → fld b 0 4 = 7 ∨ fld b 0 4 = 8) ∧
  (ddStage b 1 = true → (fp32.decode (ddF b)).isNan = false ∧ (fp32.decode (ddF b)).isInf = false) ∧
  (ddStage b 3 = true → funcOk (ddFunc b) = true ∧
    (e.cls = 4 → ddFunc b = 0 ∨ ddFunc b = 1 ∨ ddFunc b = 0x80))

/-- A PASS that the checks of R554 let through, d the drain descriptor its word names: no reserved code, a class for its
formats, good scale descriptors, accumulator rows inside the store, and a good drain descriptor where it drains. -/
def Entry.passGood (e : Entry) (d : Option Nat) : Prop :=
  e.accMode ≠ 3 ∧ e.statSrc ≠ 3 ∧ e.gauge ≠ 3 ∧ passClass e.statFmt e.strmFmt ≠ none ∧
  scaleCheck e.statSdesc e.statFmt = none ∧ scaleCheck e.strmSdesc e.strmFmt = none ∧
  (e.accMode = 0 → e.drainOut = true) ∧
  (e.accMode ≠ 0 → e.accBase + e.mRows ≤ if e.cls = 4 then 2048 else 4096) ∧
  (e.drainOut = true → ∃ b, d = some b ∧ e.drainGood b)

end Sys2Proof.Machine
end

