-- ==== Sys2Proof/Certificates/Slice0/Obligations.lean ====
section
/-! DEFINITION. The statements for the provers. -/
open Sys2Proof Sys2Proof.Machine

/-! ## The block -/

/-- A step runs the command at the front of the queue on the state with the queue's rest; on an empty queue one nanosecond
of the reference passes: the count moves by the nanoseconds of span time that the rate correction makes due, one where no
correction stands, and beside it only the times of open steps move on (R215, R341, R343; log entry 2). -/
def Obligations.StepTakesFront : Prop :=
  (∀ (c : Instr) (s : State), step { s with pending := c :: s.pending } = exec c s) ∧
  (∀ s : State, s.pending = [] → ∃ t, step s = .next t ∧ t.elapsed = s.elapsed + 1 ∧
    (s.reg (tsOff + 0x28) = 0 → s.ts.frac < 10 ^ 9 → t.ts.count = s.ts.count + 1 ∧ t.ts.frac = s.ts.frac) ∧
    (∀ r : Int, (s.reg (tsOff + 0x28)).toInt = r → (-200000 ≤ r ∧ r ≤ 200000) → s.ts.frac < 10 ^ 9 → ∃ n : Nat,
      t.ts.count = s.ts.count + BitVec.ofNat 64 n ∧ t.ts.frac < 10 ^ 9 ∧
      (n * 10 ^ 9 + t.ts.frac : Int) = s.ts.frac + 10 ^ 9 + r) ∧
    ({ t.ts with count := s.ts.count, frac := s.ts.frac } : SpanTime) = s.ts ∧
    (∀ c, ({ t.ctx c with step := (s.ctx c).step } : Context) = s.ctx c ∧ ((s.ctx c).step = none → t.ctx c = s.ctx c)) ∧
    ({ t with elapsed := s.elapsed, ts := s.ts, ks := { t.ks with ctxs := s.ks.ctxs } } : State) = s)

/-! ## The pier sequencer -/

/-- NOP, END, SETB, ADDB, SETX, SETL and TSET take effect at dispatch and complete there (R139, R135, R121): each changes
its own register of the pier and the program counter, PSQ_PROGRESS counts it, and nothing else changes, but for the stamp
that a task takes when its END completes it (R27, R116). -/
def Obligations.FrontEndRegisters : Prop :=
  ∀ (p : Pier) (s u : State) (r : RunTask) (w : Nat), s.atInstr p r w 0 u → onlyFields w (ctlFields (opc w)) = true →
    let x := u.pier p
    let next : PierState := { x with run := some (r.advance 1) }
    (opc w = 0x04 → ∃ t, exec (.nop p) s = .next t ∧ u.feOnly t p ∧ t.pier p = next) ∧
    (opc w = 0x08 → ∃ t, exec (.endTask p) s = .next t ∧ u.progressed t p 1 ∧
      u.pierStamped t p [psqOff p + 0x58, psqOff p + 0x5C] ∧
      ({ t.pier p with started := x.started } : PierState) = { x with run := none } ∧
      (t.pier p).started.map (fun y => { y with stamp := none }) = x.started.map (fun y =>
        if y.ser = r.task.ser then { y with ended := true, endCode := fld w 8 16, stamp := none }
        else { y with stamp := none }) ∧
      (∀ y ∈ (t.pier p).started, y.ser = r.task.ser → y.left = 0 → y.stamp ≠ none)) ∧
    (opc w = 0x0C → ∃ t, exec (.setb p) s = .next t ∧ u.feOnly t p ∧
      (∀ b, (t.pier p).base b = if b = fld w 8 6 then fld w 64 64 else x.base b) ∧
      ({ t.pier p with bases := x.bases } : PierState) = next) ∧
    (opc w = 0x10 → ∃ t, exec (.addb p) s = .next t ∧ u.feOnly t p ∧
      (∀ b, (t.pier p).base b = if b = fld w 8 6 then
          wrap ((x.base (fld w 14 6) : Int) +
            (if bit w 20 then (x.base (fld w 21 6) : Int) else sext (fld w 32 32) 32)) 64
        else x.base b) ∧
      ({ t.pier p with bases := x.bases } : PierState) = next) ∧
    (opc w = 0x2C → ∃ t, exec (.setx p) s = .next t ∧ u.feOnly t p ∧
      (∀ a, (t.pier p).xc.get 0 a = if a = fld w 8 3 then fld w 32 32 else x.xc.get 0 a) ∧
      ({ t.pier p with xc := x.xc } : PierState) = next) ∧
    (opc w = 0x30 → ∃ t, exec (.setl p) s = .next t ∧ u.feOnly t p ∧ t.pier p = { next with layer := fld w 8 16 }) ∧
    (opc w = 0x24 → ∃ t, exec (.tset p) s = .next t ∧ u.feOnly t p ∧
      (∀ c, t.tc p c = if c = fld w 12 6 then fld w 32 32 else u.tc p c) ∧
      ({ t.pier p with tcs := x.tcs } : PierState) = next)

/-- LOOP starts its body's first pass, or skips it when COUNT is 0, and BR goes to its target or to the next word
(R140, R141); the checks are those of the two rules, made at dispatch. -/
def Obligations.LoopAndBranch : Prop :=
  ∀ (p : Pier) (s u : State) (r : RunTask) (w : Nat), s.atInstr p r w 0 u → onlyFields w (ctlFields (opc w)) = true →
    let x := u.pier p
    let count := fld w 32 32
    let last := r.pc + 1 + fld w 64 16
    let target : Int := (r.pc : Int) + sext (fld w 32 32) 32
    let taken := brHolds (fld w 8 4) (sext (x.base (fld w 12 6)) 64) (sext (x.base (fld w 18 6)) 64)
    (opc w = 0x14 → r.loops.length < 4 → last < r.task.len → (∀ f ∈ r.loops.head?, last ≤ f.last) →
      u.splitsPair p r last = false →
      ∃ t, exec (.loop p) s = .next t ∧ u.feOnly t p ∧
        t.pier p = { x with run := some (
          if count = 0 then { r with pc := last }.advance 1
          else { r with pc := r.pc + 1, loops := { first := r.pc + 1, last := last, left := count } :: r.loops }) }) ∧
    (opc w = 0x18 → fld w 8 4 < 5 →
      (match r.loops with
        | f :: _ => (f.first : Int) ≤ target ∧ target ≤ (f.last : Int)
        | [] => 0 ≤ target ∧ target < (r.task.len : Int)) →
      ∃ t, exec (.br p) s = .next t ∧ u.feOnly t p ∧
        t.pier p = { x with run := some (if taken then { r with pc := target.toNat } else r.advance 1) })

/-- A control instruction with a bit set outside its fields faults its task with 0x0521, a fifth LOOP level or a body
past the block with 0x0523, a BR out of its bounds with 0x0524 and a reserved COND or queue with 0x0521: dispatch stops
and the sequencer is FAULTING (R112, R139, R140, R141, R158). -/
def Obligations.ControlChecksFault : Prop :=
  ∀ (p : Pier) (s u : State) (r : RunTask) (w : Nat), s.atInstr p r w 0 u → (u.pier p).fault = none →
    let faults (c : Instr) (code : Nat) : Prop :=
      ∃ t, exec c s = .next t ∧ (t.pier p).seq = .faulting ∧ (t.pier p).run = none ∧ (t.pier p).taskQueue = [] ∧
        ∃ f, (t.pier p).fault = some f ∧ f.code = code ∧ f.ser = r.task.ser ∧ f.qsel = 13 ∧ f.word = r.pc
    (onlyFields w (ctlFields (opc w)) = false →
      (opc w = 0x04 → faults (.nop p) 0x0521) ∧ (opc w = 0x08 → faults (.endTask p) 0x0521) ∧
      (opc w = 0x0C → faults (.setb p) 0x0521) ∧ (opc w = 0x10 → faults (.addb p) 0x0521) ∧
      (opc w = 0x14 → faults (.loop p) 0x0521) ∧ (opc w = 0x18 → faults (.br p) 0x0521) ∧
      (opc w = 0x1C → faults (.twait p) 0x0521) ∧ (opc w = 0x20 → faults (.tsig p .dispatch) 0x0521) ∧
      (opc w = 0x24 → faults (.tset p) 0x0521) ∧ (opc w = 0x28 → faults (.mark p .dispatch) 0x0521) ∧
      (opc w = 0x2C → faults (.setx p) 0x0521) ∧ (opc w = 0x30 → faults (.setl p) 0x0521) ∧
      (opc w = 0x34 → faults (.ldd p) 0x0521)) ∧
    (onlyFields w (ctlFields (opc w)) = true →
      (opc w = 0x14 → (4 ≤ r.loops.length ∨ r.task.len ≤ r.pc + 1 + fld w 64 16) → faults (.loop p) 0x0523) ∧
      (opc w = 0x18 → 5 ≤ fld w 8 4 → faults (.br p) 0x0521) ∧
      (opc w = 0x18 → fld w 8 4 < 5 → r.loops = [] → (r.task.len : Int) ≤ (r.pc : Int) + sext (fld w 32 32) 32 →
        faults (.br p) 0x0524) ∧
      (opc w = 0x1C → 14 ≤ fld w 8 4 → faults (.twait p) 0x0521) ∧
      (opc w = 0x20 → 14 ≤ fld w 8 4 → faults (.tsig p .dispatch) 0x0521) ∧
      (opc w = 0x28 → (14 ≤ fld w 8 4 ∨ fld w 12 2 = 3) → faults (.mark p .dispatch) 0x0521) ∧
      (opc w = 0x34 → 64 < fld w 8 6 + fld w 14 6 + 1 → faults (.ldd p) 0x0526))

/-- TWAIT, TSIG and MARK whose QSEL names a queue with room stand in that queue after their dispatch, and a full queue
counts a stalled cycle; TWAIT in FE holds dispatch, and TSIG in FE takes effect at once (R112, R135, R143). At the head
of its queue a TSIG adds INC to its counter, or sends it to another pier with the sender's tag; a TWAIT whose wait is
satisfied leaves its queue, or lets dispatch go on; a MARK gives its record by its KIND: at once, at the next
pass-start, or with the stamp of the last pass-end. TWAIT and MARK complete at once where no earlier pass or transfer of
the queue is in flight (R134, R135, R137, R138, R144). LDD stops dispatch, and the arrival of its bytes makes its
descriptors valid and lets dispatch go on (R126, R142). -/
def Obligations.QueuedControl : Prop :=
  (
    ∀ (p : Pier) (s u : State) (r : RunTask) (w : Nat), s.atInstr p r w 0 u → onlyFields w (ctlFields (opc w)) = true →
      let x := u.pier p
      let q := fld w 8 4
      let queued (c : Instr) : Prop :=
        (x.queue q).length < queueCap q →
          ∃ t, exec c s = .next t ∧ u.pierOnly t p [] ∧ (t.pier p).run = some (r.advance 1) ∧
            (t.pier p).queue q = x.queue q ++ [entryOf r w 0] ∧ (∀ k, k ≠ q → (t.pier p).queue k = x.queue k)
      let stalled (c : Instr) : Prop :=
        queueCap q ≤ (x.queue q).length →
          ∃ t, exec c s = .next t ∧ (t.reg (psqOff p + 0x50)).toNat = min ((u.reg (psqOff p + 0x50)).toNat + 1) 0xFFFFFFFF ∧
            u.regsOnly t [psqOff p + 0x50]
      (opc w = 0x1C → q < 13 → queued (.twait p) ∧ stalled (.twait p)) ∧
      (opc w = 0x20 → q < 13 → queued (.tsig p .dispatch) ∧ stalled (.tsig p .dispatch)) ∧
      (opc w = 0x28 → q < 13 → (fld w 12 2 = 0 ∨ (q < 8 ∧ fld w 12 2 < 3)) →
        queued (.mark p .dispatch) ∧ stalled (.mark p .dispatch)) ∧
      (opc w = 0x1C → q = 13 → ∃ t, exec (.twait p) s = .next t ∧ u.pierOnly t p [] ∧
        t.pier p = { x with run := some (r.advance 1), hold := some (.twait (fld w 12 6) (fld w 32 32) r.pc) }) ∧
      (opc w = 0x20 → q = 13 → bit w 22 = false → ∃ t, exec (.tsig p .dispatch) s = .next t ∧ u.feOnly t p ∧
        (∀ c, t.tc p c = if c = fld w 12 6 then wrap ((u.tc p c : Int) + sext (fld w 32 16) 16) 32 else u.tc p c) ∧
        ({ t.pier p with tcs := x.tcs } : PierState) = { x with run := some (r.advance 1) })
  ) ∧ (
    (∀ (p : Pier) (q : QSel) (s : State) (e : Entry), s.atHead p q 0x20 e → (s.pier p).queueIdle q = true →
      let w := e.w0.toNat
      ∃ t, exec (.tsig p (.run q)) s = .next t ∧ s.progressed t p 1 ∧
        (t.pier p).queue q = ((s.pier p).queue q).drop 1 ∧
        (bit w 22 = false → t.tallies = s.tallies ∧
          ∀ c, t.tc p c = if c = fld w 12 6 then wrap ((s.tc p c : Int) + sext (fld w 32 16) 16) 32 else s.tc p c) ∧
        (bit w 22 = true → (∀ c, t.tc p c = s.tc p c) ∧
          t.tallies = s.tallies ++ [{ src := p, dst := fld w 18 4, tag := (s.pier p).tag, tc := fld w 12 6,
                                      inc := sext (fld w 32 16) 16 }])) ∧
    (∀ (p : Pier) (q : QSel) (s : State) (e : Entry), s.atHead p q 0x1C e →
      tcHolds (s.tc p (fld e.w0.toNat 12 6)) (fld e.w0.toNat 32 32) = true →
      ∃ t, exec (.twaitRelease p ⟨q.val, by omega⟩) s = .next t ∧
        (t.pier p).queue q = ((s.pier p).queue q).drop 1 ∧ (t.pier p).tcs = (s.pier p).tcs ∧
        ((s.pier p).queueIdle q = true → s.progressed t p 1 ∧ s.pierStamped t p [psqOff p + 0x58, psqOff p + 0x5C]) ∧
        ((s.pier p).queueIdle q = false → s.pierOnly t p [] ∧ (t.pier p).started = (s.pier p).started)) ∧
    (∀ (p : Pier) (s : State) (tc v word : Nat), (s.pier p).hold = some (.twait tc v word) → tcHolds (s.tc p tc) v = true →
      ∃ t, exec (.twaitRelease p 13) s = .next t ∧ s.feOnly t p ∧ t.pier p = { s.pier p with hold := none }) ∧
    (∀ (p : Pier) (q : QSel) (s : State) (e : Entry), s.atHead p q 0x28 e →
      let kind := fld e.w0.toNat 12 2
      let x := (s.pier p).arrays.get Array8.reset q
      let passed (t : State) : Prop := (t.pier p).queue q = ((s.pier p).queue q).drop 1 ∧ t.mem = s.mem ∧
        ((s.pier p).queueIdle q = true → s.progressed t p 1) ∧ ((s.pier p).queueIdle q = false → t.regs = s.regs)
      let recorded (stamp : Nat → Prop) : Prop := ∃ t rec, exec (.mark p (.run q)) s = .next t ∧ passed t ∧
        t.ks.records = s.ks.records ++ [rec] ∧ rec.code = 0x0510 ∧ rec.error = false ∧ rec.tag = some (s.pier p).tag ∧
        leAt rec.detail 0 2 = fld e.w0.toNat 16 16 ∧ leAt rec.detail 2 4 = fld e.w0.toNat 32 32 ∧ stamp rec.stamp
      (kind = 0 → recorded fun _ => True) ∧
      (kind = 1 → ∃ t, exec (.mark p (.run q)) s = .next t ∧ passed t ∧ t.ks = s.ks ∧
        ((t.pier p).arrays.get Array8.reset q).marks = x.marks ++ [s.markOf p e.ser e.w0.toNat]) ∧
      (kind = 2 → x.lastSer = some e.ser → (x.passes.any fun y => y.phase = .entering) = true →
        exec (.mark p (.run q)) s = .next s) ∧
      (kind = 2 → x.lastSer = some e.ser → (x.passes.any fun y => y.phase = .entering) = false →
        (∀ n stamp, x.lastEnd = some (n, stamp) → recorded (· = stamp)) ∧ (x.lastEnd = none → recorded fun _ => True)) ∧
      (kind = 2 → x.lastSer ≠ some e.ser → recorded fun _ => True))
  ) ∧ (
    (∀ (p : Pier) (s u : State) (r : RunTask) (w : Nat), s.atInstr p r w 0 u → onlyFields w (ctlFields 0x34) = true →
      opc w = 0x34 → fld w 8 6 + fld w 14 6 < 64 →
      ∃ t, exec (.ldd p) s = .next t ∧ u.pierOnly t p [] ∧
        t.pier p = { u.pier p with
          run := some (r.advance 1),
          hold := some (.ldd (fld w 8 6) (fld w 14 6 + 1) ((u.pier p).addr (fld w 24 24)) r.pc) }) ∧
    (∀ (p : Pier) (s u : State) (r : RunTask) (first count a word : Nat) (d : List Byte),
      (s.pier p).hold = some (.ldd first count a word) → (s.pier p).run = some r →
      s.readVa (some (p.val, r.task.id)) (s.pier p).tag reachMemory 0x052B a (32 * count) = (.ok d, u) → d.length = 32 * count →
      ∃ t, exec (.lddDescriptorsArrive p) s = .next t ∧ u.feOnly t p ∧ (t.pier p).hold = none ∧
        (∀ i, i < count → (t.pier p).descs.get none (first + i) = some (BitVec.ofNat 256 (leAt d (32 * i) 32))) ∧
        (∀ i, (i < first ∨ first + count ≤ i) → (t.pier p).descs.get none i = (u.pier p).descs.get none i))
  )

/-- A wait for VALUE is satisfied exactly when (TC − VALUE) modulo 2^32 is below 2^31. A pier has a counter of 32 bits for
each of 64 numbers: a write sets the one it names, and an increment is added to it modulo 2^32 (R134). -/
def Obligations.TallyWait : Prop :=
  (∀ tc value : BitVec 32, tcHolds tc.toNat value.toNat = true ↔ (tc - value).toNat < 2 ^ 31) ∧
  (∀ (p : Pier) (k j : Tc) (v : Word32) (s : State), ∃ t, exec (.psqTcnWrite p k v) s = .next t ∧
    t.tc p j = if j = k then v.toNat else s.tc p j) ∧
  (∀ (p : Pier) (k j : Tc) (inc : Int) (s : State),
    ((s.tcAdd p k inc).tc p j : Int) = if j = k then ((s.tc p k : Int) + inc) % (2 ^ 32 : Int) else (s.tc p j : Int))

/-! ## Tasks and the sequencer's control register -/

/-- A write of PSQ_TASKD3 queues the task that PSQ_TASKD0 to PSQ_TASKD2 describe, behind those that wait; with eight
waiting it is dropped and PSQ_STATUS.SUB_DROP is set (R114, R165). The oldest queued task starts when the sequencer is
armed, not halted, and no task dispatches; one whose descriptor breaks R115 faults with 0x0529 before a word of it is
fetched (R115, R116, R160, R162). A task whose END has been dispatched and whose instructions have completed is
reported, oldest first, with its TASK_ID, status, END_CODE and the stamp of its completion (R116). The keystone runs no
fence sequence and no restart here. -/
def Obligations.TaskLife : Prop :=
  (
    ∀ (p : Pier) (len : Word32) (s : State),
      let x := s.pier p
      (x.taskQueue.length < 8 → ∃ t, exec (.taskSubmission p len) s = .next t ∧ s.pierOnly t p [] ∧
        t.pier p = { x with
          nextSer := x.nextSer + 1,
          taskQueue := x.taskQueue ++ [{ ser := x.nextSer, id := (s.reg (psqOff p + 0x20)).toNat % 2 ^ 16,
                                         start := s.reg64 (psqOff p + 0x24), len := len.toNat % 2 ^ 17 }] }) ∧
      (8 ≤ x.taskQueue.length → ∃ t, exec (.taskSubmission p len) s = .next t ∧ s.regsOnly t [psqOff p + 4] ∧
        (t.reg (psqOff p + 4)).getLsbD 7 = true)
  ) ∧ (
    ∀ (p : Pier) (s : State) (k : Task) (rest : List Task),
      (s.pier p).taskQueue = k :: rest → (s.pier p).run = none → (s.reg (psqOff p)).getLsbD 0 = true →
      (s.reg (psqOff p)).getLsbD 1 = false → ((s.pier p).seq = .idle ∨ (s.pier p).seq = .running) →
      (1 ≤ k.len → k.len ≤ 65536 → k.start % 16 = 0 → ∃ t, exec (.taskStart p) s = .next t ∧ s.pierOnly t p [] ∧
        t.pier p = { s.pier p with
          taskQueue := rest, seq := .running, run := some { task := k, pc := 0, loops := [] }, fetchBuf := [],
          started := (s.pier p).started ++
            [{ ser := k.ser, id := k.id, left := 0, ended := false, endCode := 0, status := none, stamp := none }] }) ∧
      ((k.len = 0 ∨ 65536 < k.len ∨ k.start % 16 ≠ 0) → (s.pier p).fault = none →
        ∃ t f, exec (.taskStart p) s = .next t ∧ (t.pier p).seq = .faulting ∧ (t.pier p).run = none ∧
          (t.pier p).fault = some f ∧ f.code = 0x0529 ∧ f.id = k.id ∧ t.mem = s.mem)
  ) ∧ (
    ∀ (p : Pier) (s : State) (k : StartedTask) (rest : List StartedTask),
      (s.pier p).started = k :: rest → k.ended = true → k.left = 0 → (∀ f ∈ (s.pier p).fault, k.ser < f.ser) →
      s.ks.fence = none → s.ks.fences = [] → s.ks.restarting = false →
      ∃ t rep, exec (.taskCompletion p) s = .next t ∧ (t.pier p).started = rest ∧
        (t.pier p).reports = (s.pier p).reports ++ [rep] ∧ rep.ser = k.ser ∧ rep.id = k.id ∧
        rep.status = k.status.getD 0 ∧ rep.endCode = k.endCode ∧ (∀ v, k.stamp = some v → rep.stamp = v) ∧ t.mem = s.mem
  )

/-- When every started instruction has completed, a FAULTING sequencer reports the tasks from the faulting one on, writes
the fault registers, raises the error record with its tag and becomes FAULTED; as long as one has not, or without a fault,
it reports nothing. What a fence sequence or a restart of the keystone that waits for the pier does then follows (R158
steps 4 and 5, R447, R476). -/
def Obligations.FaultTaken : Prop :=
  ∀ (p : Pier) (s : State),
    let faulted (f : SeqFault) (v : State) : Prop :=
      (v.pier p).seq = .faulted ∧ (v.pier p).started = [] ∧ (v.pier p).taskQueue = [] ∧ (v.pier p).run = none ∧
      (v.pier p).fault = none ∧ v.mem = s.mem ∧
      (v.pier p).reports.map (fun r => (r.ser, r.id)) = (s.pier p).reports.map (fun r => (r.ser, r.id)) ++
        ((s.pier p).started.map (fun k => (k.ser, k.id)) ++ (s.pier p).taskQueue.map fun k => (k.ser, k.id)) ∧
      ((∀ b ∈ f.bits, b.1 ≠ psqOff p + 0xC ∧ b.1 ≠ psqOff p + 0x10 ∧ b.1 ≠ psqOff p + 0x14) →
        v.reg (psqOff p + 0xC) = BitVec.ofNat 32 (f.code + f.qsel * 2 ^ 16) ∧
        v.reg (psqOff p + 0x10) = BitVec.ofNat 32 f.id ∧ v.reg (psqOff p + 0x14) = BitVec.ofNat 32 f.word) ∧
      ∃ rec ∈ v.ks.records, rec.code = f.code ∧ rec.error = true ∧ rec.tag = some (s.pier p).tag
    (∀ f, (s.pier p).seq = .faulting → (s.pier p).fault = some f →
      (∀ k ∈ (s.pier p).started, k.left = 0 ∧ f.ser ≤ k.ser) →
      (∃ v, exec (.faultedEntry p) s = .next v.fencePoll.restartPoll ∧ faulted f v) ∧
      (s.ks.fence = none → s.ks.fences = [] → s.ks.restarting = false →
        ∃ t, exec (.faultedEntry p) s = .next t ∧ faulted f t)) ∧
    ((s.pier p).seq ≠ .faulting ∨ (s.pier p).fault = none →
      exec (.faultedEntry p) s = .next s.fencePoll.restartPoll) ∧
    (∀ f, (s.pier p).seq = .faulting → (s.pier p).fault = some f → (∃ k ∈ (s.pier p).started, k.left ≠ 0 ∨ k.ser < f.ser) →
      exec (.faultedEntry p) s = .next s.fencePoll.restartPoll)

/-- ARM and HALT are written bit by bit; HALT stops dispatch and ends in HALTED once every queue is empty; CLR_FAULT
leads from FAULTED to IDLE; CNT_CLR clears the counters at 0x038 to 0x054 (R159, R160, R162). MAR_CTRL: EN and HALT are
written bit by bit; CNT_CLR clears the counters at 0x20 to 0x48 and neither MAR_PASS_CNT nor MAR_ROW_CNT (R68).
VEC_CTRL.CNT_CLR clears the counters at 0x18 to 0x38 (R199), and a gauge check empties the buffer: a sample without a
mismatch counts nothing, one with a mismatch counts in PSQ_GAUGE_MISS and raises 0x0240 (R156, R227). CNT_CLR of a base
die, a link, the span-time block and a reshard engine clears the block's counters and nothing else, and SCRUB_EN and
RSH_CTRL.EN write one bit (R288, R346, R349, R384). -/
def Obligations.ControlAndCounters : Prop :=
  (
    ∀ (p : Pier) (s : State) (v : Bool),
      (∃ t, exec (.psqCtrlArm p v) s = .next t ∧ s.regsOnly t [psqOff p] ∧ (t.reg (psqOff p)).getLsbD 0 = v ∧
        ∀ i, i ≠ 0 → (t.reg (psqOff p)).getLsbD i = (s.reg (psqOff p)).getLsbD i) ∧
      (∃ t, exec (.psqCtrlHalt p v) s = .next t ∧ s.pierOnly t p [psqOff p] ∧ (t.reg (psqOff p)).getLsbD 1 = v ∧
        (∀ i, i ≠ 1 → (t.reg (psqOff p)).getLsbD i = (s.reg (psqOff p)).getLsbD i) ∧
        ((s.pier p).seq = .idle → (t.pier p).seq = if v then .halted else .idle) ∧
        ((s.pier p).seq = .running → (t.pier p).seq = if v then .halting else .running) ∧
        ({ t.pier p with seq := (s.pier p).seq } : PierState) = s.pier p) ∧
      ((s.pier p).seq = .halting → (s.pier p).hold = none → (∀ q ∈ (s.pier p).queues, q.2 = []) →
        ∃ t, exec (.haltComplete p) s = .next t ∧ s.pierOnly t p [] ∧ t.pier p = { s.pier p with seq := .halted }) ∧
      ((s.pier p).seq = .faulted → ∃ t, exec (.psqCtrlClrFault p) s = .next t ∧ s.pierOnly t p [] ∧
        t.pier p = { s.pier p with seq := .idle }) ∧
      (∃ t, exec (.psqCtrlCntClr p) s = .next t ∧ (∀ i, i < 8 → t.reg (psqOff p + 0x38 + 4 * i) = 0) ∧
        (∀ o, (o < psqOff p + 0x38 ∨ psqOff p + 0x58 ≤ o) → t.reg o = s.reg o) ∧
        ({ t with regs := s.regs } : State) = s)
  ) ∧ (
    ∀ (p : Pier) (a : Arr) (v : Bool) (s : State),
      (∃ t, exec (.marCtrlEn p a v) s = .next t ∧ s.regsOnly t [marOff p a] ∧ (t.reg (marOff p a)).getLsbD 0 = v ∧
        ∀ i, i ≠ 0 → (t.reg (marOff p a)).getLsbD i = (s.reg (marOff p a)).getLsbD i) ∧
      (∃ t, exec (.marCtrlHalt p a v) s = .next t ∧ s.regsOnly t [marOff p a] ∧ (t.reg (marOff p a)).getLsbD 1 = v ∧
        ∀ i, i ≠ 1 → (t.reg (marOff p a)).getLsbD i = (s.reg (marOff p a)).getLsbD i) ∧
      (∃ t, exec (.marCtrlCntClr p a) s = .next t ∧ (∀ i, i < 11 → t.reg (marOff p a + 0x20 + 4 * i) = 0) ∧
        (∀ o, (o < marOff p a + 0x20 ∨ marOff p a + 0x4C ≤ o) → t.reg o = s.reg o) ∧
        ({ t with regs := s.regs } : State) = s)
  ) ∧ (
    ∀ (p : Pier) (s : State),
      (∃ t, exec (.vecCtrlCntClr p) s = .next t ∧ (∀ i, i < 9 → t.reg (vecOff p + 0x18 + 4 * i) = 0) ∧
        (∀ o, (o < vecOff p + 0x18 ∨ vecOff p + 0x3C ≤ o) → t.reg o = s.reg o) ∧
        ({ t with regs := s.regs } : State) = s) ∧
      (∀ g, (s.pier p).gaugeBuf = some g → g.full = true →
        let bad := ((List.range g.products.length).map g.column).filter fun c => c.miss
        (bad = [] → ∃ t, exec (.gaugeCheck p) s = .next t ∧ (t.pier p).gaugeBuf = none ∧
          t.reg (psqOff p + 0x3C) = s.reg (psqOff p + 0x3C)) ∧
        (bad ≠ [] → ∃ t, exec (.gaugeCheck p) s = .next t ∧ (t.pier p).gaugeBuf = none ∧
          (t.reg (psqOff p + 0x3C)).toNat = min ((s.reg (psqOff p + 0x3C)).toNat + 1) 0xFFFFFFFF ∧
          ∃ rec ∈ t.ks.records, rec.code = 0x0240 ∧ rec.error = false ∧ rec.tag = some g.tag)) ∧
      ((∀ g, (s.pier p).gaugeBuf = some g → g.full = false) → exec (.gaugeCheck p) s = .next s)
  ) ∧ (
    ∀ s : State,
      let clears (c : Instr) (o n : Nat) : Prop := ∃ t, exec c s = .next t ∧ (∀ i, i < n → t.reg (o + 4 * i) = 0) ∧
        (∀ k, (k < o ∨ o + 4 * n ≤ k) → t.reg k = s.reg k) ∧ ({ t with regs := s.regs } : State) = s
      let bit0 (c : Instr) (o : Nat) (v : Bool) : Prop := ∃ t, exec c s = .next t ∧ s.regsOnly t [o] ∧
        (t.reg o).toNat = (s.reg o).toNat / 2 * 2 + v.toNat
      (∀ n : Stk, clears (.dmcCtrlCntClr n) (dmcOff n + 0x38) 10) ∧
      (∀ l : Lnk, clears (.zlCtrlCntClr l) (zlOff l + 0x28) 5) ∧
      clears .tsCtrlCntClr (tsOff + 0x2C) 1 ∧
      (∀ k : Die, clears (.rshCtrlCntClr k) (rshOff k + 0x38) 10) ∧
      (∀ (n : Stk) (v : Bool), bit0 (.dmcCtrlScrubEn n v) (dmcOff n) v) ∧
      (∀ (k : Die) (v : Bool), bit0 (.rshCtrlEn k v) (rshOff k) v)
  )

/-- ABORT ends every task that has not been reported with 0x052A and none with 0x0528; without a task it has no effect
(R160). -/
def Obligations.AbortTasks : Prop :=
  ∀ (p : Pier) (s : State),
    ((s.pier p).started = [] → (s.pier p).taskQueue = [] → exec (.psqCtrlAbort p) s = .next s) ∧
    ((s.pier p).seq = .running → (s.pier p).fault = none → (∀ k ∈ (s.pier p).started, k.status = none) →
      (s.pier p).started ++ (s.pier p).taskQueue.map (endedTask 0) ≠ [] →
      (s.pier p).started.Pairwise (fun a b => a.ser < b.ser) →
      ∃ t f, exec (.psqCtrlAbort p) s = .next t ∧ s.pierOnly t p [] ∧ (t.pier p).seq = .faulting ∧
        (t.pier p).run = none ∧ (t.pier p).taskQueue = [] ∧ (t.pier p).fault = some f ∧ f.code = 0x052A ∧
        (t.pier p).started.map (fun k => k.id) =
          (s.pier p).started.map (fun k => k.id) ++ (s.pier p).taskQueue.map (fun k => k.id) ∧
        ∀ k ∈ (t.pier p).started, k.status = some 0x052A)

/-- A write of PSQ_CTX.TAG in IDLE with an empty task queue zeroes base registers, index counters, layer tag, tally
counters, vector registers and accumulator stores, makes every descriptor invalid and starts the zeroing of arrays and
vector engine; at any other time it is ignored (R42, R121, R164, R173). The ends of the two zeroings clear their bits. A
keystone write sets a counter; an increment from the package network is applied when its tag is the pier's own, and is
otherwise dropped and counted in PSQ_TC_DROP; one that crosses an abutment die which fences its tag is dropped there and
counted (R21, R136, R137, R168, R329). -/
def Obligations.ContextTagAndTallies : Prop :=
  (
    ∀ (p : Pier) (tag : Tag) (s : State),
      ((s.pier p).seq = .idle → (s.pier p).taskQueue = [] → ∃ t, exec (.psqCtxTag p tag) s = .next t ∧
        s.pierOnly t p [] ∧ (t.pier p).tag = tag.toNat ∧ (∀ b, (t.pier p).base b = 0) ∧ (∀ c, t.tc p c = 0) ∧
        (∀ i, (t.pier p).descs.get none i = none) ∧ (∀ a, (t.pier p).xc.get 0 a = 0) ∧ (t.pier p).layer = 0 ∧
        (∀ i, (t.pier p).vregs.get 0 i = 0) ∧ (t.pier p).vecZeroing = true ∧
        ∀ a : Arr, ((t.pier p).array a).acc = [] ∧ ((t.pier p).array a).zeroing = true ∧
          ((t.pier p).array a).passes = ((s.pier p).array a).passes) ∧
      (((s.pier p).seq ≠ .idle ∨ (s.pier p).taskQueue ≠ []) → exec (.psqCtxTag p tag) s = .next s) ∧
      (∀ a : Arr, ∃ t, exec (.accZeroingDone p a) s = .next t ∧ s.pierOnly t p [] ∧
        ((t.pier p).array a).zeroing = false ∧ (∀ b, b ≠ a.val → (t.pier p).array b = (s.pier p).array b)) ∧
      (∃ t, exec (.vectorZeroingDone p) s = .next t ∧ s.pierOnly t p [] ∧ t.pier p = { s.pier p with vecZeroing := false })
  ) ∧ (
    (∀ (p : Pier) (c : Tc) (v : Word32) (s : State), ∃ t, exec (.psqTcnWrite p c v) s = .next t ∧ s.pierOnly t p [] ∧
      (∀ i, t.tc p i = if i = c.val then v.toNat else s.tc p i) ∧
        ({ t.pier p with tcs := (s.pier p).tcs } : PierState) = s.pier p) ∧
    (∀ (p : Pier) (src : Fin 36) (s : State) (k : Tally),
      s.tallies.find? (fun k => k.src = src.val ∧ k.dst = p.val) = some k →
      ∃ t, exec (.tallyIncrementReceived p src) s = .next t ∧ t.tallies = s.tallies.erase k ∧ t.mem = s.mem ∧
        ((∀ d, k.cross = some d → (s.die d).fenced ≠ some k.tag) →
          (k.tag = (s.pier p).tag → t.regs = s.regs ∧
            ∀ i, t.tc p i = if i = k.tc then wrap ((s.tc p i : Int) + k.inc) 32 else s.tc p i) ∧
          (k.tag ≠ (s.pier p).tag → t.piers = s.piers ∧
            (t.reg (psqOff p + 0x54)).toNat = min ((s.reg (psqOff p + 0x54)).toNat + 1) 0xFFFFFFFF)) ∧
        (∀ d, k.cross = some d → (s.die d).fenced = some k.tag → t.piers = s.piers ∧
          (t.reg (swOff d + 0x28)).toNat = min ((s.reg (swOff d + 0x28)).toNat + 1) 0xFFFFFFFF))
  )

/-! ## Matrix arrays -/

/-- A PASS that passes the checks of R554 stands in its array's queue with its operands resolved and its drain
descriptor copied, and XC grows by 256 * M when it drains; a full queue counts a stalled cycle; the first failing check
gives the status of its task (R112, R120, R125, R126, R128, R143, R154, R155, R455, R554). The order of a pass's dispatch
checks: each row of R554's table is reported when it fails and no row before it does (R36, R40, R83, R554). -/
def Obligations.PassDispatch : Prop :=
  (
    ∀ (p : Pier) (s u : State) (r : RunTask) (w0 w1 : Nat), s.atInstr p r w0 w1 u → opc w0 = 0x40 →
      let x := u.pier p
      let e := entryOf r w0 w1
      let a := e.passArray
      let d := x.descs.get none (fld w1 2 6)
      (bit x.arrOn (a / 2) = true → e.passCheck (d.map fun b => b.toNat) = none →
        ((x.queue a).length < 16 →
          ∃ t e', exec (.pass p) s = .next t ∧ u.pierOnly t p [] ∧ (t.pier p).queue a = x.queue a ++ [e'] ∧
            (∀ q, q ≠ a → (t.pier p).queue q = x.queue q) ∧ (t.pier p).run = some (r.advance 2) ∧ (t.pier p).tcs = x.tcs ∧
            (∀ k, (t.pier p).xc.get 0 k = if k = a ∧ e.drainOut = true
              then (x.xc.get 0 k + 256 * e.mRows) % 2 ^ 32 else x.xc.get 0 k) ∧
            (∀ k, ({ (t.pier p).array k with nextNo := (x.array k).nextNo } : Array8) = x.array k) ∧
            e'.w0 = e.w0 ∧ e'.w1 = e.w1 ∧ e'.ser = r.task.ser ∧ e'.word = r.pc ∧ e'.desc = d.getD 0 ∧ e'.layer = x.layer ∧
            e'.addrs = [x.addr (fld w0 84 24), x.addr (fld w1 8 24), x.addrBytes (fld w1 32 24), x.addr (fld w1 56 24),
              x.addr (fld w1 80 24), x.addr (fld w1 104 24)] ∧
            e'.aux = (ddIndex (d.getD 0).toNat + x.xc.get 0 a) % 2 ^ 32 ∧
            e'.sampled = (u.gaugePick p e).1 ∧ (t.pier p).gaugeCount = (u.gaugePick p e).2 ∧
            (e'.sampled = true → e'.sampleRow = (u.reg (psqOff p + 0x38)).toNat % e.mRows)) ∧
        (16 ≤ (x.queue a).length → ∃ t, exec (.pass p) s = .next t ∧ u.regsOnly t [psqOff p + 0x50] ∧
          (t.reg (psqOff p + 0x50)).toNat = min ((u.reg (psqOff p + 0x50)).toNat + 1) 0xFFFFFFFF)) ∧
      (∀ c, bit x.arrOn (a / 2) = true → e.passCheck (d.map fun b => b.toNat) = some c → x.fault = none →
        ∃ t f, exec (.pass p) s = .next t ∧ (t.pier p).seq = .faulting ∧ (t.pier p).fault = some f ∧ f.code = c ∧
          f.ser = r.task.ser ∧ f.word = r.pc ∧ f.qsel = 13 ∧ (t.pier p).xc = x.xc ∧ t.mem = u.mem) ∧
      (bit x.arrOn (a / 2) = false → x.fault = none →
        ∃ t f, exec (.pass p) s = .next t ∧ (t.pier p).seq = .faulting ∧ (t.pier p).fault = some f ∧ f.code = 0x0104)
  ) ∧ (
    ∀ (e : Entry) (d : Option Nat),
      ((e.accMode = 3 ∨ e.statSrc = 3 ∨ e.gauge = 3) → e.passCheck d = some 0x0521) ∧
      (¬(e.accMode = 3 ∨ e.statSrc = 3 ∨ e.gauge = 3) →
        (e.drainOut = true → d = none → e.passCheck d = some 0x0527) ∧
        ((e.drainOut = true → d ≠ none) →
          (passClass e.statFmt e.strmFmt = none → e.passCheck d = some 0x0221) ∧
          (passClass e.statFmt e.strmFmt ≠ none →
            ((scaleCheck e.statSdesc e.statFmt ≠ none ∨ scaleCheck e.strmSdesc e.strmFmt ≠ none) →
              e.passCheck d = some 0x0226) ∧
            (scaleCheck e.statSdesc e.statFmt = none → scaleCheck e.strmSdesc e.strmFmt = none →
              ((e.accMode = 0 ∧ e.drainOut = false) ∨
                (e.accMode ≠ 0 ∧ (if e.cls = 4 then 2048 else 4096) < e.accBase + e.mRows) →
                e.passCheck d = some 0x0222) ∧
              (e.drainOut = false → e.accMode ≠ 0 →
                e.accBase + e.mRows ≤ (if e.cls = 4 then 2048 else 4096) → e.passCheck d = none))))) ∧
      (e.passCheck d = none ↔ e.passGood d)
  ) ∧ (
    ∀ (p : Pier) (s u : State) (r : RunTask) (w0 w1 : Nat), s.atInstr p r w0 w1 u → opc w0 = 0x40 →
      let x := u.pier p
      let e := entryOf r w0 w1
      bit x.arrOn (e.passArray / 2) = true → (x.queue e.passArray).length < 16 →
      e.passGood ((x.descs.get none (fld w1 2 6)).map fun b => b.toNat) →
      ∃ t e', exec (.pass p) s = .next t ∧ u.pierOnly t p [] ∧ (t.pier p).queue e.passArray = x.queue e.passArray ++ [e'] ∧
        e'.w0 = e.w0 ∧ e'.w1 = e.w1 ∧ e'.ser = r.task.ser ∧ (t.pier p).run = some (r.advance 2)
  )

/-- The classes of R36: a format pair is in a class exactly as the table says, in either order, with the class's rows and
array cycles per slot, its rate and its accumulator; a PASS of any other pair faults with 0x0221 before admission. -/
def Obligations.PassClasses : Prop :=
  (∀ a b : Fin 16, passClass a b = passClass b a ∧
    (passClass a b = some (0, false) ↔ a ≤ 2 ∧ b ≤ 2) ∧
    (passClass a b = some (0, true) ↔ a = 9 ∧ b = 9) ∧
    (passClass a b = some (1, false) ↔ a ≤ 4 ∧ b ≤ 4 ∧ (3 ≤ a ∨ 3 ≤ b)) ∧
    (passClass a b = some (1, true) ↔ (a = 10 ∧ b = 10) ∨ (a = 10 ∧ b = 9) ∨ (a = 9 ∧ b = 10)) ∧
    (passClass a b = some (2, false) ↔ (a = 5 ∨ a = 6) ∧ (b = 5 ∨ b = 6)) ∧
    (passClass a b = some (3, false) ↔ a = 7 ∧ b = 7) ∧ (passClass a b = some (4, false) ↔ a = 8 ∧ b = 8) ∧
    (passClass a b = none ∨ ∃ c, c ≤ 4 ∧ (passClass a b = some (c, false) ∨ passClass a b = some (c, true)))) ∧
  ([0, 1, 2, 3, 4].map rowsPerSlot = [2, 1, 1, 1, 1] ∧ [0, 1, 2, 3, 4].map cyclesPerSlot = [1, 1, 2, 8, 32] ∧
    (∀ c : Fin 5, accFmt c false = if c = 4 then 8 else 7) ∧ (∀ c, accFmt c true = 11)) ∧
  (∀ (p : Pier) (s u : State) (r : RunTask) (w0 w1 : Nat), s.atInstr p r w0 w1 u → opc w0 = 0x40 →
    let x := u.pier p
    let e := entryOf r w0 w1
    bit x.arrOn (e.passArray / 2) = true → x.fault = none → e.accMode ≠ 3 → e.statSrc ≠ 3 → e.gauge ≠ 3 →
    (e.drainOut = true → x.descs.get none (fld w1 2 6) ≠ none) → passClass e.statFmt e.strmFmt = none →
    ∃ t f, exec (.pass p) s = .next t ∧ (t.pier p).seq = .faulting ∧ (t.pier p).fault = some f ∧ f.code = 0x0221 ∧
      (∀ a, (t.pier p).array a = x.array a))

/-- The head of an array queue is admitted in the first array cycle in which R48 and R45 let it: it leaves the queue,
stands last in the array, and MAR_CTX names its tag; where they do not, the command changes nothing beyond the array
steps before it. Where R45 or condition 2 of R48 holds a pass back MAR_GAP_SHORT counts the cycle, where an overlapping
drain-out awaits retirement MAR_GAP_ACC does, and a repeat that keeps the array shut counts in PSQ_REISSUE_CYC (R42,
R44, R45, R48, R50, R64, R68, R71, R151). That MAR_GAP_SHORT alone counts where both hold, and that row times are
counted in array cycles, are the model's choices (log entry 119). -/
def Obligations.PassAdmission : Prop :=
  (∀ (p : Pier) (a : Arr) (steps : List ArrayStep) (s : State),
    let v := s.arrayRun p a steps
    let x := (v.pier p).array a
    (∀ e, v.canAdmit p a = some e → ∃ t y, exec (.passAdmission p a steps) s = .next t ∧
      ((t.pier p).array a).passes = x.passes ++ [y] ∧ y.entry = e ∧ y.phase = .entering ∧ y.age = 0 ∧ y.entered = 0 ∧
      y.attempts = 0 ∧ y.dead = false ∧ (t.pier p).queue a = ((v.pier p).queue a).drop 1 ∧
      (∀ q, q ≠ a.val → (t.pier p).queue q = (v.pier p).queue q) ∧
      t.reg (marOff p a + 0xC) = BitVec.ofNat 32 (v.pier p).tag ∧ ((t.pier p).array a).acc = x.acc ∧
      ((t.pier p).array a).marks = [] ∧ (t.pier p).tcs = (v.pier p).tcs ∧ t.mem = v.mem ∧
      v.regsBut t [marOff p a + 0xC, psqOff p + 0x40]) ∧
    (v.canAdmit p a = none → exec (.passAdmission p a steps) s = .next v)) ∧
  (∀ (p : Pier) (a : Arr) (s : State) (e : Entry),
    let x := (s.pier p).array a
    let cap := if e.cls = 0 then 7 else 4
    let slotFree := ∀ y, x.lastIn = some y →
      y.phase ≠ .entering ∧ (y.dead = true ∨ y.entry.slots ≤ y.front) ∧ y.age % cyclesPerSlot y.entry.cls = 0
    let early := ∃ y, x.lastIn = some y ∧ 2 * y.age < 192 * halfRowTime e.cls
    let overlap := ∃ y ∈ x.passes, y.entry.drainOut = true ∧ y.phase ≠ .retired ∧ y.dead = false ∧ y.entry.overlaps e = true
    s.atHead p a 0x40 e → s.arrayShut p a = false → slotFree →
    (x.inCore.length < cap → ¬early → ¬overlap → (0 < x.launched e.no → s.canAdmit p a = some e) ∧
      (x.launched e.no = 0 → s.canAdmit p a = none)) ∧
    (cap ≤ x.inCore.length ∨ early → s.canAdmit p a = none ∧ s.countHold p a = s.bump (marOff p a + 0x30) 1) ∧
    (x.inCore.length < cap → ¬early → overlap → s.canAdmit p a = none ∧ s.countHold p a = s.bump (marOff p a + 0x34) 1)) ∧
  (∀ (p : Pier) (a : Arr) (s : State) (y : PassRun), y ∈ ((s.pier p).array a).passes → y.phase = .repeatDue →
    s.canAdmit p a = none ∧ s.countHold p a = s.bump (psqOff p + 0x48) 1) ∧
  (∀ (p : Pier) (a : Arr) (s : State), (s.reg (marOff p a)).getLsbD 0 = false ∨ (s.reg (marOff p a)).getLsbD 1 = true ∨
    ((s.pier p).array a).zeroing = true → s.canAdmit p a = none)

/-- The pass-end marker is due once every row of the entering pass has left the input joint, and marks the pass ended with
its stamp; MAR_ROW_CNT counts each row as it enters. A retired pass whose rows have left the drain joint completes in the
order of its queue: its F_a follows its rows where FOUT is 1, its DONE_TC counts one, and PSQ_PROGRESS counts it and the
control instructions that waited for it (R44, R71, R124, R144, R145, R152). -/
def Obligations.PassEndAndCompletion : Prop :=
  (∀ (p : Pier) (a : Arr) (steps : List ArrayStep) (s : State),
    let v := s.arrayRun p a steps
    let x := (v.pier p).array a
    (∀ y, x.endDue = some y → ∃ t stamp, exec (.passEndMarker p a steps) s = .next t ∧
      ((t.pier p).array a).passes =
        x.passes.map (fun z => if z.entry.no = y.entry.no then { z with phase := .ended } else z) ∧
      ((t.pier p).array a).lastEnd = some (y.entry.ser, stamp) ∧ ((t.pier p).array a).acc = x.acc ∧
      v.pierStamped t p []) ∧
    (x.endDue = none → exec (.passEndMarker p a steps) s = .next v)) ∧
  (∀ (p : Pier) (a : Arr) (s : State),
    (s.enterRows p a).reg64 (marOff p a + 0x18) = (s.reg64 (marOff p a + 0x18) +
      ((((s.pier p).array a).inCore.map fun y => y.dueIn.length)).sum) % 2 ^ 64) ∧
  (∀ (p : Pier) (a : Arr) (steps : List ArrayStep) (s : State),
    let v := s.arrayRun p a steps
    let x := (v.pier p).array a
    (∀ y l u, x.passes = y :: l → y.phase = .retired → (∀ q ∈ x.drainJoint, q.no ≠ y.entry.no) →
      v.writeFactor p y = (none, u) →
      ∃ t, exec (.passCompletion p a steps) s = .next t ∧ u.progressed t p (1 + y.behind.length) ∧
        u.pierStamped t p [psqOff p + 0x58, psqOff p + 0x5C] ∧ ((t.pier p).array a).passes = l ∧
        (∀ c, t.tc p c = if c = y.entry.passTc then wrap ((u.tc p c : Int) + 1) 32 else u.tc p c) ∧
        ((y.entry.drainOut && ddFout y.entry.desc.toNat) = false → u = v)) ∧
    (x.passes = [] ∨ (∃ y l, x.passes = y :: l ∧ (y.phase ≠ .retired ∨ ∃ q ∈ x.drainJoint, q.no = y.entry.no)) →
      exec (.passCompletion p a steps) s = .next v))

/-- When the last output row of the oldest pass has entered the drain joint the pass is drain-complete: MAR_PASS_CNT
counts it once, its report reaches the registers, and it retires, or a repeat with a stepped scale is due where the
report shows an overflow and attempts are left; an abandoned pass leaves the array. The repeat that is due starts over
and counts in PSQ_REISSUE. In OVERWRITE accumulator row ACC_BASE + m holds the pass sums of row m, and a drain-only
repeat changes no accumulator row. A parity error of a joint or of the launch bus abandons the pass it meets with
0x0312, an uncorrected accumulator error with 0x0311 (R38, R39, R41, R63, R67, R71, R150, R151, R152, R158). That only a
pass's first drain counts in MAR_PASS_CNT is the model's choice (log entry 119). -/
def Obligations.DrainCompleteAndRepeat : Prop :=
  (∀ (p : Pier) (a : Arr) (steps : List ArrayStep) (s : State),
    let v := s.arrayRun p a steps
    let x := (v.pier p).array a
    (∀ y, x.drainDue = some y → y.dead = false →
      let e := y.entry
      let again : Prop := e.drainOut = true ∧ y.report.overflow = true ∧ ddStep e.desc.toNat ≠ 0 ∧ y.attempts < 2
      let phased (t : State) (ph : PassPhase) : Prop := ((t.pier p).array a).passes =
        x.passes.map (fun z => if z.entry.no = e.no then { z with phase := ph } else z)
      let counts (t : State) (o n : Nat) : Prop := (t.reg o).toNat = min ((v.reg o).toNat + n) 0xFFFFFFFF
      ∃ t, exec (.drainComplete p a steps) s = .next t ∧
        t.reg64 (marOff p a + 0x10) = (v.reg64 (marOff p a + 0x10) + (if y.attempts = 0 then 1 else 0)) % 2 ^ 64 ∧
        ((t.pier p).array a).acc = x.acc ∧ (t.pier p).tcs = (v.pier p).tcs ∧
        v.pierOnly t p [marOff p a + 0x10, marOff p a + 0x14, marOff p a + 0x3C, marOff p a + 0x40, marOff p a + 0x44,
          psqOff p + 0x4C] ∧
        (again → phased t .repeatDue ∧ v.regsBut t [marOff p a + 0x10, marOff p a + 0x14]) ∧
        (¬again → phased t .retired ∧
          (e.drainOut = true → counts t (marOff p a + 0x3C) y.report.sat ∧ counts t (marOff p a + 0x40) y.report.ftz ∧
            (y.report.overflow = true → y.attempts = 2 → counts t (psqOff p + 0x4C) 1) ∧
            (y.report.overflow = false ∨ y.attempts ≠ 2 → t.reg (psqOff p + 0x4C) = v.reg (psqOff p + 0x4C))) ∧
          (e.drainOut = false → v.regsBut t [marOff p a + 0x10, marOff p a + 0x14]))) ∧
    (∀ y, x.drainDue = some y → y.dead = true → ∃ t, exec (.drainComplete p a steps) s = .next t ∧ t.mem = v.mem ∧
      ((t.pier p).array a).passes = dropBehind y.entry.no x.passes ∧ (t.pier p).tcs = (v.pier p).tcs ∧
      v.pierStamped t p [psqOff p + 0x58, psqOff p + 0x5C]) ∧
    (x.drainDue = none → exec (.drainComplete p a steps) s = .next v) ∧
    (∀ y, x.reissueDue = some y → ∃ t, exec (.overflowReissue p a steps) s = .next t ∧
      ((t.pier p).array a).passes = x.passes.map (fun z => if z.entry.no = y.entry.no then z.again else z) ∧
      ((t.pier p).array a).acc = x.acc ∧ v.pierOnly t p [psqOff p + 0x44] ∧
      (t.reg (psqOff p + 0x44)).toNat = min ((v.reg (psqOff p + 0x44)).toNat + 1) 0xFFFFFFFF) ∧
    (x.reissueDue = none → exec (.overflowReissue p a steps) s = .next v)) ∧
  (∀ y : PassRun, y.again.phase = .repeating ∧ y.again.attempts = y.attempts + 1 ∧ y.again.report = ConvReport.reset ∧
    y.again.entry = y.entry ∧ y.again.entered = 0 ∧ y.again.out = 0) ∧
  (∀ (p : Pier) (a : Arr) (s : State) (y : PassRun) (m : Nat),
    let e := y.entry
    let x := (s.pier p).array a
    let t := s.outRow p a y m
    (e.accMode = 1 → e.drainOut = false → y.drainOnly = false → (x.sumsOf y).length ≤ 256 → ∀ n, n < (x.sumsOf y).length →
      ((t.pier p).array a).accGet e.acc (e.accBase + m) n =
        (x.sumsOf y).getD n 0 % 2 ^ (if e.acc = 8 then 64 else 32)) ∧
    (∀ b u, y.drainOnly = true → s.biasOf p y = (.ok b, u) → ((t.pier p).array a).acc = x.acc)) ∧
  (∀ (p : Pier) (a : Arr) (s : State) (y : PassRun), (s.pier p).fault = none →
    let hit (no : Nat) : Prop := (((s.pier p).array a).passes.find? fun z => z.entry.no = no && !z.dead) = some y
    let faults (t : State) (code : Nat) : Prop := ∃ f, (t.pier p).fault = some f ∧ f.code = code ∧ f.ser = y.entry.ser ∧
      f.qsel = a.val ∧ (t.pier p).seq = .faulting ∧ (t.pier p).tcs = (s.pier p).tcs
    (∀ j no, s.sweep p a = s → (s.pier p).jointOwner a j = some no → hit no →
      faults (s.arrayStep p a (.parity j)) 0x0312) ∧
    (∀ no row l c, ((s.pier p).array a).accReads = (no, row) :: l → hit no → faults (s.accCheck p a c true) 0x0311))

/-! ## The vector engine -/

/-- A vector instruction that passes the checks of R555 stands in VQ with its address operands resolved; the first
failing check gives the status of its task with QUEUE FE, and a pier whose vector engine is off gives 0x0104 behind the
check of reserved fields; a full VQ counts a stalled cycle (R112, R119, R125, R143, R148, R164, R179, R455, R555). -/
def Obligations.VectorDispatch : Prop :=
  ∀ (p : Pier) (s u : State) (r : RunTask) (w0 w1 : Nat), s.atInstr p r w0 w1 u →
    let x := u.pier p
    let n := if isTwoWord (opc w0) then 2 else 1
    let dispatches (c : Instr) : Prop :=
      (x.vecOn = true → vecCheck w0 w1 = none → (x.queue 8).length < 64 →
        ∃ t e, exec c s = .next t ∧ u.pierOnly t p [] ∧ (t.pier p).queue 8 = x.queue 8 ++ [e] ∧
          e = { entryOf r w0 w1 with addrs := vecAddrs x w0 w1 } ∧ (t.pier p).run = some (r.advance n) ∧
          (t.pier p).vregs = x.vregs) ∧
      (x.vecOn = true → vecCheck w0 w1 = none → 64 ≤ (x.queue 8).length → ∃ t, exec c s = .next t ∧
        u.regsOnly t [psqOff p + 0x50] ∧
        (t.reg (psqOff p + 0x50)).toNat = min ((u.reg (psqOff p + 0x50)).toNat + 1) 0xFFFFFFFF) ∧
      (∀ code, x.vecOn = true → vecCheck w0 w1 = some code → x.fault = none →
        ∃ t f, exec c s = .next t ∧ (t.pier p).seq = .faulting ∧ (t.pier p).fault = some f ∧ f.code = code ∧
          f.qsel = 13 ∧ f.ser = r.task.ser ∧ f.word = r.pc) ∧
      (x.vecOn = false → x.fault = none → ∃ t f, exec c s = .next t ∧ (t.pier p).seq = .faulting ∧
        (t.pier p).fault = some f ∧ f.qsel = 13 ∧ (vecCheck w0 w1 = some 0x0521 → f.code = 0x0521) ∧
        (vecCheck w0 w1 ≠ some 0x0521 → f.code = 0x0104))
    (opc w0 = 0x80 → dispatches (.vfma p .dispatch)) ∧ (opc w0 = 0x84 → dispatches (.vadd p .dispatch)) ∧
    (opc w0 = 0x88 → dispatches (.vmul p .dispatch)) ∧ (opc w0 = 0x8C → dispatches (.vcmp p .dispatch)) ∧
    (opc w0 = 0x90 → dispatches (.vspec p .dispatch)) ∧ (opc w0 = 0x94 → dispatches (.vact p .dispatch)) ∧
    (opc w0 = 0x98 → dispatches (.vshf p .dispatch)) ∧ (opc w0 = 0x9C → dispatches (.vred p .dispatch)) ∧
    (opc w0 = 0xA0 → dispatches (.vld p .dispatch)) ∧ (opc w0 = 0xA4 → dispatches (.vst p .dispatch)) ∧
    (opc w0 = 0xA8 → dispatches (.vqst p .dispatch)) ∧ (opc w0 = 0xB0 → dispatches (.vopt p .dispatch))

/-- The arithmetic vector instructions write, for each element below VL, the exact result rounded once by RMODE, and
leave every other register and all of memory as they were; VSHF moves elements and VRED reduces segments; each issue
counts in VEC_INSTR and its stalls in their counters (R170, R180, R181, R182, R183, R184, R185, R200). A vector
instruction whose register read finds an uncorrected error faults its task with 0x0313, names the register and writes
none (R170). That the record names it at the place of an address is the model's choice (log entry 120). -/
def Obligations.VectorArithmetic : Prop :=
  ∀ (p : Pier) (s : State) (e : Entry) (o : Nat) (iss : VIssue), s.atHead p 8 o e → (s.pier p).vecZeroing = false →
    s.ltOn = false →
    let w := e.w0.toNat
    let x := s.pier p
    let t' := vType w
    let wide : Bool := t' = 1
    let a (i : Nat) := x.vget (vVA w) wide i
    let b (i : Nat) := if vImmb w then vImm w else x.vget (vVB w) wide i
    let c (i : Nat) := x.vget (vVC w) wide i
    let lanes := if wide then 1024 else 2048
    let ran (i : Instr) (f : Nat → Nat) (n : Nat) : Prop :=
      (∀ r, iss.bad = some r → r.toNat ∉ vReads w) → vVL w ≤ lanes →
      ∃ t, exec i s = .next t ∧ s.progressed t p 1 ∧ t.mem = s.mem ∧ (iss.corrected = 0 → t.ks = s.ks) ∧
        (t.pier p).queue 8 = (x.queue 8).drop 1 ∧ (t.pier p).tcs = x.tcs ∧
        t.reg64 (vecOff p + 0x10) = (s.reg64 (vecOff p + 0x10) + 1) % 2 ^ 64 ∧
        (t.reg (vecOff p + 0x18)).toNat = min ((s.reg (vecOff p + 0x18)).toNat + iss.dep) 0xFFFFFFFF ∧
        (∀ k, k < n → (t.pier p).vget (vVD w) wide k = f k % 2 ^ (if wide then 64 else 32)) ∧
        (∀ r k, r ≠ vVD w → k < 1024 → (t.pier p).vget r true k = x.vget r true k)
    let faults (i : Instr) : Prop := ∀ r, iss.bad = some r → r.toNat ∈ vReads w → x.fault = none →
      ∃ t f, exec i s = .next t ∧ (t.pier p).fault = some f ∧ f.code = 0x0313 ∧ f.ser = e.ser ∧
        f.detail = taskDetail (x.taskId e.ser) 8 p e.word r.toNat 0 ∧ (t.pier p).vregs = x.vregs ∧ t.mem = s.mem
    (o = 0x80 → ran (.vfma p (.run iss)) (fun i => vfmaElem t' (vRmode w) (a i) (b i) (c i)) (vVL w) ∧
      faults (.vfma p (.run iss))) ∧
    (o = 0x84 → ran (.vadd p (.run iss)) (fun i => vaddElem t' (vRmode w) (a i) (b i)) (vVL w) ∧
      faults (.vadd p (.run iss))) ∧
    (o = 0x88 → ran (.vmul p (.run iss)) (fun i => vmulElem t' (vRmode w) (a i) (b i)) (vVL w) ∧
      faults (.vmul p (.run iss))) ∧
    (o = 0x8C → vSub w < 5 → ran (.vcmp p (.run iss)) (fun i => vcmpElem t' (vSub w) (a i) (b i) (c i)) (vVL w)) ∧
    (o = 0x8C → vSub w = 5 →
      let cv : Conv := { fmt := typeFmt t', rmode := vRmode w, ftz := false, ovf := t' ≠ 2, seed := 0 }
      ran (.vcmp p (.run iss)) (fun i => ((convertList cv (typeFmt (vVB w)) 0
        (x.vread (vVA w) (vVB w) (vVL w))).map fun r => r.bits).getD i 0) (vVL w)) ∧
    (o = 0x8C → faults (.vcmp p (.run iss))) ∧
    (o = 0x90 → ran (.vspec p (.run iss)) (fun i => vspecElem t' (vRmode w) (vSub w) (a i) (b i)) (vVL w) ∧
      faults (.vspec p (.run iss))) ∧
    (o = 0x94 → ran (.vact p (.run iss))
      (fun i => fp32.round (vRmode w) (actFn (vFunc w) (vRmode w) (fp32.decode (a i)) (fp32.decode (b i)))) (vVL w) ∧
      faults (.vact p (.run iss))) ∧
    (o = 0x98 → ran (.vshf p (.run iss)) (fun i => vshfElem t' ((List.range (vVL w)).map a)
      ((List.range (vVL w)).map b) (vVL w) (sext (vSub w) 8) (fld (vFunc w) 0 3) (vImm w) i) (vVL w) ∧
      faults (.vshf p (.run iss))) ∧
    (o = 0x9C → (1 ≤ fld (vFunc w) 0 4 → ran (.vred p (.run iss))
      (fun i => (vredAll t' (vRmode w) (vSub w) (fld (vFunc w) 0 4) ((List.range (vVL w)).map a)).getD i 0) lanes) ∧
      faults (.vred p (.run iss)))

/-- VLD writes the elements it reads, with their scales where they have some, to VD; VST and VQST write their converted
elements, their reports too where asked, and count them; VOPT writes the new state and the output selected, and refuses a
bad parameter block with 0x022A; each touches memory only in what the runs it names hold, and one that cannot be reached
faults the task (R98, R172, R191, R192, R193, R194, R195). -/
def Obligations.VectorMemory : Prop :=
  ∀ (p : Pier) (s u : State) (e : Entry) (o : Nat) (iss : VIssue), s.atHead p 8 o e → (s.pier p).vecZeroing = false →
    s.ltOn = false → iss.corrected = 0 → iss.bad = none →
    let w := e.w0.toNat
    let w1 := e.w1.toNat
    let x := s.pier p
    let who := s.client p e.ser
    let wide : Bool := vType w = 1
    let v := (s.pop p 8).countIssue p w iss
    let src := x.vread (vVA w) (vType w) (vVL w)
    let done (i : Instr) (z : State) : Prop := ∃ t, exec i s = .next t ∧ z.progressed t p 1 ∧ t.mem = z.mem ∧
      (t.pier p).vregs = (z.pier p).vregs ∧ t.ks = z.ks
    let faults (i : Instr) (z : State) (code : Nat) : Prop := x.fault = none → ∃ t f, exec i s = .next t ∧
      t.mem = z.mem ∧ (t.pier p).fault = some f ∧ f.code = code ∧ f.ser = e.ser ∧ f.qsel = 8 ∧ (t.pier p).vregs = x.vregs
    let trailer (bitNo : Nat) (addr : Nat) (r : ConvReport) : List (Nat × List Byte) :=
      if bit w bitNo then [(addr, r.trailer)] else []
    let conv := convOf (fld w 47 16) (fld w1 32 32)
    let rs := convertList conv (typeFmt (vType w)) (fld w1 64 32) src
    let rep := ConvReport.all (rs.map fun r => r.rep)
    (o = 0xA0 →
      let fmt := fld w 47 4
      let b := scaleBlock (fld w 51 8)
      let reads := v.readRuns who x.tag (reachOwn p) 0x052B (elemRuns fmt (vVL w) (e.addr 0) (fld w1 8 16))
      (∀ f, reads = (.error f, u) → faults (.vld p (.run iss)) u f.code) ∧
      (∀ d sc y, reads = (.ok d, y) →
        (if b = 0 then (.ok [], y) else y.readVa who x.tag (reachOwn p) 0x052B (e.addr 1) (cdiv (vVL w) b)) = (.ok sc, u) →
        let l := elemsOf fmt (vVL w) (fld w1 8 16) d
        l.length = vVL w → vVL w ≤ (if wide then 1024 else 2048) →
        ∃ t, exec (.vld p (.run iss)) s = .next t ∧ u.progressed t p 1 ∧ t.mem = u.mem ∧ t.ks = u.ks ∧
          (∀ k, k < vVL w → (t.pier p).vget (vVD w) wide k =
            (if vType w = 2 then wrap (sext (l.getD k 0) (fmtWidth fmt)) 32
              else (typeFp (vType w)).round 0 (if b = 0 then elemVal fmt (l.getD k 0)
                else scaleElem (elemVal fmt (l.getD k 0))
                  (scaleVal (b2n (bit (fld w 51 8) 4)) (sc.getD (k / b) 0).toNat))) % 2 ^ (if wide then 64 else 32)) ∧
          (∀ r k, r ≠ vVD w → k < 1024 → (t.pier p).vget r true k = x.vget r true k))) ∧
    (o = 0xA4 →
      let writes := (v.vecReport p rep).writeRuns who x.tag (reachOwn p) 0x052B
        (storeRuns conv.fmt (e.addr 0) (fld w1 8 16) (rs.map fun r => r.bits) ++ trailer 63 (e.addr 1) rep)
      (writes = (none, u) → done (.vst p (.run iss)) u) ∧
      (∀ f, writes = (some f, u) → faults (.vst p (.run iss)) u f.code)) ∧
    (o = 0xA8 →
      let cq := convOf (fld w 47 16) 0
      let lq := x.vread (vVA w) 0 (vVL w)
      let q := (pieces (scaleBlock (fld w1 8 8)) lq.length lq).map (quantBlock cq (b2n (bit (fld w1 8 8) 4)))
      let rq := (q.map fun y => y.2).flatten
      let repq := ConvReport.all (rq.map fun r => r.rep)
      let writes := (v.vecReport p repq).writeRuns who x.tag (reachOwn p) 0x052B
        (storeRuns cq.fmt (e.addr 0) 0 (rq.map fun r => r.bits) ++ [(e.addr 1, q.map fun y => BitVec.ofNat 8 y.1)] ++
          trailer 63 (e.addr 2) repq)
      (writes = (none, u) → done (.vqst p (.run iss)) u) ∧
      (∀ f, writes = (some f, u) → faults (.vqst p (.run iss)) u f.code)) ∧
    (o = 0xB0 →
      ∀ (u1 : State) (pb : List Byte), v.readVa who x.tag (reachOwn p) 0x052B (e.addr 3) 64 = (.ok pb, u1) →
      let sel := fld w 12 2
      let n := 16 * (fld w1 32 24 + 1)
      let op := optParams pb
      (optBad op sel = true → faults (.vopt p (.run iss)) u1 0x022A) ∧
      (∀ (u2 : State) (st gr : List Byte), optBad op sel = false →
        u1.readRuns who x.tag (reachOwn p) 0x052B [(e.addr 1, 12 * n), (e.addr 0, n * fmtWidth (fld w 8 4) / 8)] =
          (.ok [st, gr], u2) →
        let opt := optRun op (fld w1 64 32) (fld w1 96 32) (fld w 8 4) st gr n
        let repo := ConvReport.all (opt.map (fun r => r.delta.rep) ++ (if sel = 2 then opt.map (fun r => r.work.rep) else []))
        let outs := if sel = 1 then [(e.addr 4, pack (fmtWidth (fld op.uconv 0 4)) (opt.map fun r => r.delta.bits))]
          else if sel = 2 then [(e.addr 4, pack 16 (opt.map fun r => r.work.bits))] else []
        let writes := (u2.vecReport p repo).writeRuns who x.tag (reachOwn p) 0x052B
          ([(e.addr 2, optState opt)] ++ outs ++ trailer 14 (e.addr 3 + 64) repo)
        (writes = (none, u) → done (.vopt p (.run iss)) u) ∧
        (∀ f, writes = (some f, u) → faults (.vopt p (.run iss)) u f.code)))

/-! ## Memory -/

/-- READ and WRITE of one atom that a stack serves: a READ gives the atom's 64 bytes, counted where they were corrected,
and an uncorrectable atom 0x0320; a WRITE changes the bytes whose mask bit is 1 and no others, a whole WRITE makes a bad
atom good again, and one of part of an atom that is or is found uncorrectable leaves it so, counted and recorded (R253,
R254, R262, R282, R290). That a write of part of an atom reads it, and what is counted for that, is the model's choice
(log entry 132). -/
def Obligations.MemoryReadWrite : Prop :=
  ∀ (r : MemReq) (data : BitVec 512) (mask : BitVec 64) (s : State) (n : Nat),
    let la := r.addr.toNat / 64 * 64
    let answer (k : ReplyKind) : Reply := { addr := la, tag := r.tag.toNat, kind := k }
    s.memOk → s.stackServes n la r.tag.toNat r.peer →
    (s.ltOn = false → la / 64 ∉ s.badAtoms → r.ecc = .clean →
      ∃ t, exec (.read r) s = .next t ∧ t.replies = s.replies ++ [answer (.data (Memory.readList s.mem la 64))] ∧
        t.mem = s.mem ∧ t.reg64 (dmcOff n + 0x28) = (s.reg64 (dmcOff n + 0x28) + 64) % 2 ^ 64 ∧
        s.memOnly t [dmcOff n + 0x28, dmcOff n + 0x2C]) ∧
    (s.ltOn = false → (la / 64 ∈ s.badAtoms ∨ r.ecc = .uncorrectable) →
      ∃ t, exec (.read r) s = .next t ∧ t.replies = s.replies ++ [answer (.fault 0x0320)] ∧ t.mem = s.mem ∧
        la / 64 ∈ t.badAtoms ∧ (t.reg (dmcOff n + 8)).getLsbD 0 = true ∧
        (t.reg (dmcOff n + 0x3C)).toNat = min ((s.reg (dmcOff n + 0x3C)).toNat + 1) 0xFFFFFFFF) ∧
    (s.ltOn = false → la / 64 ∉ s.badAtoms → r.ecc = .corrected →
      ∃ t, exec (.read r) s = .next t ∧ t.replies = s.replies ++ [answer (.data (Memory.readList s.mem la 64))] ∧
        t.mem = s.mem ∧ (t.reg (dmcOff n + 0x38)).toNat = min ((s.reg (dmcOff n + 0x38)).toNat + 1) 0xFFFFFFFF) ∧
    (la / 64 ∉ s.badAtoms → (mask = BitVec.allOnes 64 ∨ r.ecc ≠ .uncorrectable) →
      ∃ t, exec (.write r data mask) s = .next t ∧ t.replies = s.replies ++ [answer .acked] ∧ t.memOk ∧
        (∀ i, i < 64 → Memory.read t.mem (la + i) =
          if mask.getLsbD i then data.extractLsb' (8 * i) 8 else Memory.read s.mem (la + i)) ∧
        (∀ a, (a < la ∨ la + 64 ≤ a) → Memory.read t.mem a = Memory.read s.mem a) ∧
        t.reg64 (dmcOff n + 0x30) = (s.reg64 (dmcOff n + 0x30) + 64) % 2 ^ 64 ∧
        s.memOnly t [dmcOff n + 0x28, dmcOff n + 0x2C, dmcOff n + 0x30, dmcOff n + 0x34] ∧
        (mask = BitVec.allOnes 64 → s.memOnly t [dmcOff n + 0x30, dmcOff n + 0x34])) ∧
    (mask ≠ BitVec.allOnes 64 → (la / 64 ∈ s.badAtoms ∨ r.ecc = .uncorrectable) →
      ∃ t rec, exec (.write r data mask) s = .next t ∧ t.replies = s.replies ++ [answer .acked] ∧ t.memOk ∧
        (∀ i, i < 64 → Memory.read t.mem (la + i) =
          if mask.getLsbD i then data.extractLsb' (8 * i) 8 else Memory.read s.mem (la + i)) ∧
        (∀ a, (a < la ∨ la + 64 ≤ a) → Memory.read t.mem a = Memory.read s.mem a) ∧ la / 64 ∈ t.badAtoms ∧
        (t.reg (dmcOff n + 8)).getLsbD 0 = true ∧
        (t.reg (dmcOff n + 0x3C)).toNat = min ((s.reg (dmcOff n + 0x3C)).toNat + 1) 0xFFFFFFFF ∧
        rec ∈ t.ks.records ∧ rec.code = 0x0320 ∧ rec.error = true ∧ rec.tag = some r.tag.toNat ∧
        leAt rec.detail 0 6 = la % 2 ^ 48) ∧
    (la / 64 ∈ s.badAtoms → mask = BitVec.allOnes 64 →
      ∃ t, exec (.write r data mask) s = .next t ∧ t.replies = s.replies ++ [answer .acked] ∧ la / 64 ∉ t.badAtoms ∧
        ∀ i, i < 64 → Memory.read t.mem (la + i) = data.extractLsb' (8 * i) 8)

/-- A request whose tag does not own the page moves no data and is answered as stale: DMC_STALE counts it where the page
is not OWNED or belongs to another tag of the same context, DMC_FOREIGN where it belongs to another context or lacks
EXPORT for a peer. A fenced tag counts in DMC_STALE, and a stack out of service answers 0x0323 (R262, R266, R284); that a
stack under a pier reset answers 0x0323 too is the model's choice (log entry 131). -/
def Obligations.OwnerRule : Prop :=
  ∀ (r : MemReq) (data : BitVec 512) (mask : BitVec 64) (s : State) (n o : Nat),
    let la := r.addr.toNat / 64 * 64
    let tag := r.tag.toNat
    let w := s.owner (pageOf la)
    let answered (c : Instr) (k : ReplyKind) (l : List Nat) : Prop :=
      ∃ t, exec c s = .next t ∧ t.replies = s.replies ++ [{ addr := la, tag := tag, kind := k }] ∧ t.mem = s.mem ∧
        s.memOnly t l ∧ ∀ x ∈ l, x = dmcOff n + 8 ∨ (t.reg x).toNat = min ((s.reg x).toNat + 1) 0xFFFFFFFF
    let both (k : ReplyKind) (l : List Nat) : Prop := answered (.read r) k l ∧ answered (.write r data mask) k l
    place la = .stack n o →
    (s.stackOpen n = false → both (.fault 0x0323) []) ∧
    (s.stackOpen n = true → (s.stack n).fenced = some tag → both .stale [dmcOff n + 0x40]) ∧
    (s.stackOpen n = true → (s.stack n).fenced ≠ some tag → fld w 18 3 ≠ 1 → both .stale [dmcOff n + 0x40]) ∧
    (s.stackOpen n = true → (s.stack n).fenced ≠ some tag → fld w 18 3 = 1 → fld w 0 18 ≠ tag →
      tagCtx (fld w 0 18) = tagCtx tag → both .stale [dmcOff n + 0x40]) ∧
    (s.stackOpen n = true → (s.stack n).fenced ≠ some tag → fld w 18 3 = 1 → tagCtx (fld w 0 18) ≠ tagCtx tag →
      both .stale [dmcOff n + 0x44, dmcOff n + 8]) ∧
    (s.stackOpen n = true → (s.stack n).fenced ≠ some tag → fld w 18 3 = 1 → fld w 0 18 = tag → r.peer = true →
      bit w 21 = false → both .stale [dmcOff n + 0x44, dmcOff n + 8])

/-- A PLAIN reduction of one INT32 element adds it modulo 2^32, and with WIDE modulo 2^64; a pair that R267 does not
permit answers 0x0330 and adds nothing (R267, R268, R269, R270). -/
def Obligations.PlainReduction : Prop :=
  ∀ (r : MemReq) (s : State) (v : Word32),
    let la := r.addr.toNat
    let tag := r.tag.toNat
    let answer (k : ReplyKind) : Reply := { addr := la, tag := tag, kind := k }
    (∀ n, s.memOk → s.stackServes n la tag r.peer → s.ltOn = false → r.ecc = .clean → la / 64 ∉ s.badAtoms →
      let regs := [dmcOff n + 0x28, dmcOff n + 0x2C, dmcOff n + 0x30, dmcOff n + 0x34, dmcOff n + 0x54, dmcOff n + 0x58,
        dmcOff n + 0x5C]
      (∃ t, exec (.plain r 0xBB false (toBytes v.toNat 4)) s = .next t ∧ t.replies = s.replies ++ [answer .acked] ∧
        ofBytes (Memory.readList t.mem la 4) = (ofBytes (Memory.readList s.mem la 4) + v.toNat) % 2 ^ 32 ∧
        (∀ a, (a < la ∨ la + 4 ≤ a) → Memory.read t.mem a = Memory.read s.mem a) ∧ t.memOk ∧ s.memOnly t regs) ∧
      (∃ t, exec (.plain r 0xBB true (toBytes v.toNat 4)) s = .next t ∧ t.replies = s.replies ++ [answer .acked] ∧
        ofBytes (Memory.readList t.mem la 8) =
          wrap ((ofBytes (Memory.readList s.mem la 8) : Int) + v.toInt) 64 ∧
        (∀ a, (a < la ∨ la + 8 ≤ a) → Memory.read t.mem a = Memory.read s.mem a) ∧ t.memOk ∧ s.memOnly t regs)) ∧
    (∀ (pair : Byte) (wide : Bool) (data : List Byte),
      pair ∉ [(0x55 : Byte), 0x75, 0x77, 0x88, 0xBB] ∨ (wide = true ∧ pair ≠ 0xBB) →
      ∃ t, exec (.plain r pair wide data) s = .next t ∧ t.replies = s.replies ++ [answer (.fault 0x0330)] ∧
        t.mem = s.mem)

/-- A WINDOW open takes its descriptor into a CLOSED window, with the pages it then translates to, and one that is not
CLOSED or a descriptor that breaks its ranges changes no window; a re-arm returns an ABANDONED window to OPEN with its
ROUND kept; a close empties the window at once unless its round is finishing (R272, R273, R278, R437). -/
def Obligations.WindowCommands : Prop :=
  ∀ (n : Stk) (w : Win) (s : State),
    let x := s.win n w
    (∀ d, x.state = .closed → s.winRejects n d = false →
      ∃ t, exec (.window n w (.opn d)) s = .next t ∧ (t.win n w).state = .opn ∧
        (t.win n w).tag = leAt d 0 4 % 2 ^ 18 ∧ (t.win n w).dst = leAt d 8 8 ∧ (t.win n w).sum = leAt d 16 8 ∧
        (t.win n w).park = leAt d 24 8 ∧ (t.win n w).len = leAt d 32 4 ∧ (t.win n w).parkLen = leAt d 36 4 ∧
        (t.win n w).n = leAt d 40 2 ∧ (t.win n w).round = leAt d 42 2 ∧ (t.win n w).epoch = leAt d 44 4 ∧
        (t.win n w).parked = [] ∧ (∀ k, k ≠ w.val → t.win n k = s.win n k) ∧
        (t.win n w).dstPages = s.pageList (t.win n w).tag (t.win n w).dst (t.win n w).dstBytes ∧
        (∀ m, m ≠ n.val → t.stack m = s.stack m) ∧ s.regsBut t [dmcOff n + 0x28, dmcOff n + 0x2C] ∧
        ({ t with stks := s.stks, regs := s.regs } : State) = s) ∧
    (∀ d, x.state ≠ .closed → exec (.window n w (.opn d)) s = .next s) ∧
    (∀ d, x.state = .closed →
      (leAt d 52 12 ≠ 0 ∨ leAt d 32 4 = 0 ∨ leAt d 40 2 = 0 ∨ 8192 < leAt d 40 2 ∨ leAt d 6 2 / 16 % 8 = 4) →
      ∃ t, exec (.window n w (.opn d)) s = .next t ∧ (t.reg (dmcOff n + 8)).getLsbD 4 = true ∧
        s.regsOnly t [dmcOff n + 8]) ∧
    (∀ (e : BitVec 32) k, x.state = .abandoned → 1 ≤ k → k ≤ 8192 →
      ∃ t, exec (.window n w (.rearm e k)) s = .next t ∧ ({ t with stks := s.stks } : State) = s ∧
        t.win n w = { x with state := .opn, epoch := e.toNat, n := k, nextRank := [], rank := 0, seg := 0, parked := [],
                             added := 0, err := none }) ∧
    (x.state ≠ .finishing →
      ∃ t, exec (.window n w .close) s = .next t ∧ (t.win n w).state = .closed ∧ (t.win n w).parked = [] ∧
        (∀ k, k ≠ w.val → t.win n k = s.win n k) ∧ ({ t with stks := s.stks } : State) = s) ∧
    (x.state = .finishing → ∃ t, exec (.window n w .close) s = .next t ∧ (t.win n w).state = .finishing ∧
      (t.win n w).closing ≠ none ∧ ({ t with stks := s.stks } : State) = s) ∧
    (∀ e k, x.state ≠ .abandoned ∨ k < 1 ∨ 8192 < k → exec (.window n w (.rearm e k)) s = .next s)

/-- What a window answers to a chunk, by the first action of R275 that applies: no window, or one that is not OPEN, and
a newer epoch or the next round refuse it; an older epoch and any other round drop it as stale, answered as accepted; a
rank at or above N is dropped with 0x0331 and recorded; one that is next is added, with the parked ones that become
next, and its segment's next rank goes up; any other is parked, on chip or in the window's own area, or refused where
neither has room (R274, R275, R276). The finish of a round writes the sums to DST, counts the round, advances ROUND,
sends the DONE increment when DONE_EN is set, raises 0x0334 when EVENT is set and 0x0321 when an error was recorded
against the round; a window that a close waits for closes (R277, R437). -/
def Obligations.WindowChunksAndRounds : Prop :=
  (
    ∀ (c : ChunkReq) (s : State) (n : Nat),
      let la := c.dst.toNat
      let answered (t : State) (k : ReplyKind) : Prop :=
        exec (.chunk c) s = .next t ∧ t.replies = s.replies ++ [{ addr := la, tag := c.tag.toNat, kind := k }]
      let refused : Prop := ∃ t, answered t .refusedChunk ∧ t.mem = s.mem ∧ s.memOnly t [dmcOff n + 0x48] ∧
        (t.reg (dmcOff n + 0x48)).toNat = min ((s.reg (dmcOff n + 0x48)).toNat + 1) 0xFFFFFFFF
      let stale : Prop := ∃ t, answered t .accepted ∧ t.mem = s.mem ∧ s.memOnly t [dmcOff n + 0x40] ∧
        (t.reg (dmcOff n + 0x40)).toNat = min ((s.reg (dmcOff n + 0x40)).toNat + 1) 0xFFFFFFFF
      s.stackServes n la c.tag.toNat c.peer →
      (s.winMatch n c.tag.toNat la = none → refused) ∧
      (∀ w, s.winMatch n c.tag.toNat la = some w →
        let x := s.win n w
        let newer := (c.epoch - BitVec.ofNat 32 x.epoch).toInt
        (x.state ≠ .opn → refused) ∧
        (x.state = .opn → x.epoch < 2 ^ 32 → 0 < newer → refused) ∧
        (x.state = .opn → x.epoch < 2 ^ 32 → newer < 0 → stale) ∧
        (x.state = .opn → c.epoch.toNat = x.epoch → c.round.toNat = (x.round + 1) % 2 ^ 16 → x.round < 2 ^ 16 → refused) ∧
        (x.state = .opn → c.epoch.toNat = x.epoch → c.round.toNat ≠ x.round → c.round.toNat ≠ (x.round + 1) % 2 ^ 16 →
          stale) ∧
        (x.state = .opn → c.epoch.toNat = x.epoch → c.round.toNat = x.round → x.n ≤ c.rank →
          ∃ t, answered t (.fault 0x0331) ∧ t.mem = s.mem ∧ (t.reg (dmcOff n + 8)).getLsbD 4 = true ∧
            (t.win n w).parked = x.parked ∧ (t.win n w).nextRank = x.nextRank ∧ (t.win n w).err.isSome = true) ∧
        (x.state = .opn → c.epoch.toNat = x.epoch → c.round.toNat = x.round → x.misfit c = false → x.indexed = false →
          c.rank = x.nextRank.get 0 c.seg → x.parked = [] → c.ecc = .clean → s.ltOn = false → s.badAtoms = [] →
          c.rank + 1 < x.n →
          ∃ t, answered t .accepted ∧ (t.win n w).state = .opn ∧ (t.win n w).nextRank.get 0 c.seg = c.rank + 1 ∧
            (∀ j, j ≠ c.seg → (t.win n w).nextRank.get 0 j = x.nextRank.get 0 j) ∧
            s.regsBut t [dmcOff n + 0x28, dmcOff n + 0x2C, dmcOff n + 0x30, dmcOff n + 0x34] ∧
            ({ t with mem := s.mem, stks := s.stks, replies := s.replies, regs := s.regs } : State) = s) ∧
        (x.state = .opn → c.epoch.toNat = x.epoch → c.round.toNat = x.round → x.misfit c = false →
          let onChip := s.parkUsed n + chunkUnits c ≤ 262144
          let inArea := ((x.parked.filter fun y => y.1).map fun y => chunkUnits y.2).sum + chunkUnits c ≤ x.parkLen
          (x.isNext c = true → ∃ v, answered ((v.winSettle n w).reply la c.tag.toNat .accepted) .accepted ∧
            v = (s.addChunk n w c).addParked n w x.parked.length ∧ v.replies = s.replies) ∧
          (x.isNext c = false → onChip ∨ inArea →
            ∃ t, answered t .accepted ∧ t.mem = s.mem ∧ (t.win n w).parked = x.parked ++ [(!decide onChip, c)] ∧
              (t.win n w).nextRank = x.nextRank ∧ (∀ k, k ≠ w → t.win n k = s.win n k) ∧
              s.regsBut t [dmcOff n + 0x30, dmcOff n + 0x34] ∧
              ({ t with stks := s.stks, replies := s.replies, regs := s.regs } : State) = s) ∧
          (x.isNext c = false → ¬onChip → ¬inArea → refused)))
  ) ∧ (
    ∀ (c : ChunkReq) (s : State) (n w : Nat),
      let x := s.win n w
      let y := (s.addChunk n w c).win n w
      y.added = x.added + 1 ∧ y.state = x.state ∧ y.parked = x.parked ∧ y.round = x.round ∧
      (x.indexed = true → c.last = true → y.rank = x.rank + 1 ∧ y.seg = 0) ∧
      (x.indexed = true → c.last = false → y.rank = x.rank ∧ y.seg = x.seg + 1) ∧
      (x.indexed = false → ∀ j, y.nextRank.get 0 j = if j = c.seg then c.rank + 1 else x.nextRank.get 0 j)
  ) ∧ (
    ∀ (n : Stk) (w : Win) (s : State),
      let x := s.win n w
      (x.state ≠ .finishing → exec (.roundFinish n w) s = .next s) ∧
      (x.state = .finishing → ∃ t, exec (.roundFinish n w) s = .next t ∧
        (t.win n w).state = (if x.closing = none then .opn else .closed) ∧ (t.win n w).closing = none ∧
        (s.memOk → s.badAtoms = [] →
          (∀ i k, i < x.elems → k < x.elems → i ≠ k →
            x.dstAt i + fmtBytes x.dfmt ≤ x.dstAt k ∨ x.dstAt k + fmtBytes x.dfmt ≤ x.dstAt i) →
          (∀ i k, i < x.elems → k < x.elems →
            x.dstAt i + fmtBytes x.dfmt ≤ x.sumAt k ∨ x.sumAt k + fmtBytes x.sumF ≤ x.dstAt i) →
          (∀ i j, i < x.elems → j < fmtBytes x.dfmt → Memory.read t.mem (x.dstAt i + j) =
            (toBytes (x.final (s.sumGet x i)).bits (fmtBytes x.dfmt)).getD j 0) ∧
          (∀ a, (∀ i, i < x.elems → a < x.dstAt i ∨ x.dstAt i + fmtBytes x.dfmt ≤ a) →
            Memory.read t.mem a = Memory.read s.mem a)) ∧
        (t.win n w).round = (x.round + 1) % 2 ^ 16 ∧ (t.win n w).parked = [] ∧ (t.win n w).nextRank = [] ∧
        (t.win n w).rank = 0 ∧ (t.win n w).err = none ∧
        (t.reg (dmcOff n + 0x50)).toNat = min ((s.reg (dmcOff n + 0x50)).toNat + 1) 0xFFFFFFFF ∧
        t.tallies = (if x.doneEn then
          s.tallies ++ [{ src := 16 + n, dst := x.donePier, tag := x.tag, tc := x.doneTc, inc := x.doneInc }]
          else s.tallies) ∧
        (x.event = true → ∃ rec ∈ t.ks.records, rec.code = 0x0334 ∧ rec.error = false ∧ rec.tag = some x.tag) ∧
        (∀ rank cause, x.err = some (rank, cause) →
          ∃ rec ∈ t.ks.records, rec.code = 0x0321 ∧ rec.error = true ∧ rec.tag = some x.tag ∧
            leAt rec.detail 4 2 = rank % 2 ^ 16))
  )

/-- ZERO makes an OWNED page ZEROING; when the zeroing ends its 2 MiB read zero and the page is FREE. With a failed
channel mapped out and no page OWNED, the stack's memory reads zero, its last 768 pages are WITHDRAWN and
it returns to service (R261, R263, R264, R265, R284, R285, R286). A patrol scrub reads every populated byte of its
stack, and a temperature sample shows the readings and moves the refresh band up at once and down only HYST below the
lower threshold (R280, R281, R283, R289). -/
def Obligations.ZeroScrubAndMapOut : Prop :=
  (
    (∀ (page : BitVec 27) (s : State), fld (s.owner page.toNat) 18 3 = 1 →
      ∃ t, exec (.zero page) s = .next t ∧ fld (t.owner page.toNat) 18 3 = 2 ∧
        fld (t.owner page.toNat) 0 18 = fld (s.owner page.toNat) 0 18 ∧ (∀ g, g ≠ page.toNat → t.owner g = s.owner g) ∧
        ({ t with owners := s.owners } : State) = s) ∧
    (∀ (page : BitVec 27) (s : State), fld (s.owner page.toNat) 18 3 = 2 → s.memOk →
      let g := page.toNat
      ∃ t, exec (.zeroComplete page) s = .next t ∧ t.memOk ∧ t.owner g = 0 ∧ (∀ k, k ≠ g → t.owner k = s.owner k) ∧
        (∀ a, Memory.read t.mem a = if a / 2 ^ 21 = g then 0 else Memory.read s.mem a) ∧
        (∀ a, a ∈ t.badAtoms ↔ a ∈ s.badAtoms ∧ a / 2 ^ 15 ≠ g)) ∧
    (∀ (n : Stk) (c : Fin 32) (s : State), (s.stack n).oos = true → (s.stack n).dead = false →
      (s.reg (dmcOff n + 0xC)).getLsbD c = true →
      (∀ e ∈ s.owners, n.val * 32768 ≤ e.1 → e.1 < n.val * 32768 + 24576 → fld e.2.toNat 18 3 ≠ 1) → s.memOk →
      ∃ t, exec (.channelMapOut n c) s = .next t ∧ t.memOk ∧ (t.stack n).oos = false ∧
        (∀ i, i < 768 → fld (t.owner (n.val * 32768 + 23808 + i)) 18 3 = 4) ∧
        (∀ i, i < 23808 → 80 ≤ i → t.owner (n.val * 32768 + i) = 0) ∧ (t.stack n).mapped = some c.val ∧
        (∀ o, o < 48 * 2 ^ 30 → Memory.read t.mem (n.val * 2 ^ 36 + o) = 0) ∧
        (∀ a, a / 2 ^ 36 ≠ n.val → Memory.read t.mem a = Memory.read s.mem a) ∧
        t.reg64 (dmcOff n + 0x30) = (s.reg64 (dmcOff n + 0x30) + 23808 * 2 ^ 21) % 2 ^ 64 ∧
        ((∀ e ∈ s.owners, n.val * 32768 ≤ e.1 → e.1 < n.val * 32768 + 24576 → fld e.2.toNat 18 3 ≠ 2) →
          s.regsBut t [dmcOff n + 0x30, dmcOff n + 0x34] ∧
          ({ t with mem := s.mem, badAtoms := s.badAtoms, owners := s.owners, stks := s.stks, regs := s.regs } : State) = s))
  ) ∧ (
    (∀ (n : Stk) (s : State), s.stackUp n = true → (s.reg (dmcOff n)).getLsbD 0 = true →
      (∀ a ∈ s.badAtoms, a / 2 ^ 30 ≠ n.val) →
      ∃ t, exec (.patrolScrub n []) s = .next t ∧ s.regsOnly t [dmcOff n + 0x28, dmcOff n + 0x2C] ∧
        t.reg64 (dmcOff n + 0x28) = (s.reg64 (dmcOff n + 0x28) +
          (if (s.stack n).mapped = none then 24576 else 23808) * 2 ^ 21) % 2 ^ 64) ∧
    (∀ (n : Stk) (o : BitVec 36) (s : State), s.stackUp n = true → (s.reg (dmcOff n)).getLsbD 0 = true → s.badAtoms = [] →
      ∃ t, exec (.patrolScrub n [(o, .uncorrectable)]) s = .next t ∧ t.mem = s.mem ∧
        t.badAtoms = [stackAddr n (o.toNat / 64 * 64) / 64] ∧ (t.reg (dmcOff n + 8)).getLsbD 0 = true ∧
        (t.reg (dmcOff n + 0x3C)).toNat = min ((s.reg (dmcOff n + 0x3C)).toNat + 1) 0xFFFFFFFF) ∧
    (∀ (n : Stk) (core base : BitVec 16) (s : State),
      let k := (s.reg (dmcOff n + 4)).toNat % 4
      let limit (i : Nat) : Int := 4 * ((s.reg (dmcOff n + 0x14)).toNat / 256 ^ (i - 1) % 256 : Nat)
      let hyst : Int := 4 * ((s.reg (dmcOff n + 0x14)).toNat / 2 ^ 24 % 16 : Nat)
      (s.reg (dmcOff n + 4)).toNat % 4 < 3 → limit 1 ≤ limit 2 → limit 2 ≤ limit 3 →
      ∃ t, exec (.refreshBandSample n core base) s = .next t ∧ t.mem = s.mem ∧
        (t.reg (dmcOff n + 0x10)).toNat = core.toNat + 2 ^ 16 * base.toNat ∧
        (limit 3 < core.toInt → (t.reg (dmcOff n + 4)).toNat % 4 = 3 ∧ (t.reg (dmcOff n + 8)).getLsbD 5 = true ∧
          (∃ rec ∈ t.ks.records, rec.code = 0x0335) ∧ ∃ rec ∈ t.ks.records, rec.code = 0x0336 ∧ rec.error = true) ∧
        (core.toInt ≤ limit 3 → limit 2 < core.toInt → (t.reg (dmcOff n + 4)).toNat % 4 = 2) ∧
        (k = 1 → core.toInt ≤ limit 1 → limit 1 - hyst < core.toInt → (t.reg (dmcOff n + 4)).toNat % 4 = 1 ∧
          t.ks = s.ks) ∧
        (k = 1 → core.toInt ≤ limit 1 - hyst → (t.reg (dmcOff n + 4)).toNat % 4 = 0))
  )

/-! ## Registers and BAR0 -/

/-- Each kind of register takes a write by its access code: MAR_ERR clears the bits written as 1, PSQ_TASKD0 keeps its
reserved half, DMC_BAND_CFG is staged and its committed word stands, and PSQ_PROGRESS is read-only. The host writes
EV_CONS, HP_ERR and the mailboxes it owns, whose reserved bytes read zero (R6, R428), and a pending vector is sent when
its mask bit is cleared (R5, R70, R164, R165, R289, R425, R427, R428, R431, R444, R452, R456). A read of the low half of
a 64-bit counter latches its high half, and a read of the high half returns the value latched (R72). A read of a
reserved offset gives zero and a write sets BAD_OFFSET; an access of a wrong width sets WIDTH and a read gives ones; a
host write of the diagnostic window sets DIAG_WRITE; all are dropped (R72, R422, R423, R425). -/
def Obligations.Registers : Prop :=
  (
    ∀ (s : State) (v : Word32),
      let data := toBytes v.toNat 4
      (∀ (p : Pier) (a : Arr), let o := marOff p a + 8
        ∃ t, exec (.registerWrite .keystone (BitVec.ofNat 26 o) data) s = .next t ∧ s.regsOnly t [o] ∧
          t.reg o = (s.reg o &&& ~~~(v &&& 0xF))) ∧
      (∀ p : Pier, let o := psqOff p + 0x20
        ∃ t, exec (.registerWrite .keystone (BitVec.ofNat 26 o) data) s = .next t ∧ s.regsOnly t [o] ∧
          t.reg o = (s.reg o &&& 0xFFFF0000 ||| v &&& 0xFFFF)) ∧
      (∀ n : Stk, let o := dmcOff n + 0x14
        ∃ t, exec (.registerWrite .keystone (BitVec.ofNat 26 o) data) s = .next t ∧
          (∀ d, t.ks.staged.get d o = (s.ks.staged.get (s.reg o) o &&& 0xF0000000 ||| v &&& 0x0FFFFFFF)) ∧
          (∀ k d, k ≠ o → t.ks.staged.get d k = s.ks.staged.get d k) ∧
          ({ t with ks := { t.ks with staged := s.ks.staged } } : State) = s) ∧
      (∀ p : Pier, exec (.registerWrite .keystone (BitVec.ofNat 26 (psqOff p + 0x58)) data) s = .next s) ∧
      (∀ c : CtxId, ∃ t, exec (.registerWrite .host (BitVec.ofNat 26 (0x10000 * c.val + 0xC)) data) s = .next t ∧
        (t.ctx c).ring = { (s.ctx c).ring with cons := v.toNat } ∧ (∀ k, k ≠ c.val → t.ctx k = s.ctx k) ∧
        ({ t with ks := { t.ks with ctxs := s.ks.ctxs } } : State) = s) ∧
      (∃ t, exec (.registerWrite .host (BitVec.ofNat 26 (hpOff + 4)) data) s = .next t ∧ s.regsOnly t [hpOff + 4] ∧
        t.reg (hpOff + 4) = (s.reg (hpOff + 4) &&& ~~~(v &&& 0x3F))) ∧
      (∀ (m : Mbx) (o : Nat) (d : List Byte), (s.mb m).owner = false → o + d.length ≤ 0x1000 →
        ∃ t, exec (.registerWrite .host (BitVec.ofNat 26 (0x400000 + 0x1000 * m.val + o)) d) s = .next t ∧
          (∀ i, (t.mb m).bytes.get 0 i =
            if o ≤ i ∧ i < o + d.length ∧ 4 ≤ i then d.getD (i - o) 0 else (s.mb m).bytes.get 0 i) ∧
          (∀ i, i = 7 ∨ i = 0xF ∨ (0x12 ≤ i ∧ i < 0x18) ∨ (0x30 ≤ i ∧ i < 0x40) → (t.mb m).shown i = 0) ∧
          ((t.mb m).shown 6).toNat < 4 ∧ ((t.mb m).shown 0xE).toNat < 4 ∧
          (∀ k, k ≠ m.val → t.mb k = s.mb k) ∧ ({ t with ks := { t.ks with mbs := s.ks.mbs } } : State) = s) ∧
      (∀ x : Fin 2048, s.hp.pendingBits = [x.val] → s.role ≠ 2 → s.hp.held = [] → s.holdoffOver x.val = true →
        ∃ t, exec (.registerWrite .host (BitVec.ofNat 26 (0x51000C + 16 * x.val)) (toBytes 0 4)) s = .next t ∧
          t.hp.pendingBits = [] ∧ t.out = s.out ++ [.msix x.val] ∧ t.reg (0x51000C + 16 * x.val) = 0)
  ) ∧ (
    ∀ s : State,
      (∀ p : Pier, let o := psqOff p + 0x58
        ∃ t, exec (.counterSnapshotRead (BitVec.ofNat 26 o)) s = .next t ∧
          t.out = s.out ++ [.readData o (toBytes (s.reg o).toNat 4)] ∧ t.regs = s.regs ∧
          ∀ u : State, u.hp.snapshots = t.hp.snapshots →
            exec (.counterSnapshotRead (BitVec.ofNat 26 (o + 4))) u =
              .next (u.emit (.readData (o + 4) (toBytes (s.reg (o + 4)).toNat 4)))) ∧
      (∀ a : Bar0Access, 0x502000 ≤ a.off.toNat → a.off.toNat < 0x510000 →
        ∃ t, exec (.badOffsetAccess a) s = .next t ∧
          (a.write = true → s.regsOnly t [hpOff + 4] ∧ t.reg (hpOff + 4) = s.reg (hpOff + 4) ||| 4) ∧
          (a.write = false → t = s.emit (.readData a.off.toNat (List.replicate a.size 0)))) ∧
      (∀ a : Bar0Access, 0x500000 ≤ a.off.toNat →
        ¬(a.size = 4 ∧ a.off.toNat % 4 = 0) → ¬(a.size = 8 ∧ a.off.toNat % 8 = 0) →
        ∃ t, exec (.badWidthAccess a) s = .next t ∧ t.reg (hpOff + 4) = s.reg (hpOff + 4) ||| 8 ∧
          s.regsBut t [hpOff + 4] ∧ ({ t with regs := s.regs, out := s.out } : State) = s ∧
          t.out = s.out ++ (if a.write then [] else [.readData a.off.toNat (List.replicate a.size 0xFF)])) ∧
      (∀ off, ∃ t, exec (.diagWindowWrite off) s = .next t ∧ s.regsOnly t [hpOff + 4] ∧
        t.reg (hpOff + 4) = s.reg (hpOff + 4) ||| 2)
  )

/-- A fence write takes its tag and clears QUIET: a base die closes the tag's windows, an abutment die drops the packets
it holds of the tag, and QUIET is set when no traffic with the tag remains (R266, R329). -/
def Obligations.FenceWrites : Prop :=
  (∀ (n : Stk) (tag : Tag) (s : State), (∀ e ∈ (s.stack n).windows, e.2.closing = none) →
    ∃ t, exec (.dmcFenceTag n tag) s = .next t ∧ (t.stack n).fenced = some tag.toNat ∧ (t.stack n).quiet = false ∧
      (t.reg (dmcOff n + 0x20)).toNat % 2 ^ 18 = tag.toNat ∧
      (∀ w, (s.win n w).tag = tag.toNat → (t.win n w).state = .closed) ∧
      ((∀ e ∈ (s.stack n).windows, e.2.tag ≠ tag.toNat) → t.mem = s.mem ∧ ∀ w, t.win n w = s.win n w)) ∧
  (∀ (k : Die) (tag : Tag) (s : State), (∀ d : Coll, (s.coll d).tag = tag.toNat → (s.coll d).state = .closed) →
    (∀ r ∈ (s.die k).far, r.stag ≠ tag.toNat) → (s.die k).running = none → (s.die k).jobs = [] →
    let hit (p : Packet) : Bool := decide (p.tag = tag.toNat) || decide (p.stag = tag.toNat)
    ∃ t, exec (.zlSwFenceTag k tag) s = .next t ∧ (t.die k).fenced = some tag.toNat ∧ (t.die k).quiet = false ∧
      (t.die k).held = (s.die k).held.filter (fun p => !hit p) ∧
      (t.reg (swOff k + 4)).toNat % 2 ^ 18 = tag.toNat ∧
      (t.reg (swOff k + 0x28)).toNat =
        min ((s.reg (swOff k + 0x28)).toNat + ((s.die k).held.filter hit).length) 0xFFFFFFFF ∧
      s.regsBut t [swOff k + 4, swOff k + 0x28] ∧
      (∀ j, j ≠ k.val → t.die j = s.die j) ∧ ({ t with regs := s.regs, dies := s.dies } : State) = s) ∧
  (∀ (n : Stk) (s : State), s.ks.fence = none → ∃ t, exec (.dmcFenceQuiet n) s = .next t ∧
    t.stack n = { s.stack n with quiet := true } ∧ ({ t with stks := s.stks } : State) = s) ∧
  (∀ (k : Die) (s : State), s.ks.fence = none → s.fencedTraffic k = false →
    ∃ t, exec (.switchFenceQuiet k) s = .next t ∧ t.die k = { s.die k with quiet := true } ∧
      ({ t with dies := s.dies } : State) = s)

/-! ## Transfers -/

/-- XFER, GATHER and REDUCE stand in the queue of engine TE with their addresses resolved, count as two words, and a
reserved bit gives 0x0521; a REDUCE to memory whose pair R267 does not permit gives 0x0330 (R112, R125, R129, R130,
R131, R132, R143, R267). -/
def Obligations.TransferDispatch : Prop :=
  ∀ (p : Pier) (s u : State) (r : RunTask) (w0 w1 : Nat), s.atInstr p r w0 w1 u →
    let x := u.pier p
    let q := 9 + fld w0 8 2
    let queued (c : Instr) (addrs : List Nat) (aux : Nat) : Prop :=
      (x.queue q).length < 32 →
        ∃ t, exec c s = .next t ∧ u.pierOnly t p [] ∧ (t.pier p).run = some (r.advance 2) ∧
          (t.pier p).queue q = x.queue q ++ [{ entryOf r w0 w1 with addrs := addrs, aux := aux }] ∧
          ∀ k, k ≠ q → (t.pier p).queue k = x.queue k
    let faults (c : Instr) (code : Nat) : Prop := x.fault = none →
      ∃ t f, exec c s = .next t ∧ (t.pier p).seq = .faulting ∧ (t.pier p).fault = some f ∧ f.code = code ∧
        f.ser = r.task.ser ∧ t.mem = u.mem
    let src := x.addr (fld w0 24 24)
    let dst := x.addr (fld w0 48 24)
    (opc w0 = 0x50 → xferFields 0x50 w0 w1 = true → queued (.xfer p .dispatch) [src, dst] 0) ∧
    (opc w0 = 0x54 → xferFields 0x54 w0 w1 = true →
      queued (.gather p .dispatch) [src, dst, x.addr (fld w0 72 24)] (x.base (fld w1 2 6))) ∧
    (opc w0 = 0x58 → xferFields 0x58 w0 w1 = true → reduceCheck w0 = none →
      queued (.reduce p .dispatch) [src, dst, x.addr (fld w1 32 24)] 0) ∧
    (opc w0 = 0x50 → xferFields 0x50 w0 w1 = false → faults (.xfer p .dispatch) 0x0521) ∧
    (opc w0 = 0x54 → xferFields 0x54 w0 w1 = false → faults (.gather p .dispatch) 0x0521) ∧
    (opc w0 = 0x58 → xferFields 0x58 w0 w1 = false → faults (.reduce p .dispatch) 0x0521) ∧
    (opc w0 = 0x58 → xferFields 0x58 w0 w1 = true → bit w0 18 = false → bit w0 16 = true →
      (fld w0 96 4, fld w0 100 4) ∉ [(5, 5), (5, 7), (7, 7), (8, 8), (11, 11)] → faults (.reduce p .dispatch) 0x0330)

/-- A transfer whose addresses are local and served runs at once. A one-atom XFER copies it, a one-row GATHER copies
the row that its index selects, and a plain INT32 REDUCE adds its 16 elements modulo 2^32. Each counts DONE_TC and
PSQ_PROGRESS once and leaves every other byte as it was. An XFER from a remote page asks for it and waits (R130, R131,
R132, R133, R144, R270, R325). -/
def Obligations.TransfersRun : Prop :=
  ∀ (p : Pier) (te : Te) (s : State) (e : Entry) (o n m : Nat), s.atHead p (9 + te.val) o e → s.xfers p te = [] →
    s.memOk → s.ltOn = false → s.badAtoms = [] → (∀ k, (s.die k).fenced = none) →
    let x := s.pier p
    let w := e.w0.toNat
    let w1 := e.w1.toNat
    let from_ (va la : Nat) : Prop := va % 64 = 0 ∧ s.translate x.tag va .rd = .here la ∧ s.stackServes n la x.tag false
    let done (c : Instr) (dst len : Nat) (v : Nat → Byte) : Prop :=
      ∃ t, exec c s = .next t ∧ s.progressed t p 1 ∧ t.memOk ∧ s.xfers p te = t.xfers p te ∧
        (t.pier p).queue (9 + te.val) = (x.queue (9 + te.val)).drop 1 ∧
        (∀ c, t.tc p c = if c = fld w 10 6 then (s.tc p c + 1) % 2 ^ 32 else s.tc p c) ∧
        (∀ i, i < len → Memory.read t.mem (dst + i) = v i) ∧
        (∀ a, (a < dst ∨ dst + len ≤ a) → Memory.read t.mem a = Memory.read s.mem a)
    (∀ src dst, o = 0x50 → fld w 72 24 = 0 → fld w 96 16 = 0 → bit w 22 = false → e.addr 0 < 2 ^ 41 → e.addr 1 < 2 ^ 41 →
      from_ (e.addr 0) src → e.addr 1 % 64 = 0 → s.translate x.tag (e.addr 1) .wr = .here dst →
      s.stackServes m dst x.tag false →
      done (.xfer p (.run te)) dst 64 fun i => Memory.read s.mem (src + i)) ∧
    (∀ src dst idx, o = 0x54 → fld w 96 16 = 0 → fld w1 8 24 = 0 → bit w 16 = false → e.addr 1 < 2 ^ 41 →
      e.addr 2 < 2 ^ 41 → e.addr 2 % 4 = 0 → s.translate x.tag (e.addr 2) .rd = .here idx →
      (∃ k, s.stackServes k idx x.tag false) →
      from_ ((e.addr 0 + 64 * ofBytes (Memory.readList s.mem idx 4) * fld w1 32 24) % 2 ^ 64) src →
      e.addr 1 % 64 = 0 → s.translate x.tag (e.addr 1) .wr = .here dst → s.stackServes m dst x.tag false →
      done (.gather p (.run te)) dst 64 fun i => Memory.read s.mem (src + i)) ∧
    (∀ src dst, o = 0x58 → fld w 72 24 = 0 → fld w 16 3 = 0 → fld w 96 8 = 0xBB → fld w 112 16 = 0 →
      e.addr 0 < 2 ^ 41 → e.addr 1 < 2 ^ 41 → from_ (e.addr 0) src → e.addr 1 % 64 = 0 →
      s.translate x.tag (e.addr 1) .red = .here dst → s.stackServes m dst x.tag false →
      done (.reduce p (.run te)) dst 64 fun i =>
        let sum := (ofBytes (Memory.readList s.mem (dst + i / 4 * 4) 4) +
          ofBytes (Memory.readList s.mem (src + i / 4 * 4) 4)) % 2 ^ 32
        BitVec.ofNat 8 (sum / 256 ^ (i % 4))) ∧
    (∀ module src rtag dst, o = 0x50 → fld w 72 24 = 0 → fld w 96 16 = 0 → e.addr 0 < 2 ^ 41 → e.addr 1 < 2 ^ 41 →
      e.addr 0 % 64 = 0 → e.addr 1 % 64 = 0 →
      s.translate x.tag (e.addr 0) .rd = .far module src rtag → s.translate x.tag (e.addr 1) .wr = .here dst →
      ∃ t q, exec (.xfer p (.run te)) s = .next t ∧ t.mem = s.mem ∧ q ∈ (t.die (p.val % 4)).far ∧ q.dst = module ∧
        q.addr = src ∧ q.tag = rtag ∧ q.stag = x.tag ∧ q.len = 64 ∧ q.raddr = dst ∧
        ∃ y, t.xfers p te = [y] ∧ y.waiting = [q.txid] ∧ y.fault = none)

/-- A refused chunk that is accepted when it is repeated lets its REDUCE complete, and one refused again is kept (R133,
R275). For a stopped row the keystone reads the block at the row's place in the holder's slot: here, where a copy that
passes its check is written and the GATHER goes on, or by a READ to another holder under its tag; with no valid source the
GATHER faults with 0x0543, and with no stopped row nothing is due (log entry 41; R352, R356, R357, R359). A row's request
that times out is counted and issued again (R358). -/
def Obligations.RepeatsAndShardRepair : Prop :=
  (∀ (p : Pier) (te : Te) (s : State), (∀ y ∈ s.xfers p te, y.refetch = none ∨ y.fault ≠ none) →
    exec (.shardRefetch p te) s = .next s) ∧
  (∀ (p : Pier) (te : Te) (s : State) (y : Transfer), s.xfers p te = [y] → y.fault = none → y.begun = true →
    y.todo = [] → y.unread = none → y.behind = [] →
    let e := y.entry
    let w := e.w0.toNat
    (∀ (c : ChunkReq) (u : State), opc w = 0x58 → y.waiting = [] →
      y.refused = [{ req := c, remote := none, coll := none }] →
      s.crossFenced p c.dst.toNat c.tag.toNat = none →
      let z := s.updXfer p te y.id fun y => { y with refused := [] }
      (z.chunkServe c = (.accepted, u) → ∃ t, exec (.chunkRepeat p te) s = .next t ∧ t.xfers p te = [] ∧ t.mem = u.mem ∧
        s.progressed t p 1 ∧ t.tc p (fld w 10 6) = (s.tc p (fld w 10 6) + 1) % 2 ^ 32) ∧
      (z.chunkServe c = (.refusedChunk, u) → ∃ t, exec (.chunkRepeat p te) s = .next t ∧ t.xfers p te = [y] ∧
        t.mem = s.mem)) ∧
    (opc w = 0x54 → bit w 16 = true → fld e.w1.toNat 8 24 = 0 → y.waiting = [] → y.refused = [] →
      y.refetch = some { next := 0, got := [], waiting := none, expelled := false } → y.nextRow ≤ fld w 96 16 →
      (∀ d0, s.shardSource y.tag y.wantShard 0 = some d0 →
        let from_ := srcSlot d0 y.wantVersion + s.rowOffset y
        (∀ n m la, srcModule d0 = s.moduleId → from_ % 64 = 0 → s.stackServes n from_ (srcTag d0) false →
          let d := Memory.readList s.mem from_ 64
          y.nextRow = fld w 96 16 → leAt d 8 4 = y.wantShard → leAt d 4 4 = y.index y.nextRow →
          leAt d 0 4 = y.wantVersion → 0 < leAt d 12 4 → y.gDst y.nextRow % 64 = 0 →
          s.translate y.tag (y.gDst y.nextRow) .wr = .here la → s.stackServes m la y.tag false → s.memOk → s.badAtoms = [] →
          s.ltOn = false → (∀ k, (s.die k).fenced = none) →
          ∃ t, exec (.shardRefetch p te) s = .next t ∧ t.xfers p te = [] ∧ s.progressed t p 1 ∧
            Memory.readList t.mem la 64 = d ∧
            ∀ a, (a < la ∨ la + 64 ≤ a) → Memory.read t.mem a = Memory.read s.mem a) ∧
        (srcModule d0 ≠ s.moduleId →
          ∃ t r, exec (.shardRefetch p te) s = .next t ∧ t.mem = s.mem ∧ r ∈ (t.die (p.val % 4)).far ∧
            r.txid = s.ks.txid % 2 ^ 32 ∧ r.packet.type = 2 ∧ r.dst = srcModule d0 ∧ r.tag = srcTag d0 ∧ r.stag = y.tag ∧
            r.addr = from_ ∧ r.len = 64 ∧ r.unit = .refetch p te y.id ∧
            ∃ z, t.xfers p te = [{ y with refetch := some z }] ∧ z.next = 1 ∧ z.waiting = some r.txid)) ∧
      ((s.pier p).fault = none → (∀ j, j < 3 → s.shardSource y.tag y.wantShard j = none) →
        ∃ t f, exec (.shardRefetch p te) s = .next t ∧
          (t.pier p).fault = some f ∧ f.code = 0x0543 ∧ f.ser = e.ser ∧ t.mem = s.mem)) ∧
    (∀ k r tx, opc w = 0x54 → bit w 16 = true → y.waiting = [tx] → s.farFind tx = some (k, r) → r.packet.type = 2 →
      r.txid = tx → tx ≠ s.ks.txid % 2 ^ 32 → r.packet.dst ≠ s.moduleId →
      ∃ t y' r', exec (.shardTimeout p te) s = .next t ∧ t.xfers p te = [y'] ∧ y'.waiting = [s.ks.txid % 2 ^ 32] ∧
        r' ∈ (t.die k).far ∧ r'.txid = s.ks.txid % 2 ^ 32 ∧ r'.addr = r.packet.addr ∧ r'.unit = r.unit ∧
        (t.reg (rshOff 0 + 0x58)).toNat = min ((s.reg (rshOff 0 + 0x58)).toNat + 1) 0xFFFFFFFF ∧
        ∃ rec ∈ t.ks.records, rec.code = 0x0544 ∧ rec.error = false))

/-! ## Links and span time -/

/-- Each lane of step 1 is a unit of ZL_TRAIN.DONE, the 16 of them end the step, step 2 ends with this end's TRAIN
flits, and the later steps advance DONE to 20 and bring the link UP with event 0x0401; a role that does not match the
peer's leaves it DOWN with 0x0404; a step that passes its limit leaves it FAILED with 0x0403, and 1 s later it trains
again (R296, R297, R346). An UP link with nothing unacknowledged or waiting leaves service on a loss of lock, on 32 µs
without a side frame, on RETRAIN and when EN is cleared: ZL_ERR.DOWN is set, 0x0402 names the cause, and the link trains
again from step 1 where it may. Setting EN lets a DOWN link train (R296, R305, R346). -/
def Obligations.LinkService : Prop :=
  (
    ∀ (l : Lnk) (info : TrainInfo) (s : State), (s.link l).ctrlMb = none →
      let x := s.link l
      let done (t : State) : Nat := (t.reg (zlOff l + 0x14)).toNat / 2 ^ 16 % 32
      let quiet (t : State) : Prop := ({ t with regs := s.regs, links := s.links } : State) = s
      (s.mayTrain l = true → x.phase = .training →
        (x.step = 1 → ∃ t, exec (.linkTrainingStep l info) s = .next t ∧ quiet t ∧
          done t = laneCount (x.lanes ||| info.lanes) ∧
          t.link l = { x with lanes := x.lanes ||| info.lanes,
                              step := if laneCount (x.lanes ||| info.lanes) = 16 then 2 else 1 }) ∧
        (x.step = 2 → ∃ t, exec (.linkTrainingStep l info) s = .next t ∧ t.link l = { x with step := 3 } ∧ done t = 17 ∧
          quiet { t with out := s.out } ∧ ∃ fw, t.out = s.out ++ [.train l s.moduleId x.role fw]) ∧
        (x.step = 3 → s.roleOk l info = true → ∃ t, exec (.linkTrainingStep l info) s = .next t ∧ quiet t ∧ done t = 18 ∧
          t.link l = { x with step := 4, peerModule := info.module.toNat, peerLink := info.link.toNat, peerValid := true,
                              peerFw := info.firmware.toNat }) ∧
        (x.step = 3 → x.role % 8 ≠ info.dim.toNat →
          ∃ t, exec (.linkTrainingStep l info) s = .next t ∧ (t.link l).phase = .down ∧
            (t.reg (zlOff l + 8)).getLsbD 1 = true ∧ ∃ rec ∈ t.ks.records, rec.code = 0x0404 ∧ rec.error = true) ∧
        (x.step = 4 → ∃ t, exec (.linkTrainingStep l info) s = .next t ∧ t.link l = { x with step := 5 } ∧ done t = 19 ∧
          quiet t) ∧
        (x.step = 5 → s.ks.truss.member = false → ∃ t, exec (.linkTrainingStep l info) s = .next t ∧ done t = 20 ∧
          t.link l = { x with phase := .up } ∧ t.mem = s.mem ∧ ∃ rec ∈ t.ks.records, rec.code = 0x0401 ∧ rec.error = false)) ∧
      (x.phase = .training → ∃ t, exec (.trainingTimeout l) s = .next t ∧ t.link l = { x with phase := .failed } ∧
        (t.reg (zlOff l + 8)).getLsbD 0 = true ∧ ∃ rec ∈ t.ks.records, rec.code = 0x0403 ∧ rec.error = true) ∧
      (x.phase = .failed → s.mayTrain l = true → ∃ t, exec (.trainingRetry l) s = .next t ∧
        t.link l = { LinkState.reset with phase := .training, step := 1, roleBad := x.roleBad,
                                          role := (s.reg (zlOff l + 0xC)).toNat } ∧ done t = 0 ∧ quiet t)
  ) ∧ (
    ∀ (l : Lnk) (s : State), (s.link l).ctrlMb = none → s.ks.truss.member = false →
      let x := s.link l
      let left (c : Instr) (cause : Nat) (phase : LinkPhase) : Prop :=
        ∃ t rec, exec c s = .next t ∧ (t.reg (zlOff l + 8)).getLsbD 2 = true ∧
          t.link l = { LinkState.reset with phase := phase, step := if phase = .training then 1 else 0,
                                            roleBad := x.roleBad, role := (s.reg (zlOff l + 0xC)).toNat } ∧
          rec ∈ t.ks.records ∧ rec.code = 0x0402 ∧ rec.error = true ∧ leAt rec.detail 0 1 = l.val ∧
          leAt rec.detail 5 1 = cause ∧ t.mem = s.mem ∧
          ∀ k, k ≠ l.val → ∃ q, t.link k = { s.link k with txq := q } ∧
            q.map (fun f => { f with held := false }) = (s.link k).txq.map fun f => { f with held := false }
      (x.phase = .up → x.unacked = [] → x.txq = [] →
        (s.mayTrain l = true → left (.lockLoss l) 0 .training ∧ left (.sideFrameSilence l) 2 .training ∧
          left (.zlCtrlRetrain l) 4 .training) ∧
        (s.mayTrain l = false → left (.lockLoss l) 0 .down ∧ left (.sideFrameSilence l) 2 .down ∧
          left (.zlCtrlRetrain l) 4 .down) ∧
        left (.zlCtrlEn l false) 4 .down) ∧
      (x.phase = .down → s.isRunning = true → s.linkOff l = false → x.roleBad = false →
        ∃ t, exec (.zlCtrlEn l true) s = .next t ∧ (t.reg (zlOff l)).getLsbD 0 = true ∧
          t.link l = { LinkState.reset with phase := .training, step := 1, role := (s.reg (zlOff l + 0xC)).toNat } ∧
          ({ t with regs := s.regs, links := s.links } : State) = s)
  )

/-- A slot is bad where a message bit of it lies in an uncorrectable codeword of its pair; it sets DISCARD and is
answered with NAK. In a good slot a flit that is next in sequence is accepted and answered with ACK; one out of
sequence, or while the link discards, is not; a REPLAY ends the discarding at its SEQ, and a RETRAIN takes the link out
of service. Each slot is answered by one that carries, in this order, a REPLAY that is due, a flit sent again, or a
waiting flit (log entry 37). A replay is counted and starts from ACKSEQ. A RESYNC frame acknowledges what lost slots
acknowledged (R294, R298, R299, R300, R301, R302, R303, R316). -/
def Obligations.SlotsAndReplay : Prop :=
  ∀ (l : Lnk) (s : State), (s.link l).phase = .up → (∀ v ∈ (s.link l).owed, v < 4) →
    let x := s.link l
    let fresh := x.rxSlot = 0 ∨ x.rxSlot = 2
    (∀ y : Slot, s.ltOn = false →
      let bad := (fresh ∧ y.codeword = .uncorrectable) ∨ (x.rxSlot ≠ 0 ∧ x.rxBad = true)
      let plain := y.sideband.getLsbD 5 = false ∧ y.sideband.getLsbD 6 = false ∧ y.sideband.getLsbD 7 = false
      (bad → ∃ t b body, exec (.slotReceived l y) s = .next t ∧ (t.link l).discard = true ∧ (t.link l).rxSeq = x.rxSeq ∧
        (t.link l).arriveSeq = x.arriveSeq ∧ Out.slot l b body ∈ t.out ∧ bit b 6 = true ∧ bit b 7 = false ∧
        (t.reg (zlOff l + 0x2C)).toNat = min ((s.reg (zlOff l + 0x2C)).toNat +
          if fresh ∧ y.codeword = .uncorrectable then 1 else 0) 0xFFFFFFFF ∧
        (x.replayDue = true → ∃ vc, body = replayBody x.ackSeq vc ∧ bit b 2 = true ∧ (t.link l).resend = x.unacked ∧
          (t.link l).replayDue = false ∧ ∀ f r, x.unacked = f :: r → vc = f.vc) ∧
        (∀ f r, x.replayDue = false → x.resend = f :: r → body = f.body ∧ (t.link l).resend = r ∧
          (t.link l).unacked = x.unacked ∧ (t.link l).txq = x.txq ∧
          t.reg64 (zlOff l + 0x18) = (s.reg64 (zlOff l + 0x18) + 1) % 2 ^ 64) ∧
        (∀ f, x.replayDue = false → x.resend = [] → x.unacked.length < 512 → x.txq = [f] → f.first = true → f.input < 25 →
          f.held = false → x.credit f = true → f.vc ∉ x.txOpen →
          body = f.body ∧ bit b 2 = false ∧ Out.packet l f.pkt ∈ t.out ∧ (t.link l).txq = [] ∧
          (t.link l).unacked = x.unacked ++ [f]) ∧
        (x.txq = [] → (t.link l).unacked = x.unacked)) ∧
      (¬bad → plain → y.sideband.getLsbD 2 = false → x.txq = [] →
        ∃ t b body, exec (.slotReceived l y) s = .next t ∧ t.mem = s.mem ∧ (t.link l).unacked = x.unacked ∧
          t.out = s.out ++ [Out.slot l b body] ∧ bit b 6 = false ∧
          (x.discard = false → x.arriveSeq = x.rxSeq → (t.link l).rxSeq = (x.rxSeq + 1) % 2 ^ 16 ∧
            (t.link l).arriveSeq = (t.link l).rxSeq ∧ bit b 7 = true ∧
            t.reg64 (zlOff l + 0x20) = (s.reg64 (zlOff l + 0x20) + 1) % 2 ^ 64) ∧
          (x.discard = false → x.arriveSeq ≠ x.rxSeq → (t.link l).rxSeq = x.rxSeq ∧
            (t.link l).arriveSeq = (x.arriveSeq + 1) % 2 ^ 16 ∧ bit b 7 = false) ∧
          (x.discard = true → (t.link l).rxSeq = x.rxSeq ∧ (t.link l).discard = true ∧ bit b 7 = false)) ∧
      (¬bad → plain → y.sideband.getLsbD 2 = true → leAt y.body 0 1 = 1 → x.txq = [] →
        ∃ t, exec (.slotReceived l y) s = .next t ∧ t.mem = s.mem ∧ (t.link l).discard = false ∧
          (t.link l).arriveSeq = leAt y.body 2 2 ∧ (t.link l).rxSeq = x.rxSeq) ∧
      (¬bad → plain → y.sideband.getLsbD 2 = true → leAt y.body 0 1 = 2 → x.txq = [] → x.unacked = [] →
        s.ks.truss.member = false →
        ∃ t rec, exec (.slotReceived l y) s = .next t ∧ t.mem = s.mem ∧ (t.link l).phase ≠ .up ∧
          rec ∈ t.ks.records ∧ rec.code = 0x0402 ∧ rec.error = true ∧ leAt rec.detail 5 1 = 3)) ∧
    (x.unacked ≠ [] → (x.replays.filter fun t => s.elapsed < t + 100000).length < 15 →
      ∃ t, exec (.replayTimeout l) s = .next t ∧ (t.link l).phase = .up ∧ (t.link l).unacked = x.unacked ∧
        (t.link l).ackSeq = x.ackSeq ∧ (t.link l).replayDue = true ∧ t.out = s.out ∧
        (t.reg (zlOff l + 0x30)).toNat = min ((s.reg (zlOff l + 0x30)).toNat + 1) 0xFFFFFFFF) ∧
    (∀ frame n, sideOk frame = true → leAt frame 0 1 = 0 → x.ackSeq < 2 ^ 16 → n ≤ x.unacked.length → n < 2 ^ 16 →
      leAt frame 1 2 = (x.ackSeq + n) % 2 ^ 16 → x.txq = [] →
      ∃ t, exec (.resync l frame) s = .next t ∧ (t.link l).unacked = x.unacked.drop n ∧
        (t.link l).ackSeq = leAt frame 1 2 ∧ ({ t with links := s.links } : State) = s)

/-- A TIME frame from the parent that answers a frame sent within 8 µs steps the count once by half the round-trip
difference, in units of 1/8 ns, and raises 0x0440; one from another link, or in HOLDOVER, changes no count. The loss of
the parent is HOLDOVER with 0x0441 and takes the alternative parent where it is UP. A PPS edge sets the root's rate
within 200 ppm and a missing one raises 0x0442. Replicas are trimmed to within 2 ns, and TS_SET loads the count of a
free root (R26, R340, R341, R343, R344, R349). -/
def Obligations.SpanTimeEvents : Prop :=
  ∀ s : State,
    let root := s.ts.parent = 31
    (∀ (l : Lnk) (f : TimeFrame), s.ts.parent = l.val → (s.link l).phase = .up → s.ts.phase = .acquiring →
      (l.val, f.echo) ∈ s.ts.sent → f.t4 ≤ f.echo + 64000 → s.ts.stepped = false →
      ∃ t rec, exec (.time l f) s = .next t ∧ t.ts.stepped = true ∧ t.ts.depth = f.depth + 1 ∧
        t.ts.count = s.ts.count + BitVec.ofInt 64 (divNear (((f.rx : Int) - f.echo) + ((f.tx : Int) - f.t4)) 16) ∧
        rec ∈ t.ks.records ∧ rec.code = 0x0440 ∧ rec.error = false ∧ t.mem = s.mem) ∧
    (∀ (l : Lnk) (f : TimeFrame), s.ts.parent ≠ l.val → ∃ t, exec (.time l f) s = .next t ∧ t.ts = s.ts ∧
      ({ t with links := s.links } : State) = s) ∧
    (∀ (l : Lnk) (f : TimeFrame), s.ts.phase = .holdover → ∃ t, exec (.time l f) s = .next t ∧ t.ts.count = s.ts.count ∧
      t.ts.stepped = s.ts.stepped ∧ t.mem = s.mem) ∧
    (¬root → (s.ts.phase = .acquiring ∨ s.ts.phase = .locked) →
      let alt := (s.reg (tsOff + 8)).toNat / 32 % 32
      let take := alt < 24 ∧ (s.link alt).phase = .up
      ∃ t rec, exec .spanTimeHoldover s = .next t ∧ t.ts.phase = .holdover ∧ t.ts.count = s.ts.count ∧
        (take → t.ts.parent = alt) ∧ (¬take → t.ts.parent = s.ts.parent) ∧ rec ∈ t.ks.records ∧ rec.code = 0x0441 ∧
        rec.error = true ∧ (t.reg (tsOff + 0xC)).getLsbD 0 = true) ∧
    (root → (s.reg (tsOff + 8)).getLsbD 10 = true →
      (∃ t, exec .ppsEdge s = .next t ∧ s.regsBut t [tsOff + 0x28] ∧ t.ts = { s.ts with ppsSeen := some s.elapsed } ∧
        -200000 ≤ (t.reg (tsOff + 0x28)).toInt ∧ (t.reg (tsOff + 0x28)).toInt ≤ 200000 ∧
        (s.ts.count.toNat % 10 ^ 9 ≤ 200000 →
          (t.reg (tsOff + 0x28)).toInt = -((s.ts.count.toNat % 10 ^ 9 : Nat) : Int))) ∧
      (∃ t rec, exec .ppsMissing s = .next t ∧ (t.reg (tsOff + 0xC)).getLsbD 1 = true ∧ t.ts.ppsSeen = none ∧
        t.reg (tsOff + 0x28) = 0 ∧
        rec ∈ t.ks.records ∧ rec.code = 0x0442 ∧ rec.error = true)) ∧
    (∃ t, exec .replicaTrim s = .next t ∧ t.ts.count = s.ts.count ∧ t.ts.replica.get 0 33 = 0 ∧
      ∀ d, d < 36 → -2 ≤ t.ts.replica.get 0 d ∧ t.ts.replica.get 0 d ≤ 2) ∧
    (∀ v, root → s.ts.phase = .free → exec (.tsSetCount v) s = .next { s with ts := { s.ts with count := v } }) ∧
    (∀ v, (¬root ∨ s.ts.phase ≠ .free) → exec (.tsSetCount v) s = .next s)

/-! ## Packets -/

/-- A header flit of a link that is not UP, and a RESUME, change nothing here. A header that fails HCRC or has an
unknown TYPE is dropped with 0x0412, and a packet with the fenced tag is dropped and counted. Any other goes as its
route says: one for this module is delivered at its die, unless its source is no member; one for another module takes
its class and waits at the link its route selects with HOPS one higher; one that no route takes, or whose HOPS have run
out, is counted, and a request is recorded with 0x0410 or 0x0411. What goes no further frees its input entries (R300,
R306, R307, R310, R311, R313, R315, R316, R319, R329, R495, R557). -/
def Obligations.HeaderFlits : Prop :=
  ∀ (src : FlitSrc) (header payload : List Byte) (s : State),
    let p := parseHeader header payload
    let c := Instr.headerFlit src header payload
    (∀ l : Lnk, src = .link l → (s.link l).phase ≠ .up → exec c s = .next s) ∧
    (∀ k inp : Nat, ((∃ d : Die, src = .unit d ∧ k = d.val ∧ inp = 24) ∨
        ∃ l : Lnk, src = .link l ∧ k = l.val / 6 ∧ inp = l.val ∧ (s.link l).phase = .up) →
      let die : Nat := match s.routeOf p with
        | .out m => if inp = 24 then m / 6 else k
        | .here => k
        | .noRoute => k
        | .hopLimit => k
      let good := hcrcOk header = true ∧ typeKnown p.type = true
      let ends (P : State → Prop) : Prop := ∃ t, exec c s = .next t ∧ t.mem = s.mem ∧ P t
      let freed (t : State) : Prop := inp < 24 → (t.link inp).owed = (s.link inp).owed ++ List.replicate p.flits p.vc
      let counted (t : State) (o : Nat) : Prop := (t.reg o).toNat = min ((s.reg o).toNat + 1) 0xFFFFFFFF
      (hcrcOk header = true → p.type = 0 → inp < 24 → exec c s = .next s) ∧
      ((hcrcOk header = false ∨ (typeKnown p.type = false ∧ (p.type ≠ 0 ∨ inp = 24))) → ends fun t => freed t ∧
        (t.reg (swOff k + 0xC)).getLsbD 2 = true ∧ counted t (swOff k + 0x24) ∧ t.dies = s.dies ∧
        ∃ rec ∈ t.ks.records, rec.code = 0x0412 ∧ rec.error = true) ∧
      (good → (s.die die).fences p = true → ends fun t => freed t ∧ counted t (swOff die + 0x28) ∧ t.dies = s.dies ∧
        t.out = s.out) ∧
      (good → (s.die die).fences p = false →
        (s.routeOf p = .here → s.nonMember p = false → ends fun t => freed t ∧ (t.die k).inbox = (s.die k).inbox ++ [p] ∧
          t.reg64 (swOff k + 0x10) = (s.reg64 (swOff k + 0x10) + 1) % 2 ^ 64) ∧
        (s.routeOf p = .here → s.nonMember p = true → ends fun t => freed t ∧ t.dies = s.dies ∧ counted t (swOff k + 0x28)) ∧
        (∀ m, s.routeOf p = .out m → ends fun t => ∃ q, (t.link m).txq = (s.link m).txq ++ flitsOf q inp p.vc ∧
          q = { p with vc := (if p.isReq then 0 else 2) + b2n (s.leaveB p (if inp < 24 then some inp else none) m),
                       hops := p.hops + 1 } ∧
          t.dies = s.dies ∧ t.out = s.out ∧ t.reg64 (swOff die + 0x10) = (s.reg64 (swOff die + 0x10) + 1) % 2 ^ 64) ∧
        (s.routeOf p = .noRoute → p.isReq = true → ends fun t => (t.reg (swOff k + 0xC)).getLsbD 0 = true ∧
          ∃ rec ∈ t.ks.records, rec.code = 0x0410 ∧ rec.error = true) ∧
        (s.routeOf p = .hopLimit → p.isReq = true → ends fun t => (t.reg (swOff k + 0xC)).getLsbD 1 = true ∧
          ∃ rec ∈ t.ks.records, rec.code = 0x0411 ∧ rec.error = true) ∧
        (s.routeOf p = .noRoute → p.isReq = false → ends fun t => freed t ∧ counted t (swOff k + 0x1C) ∧ t.ks = s.ks) ∧
        (s.routeOf p = .hopLimit → p.isReq = false → ends fun t => freed t ∧ counted t (swOff k + 0x20) ∧ t.ks = s.ks)))

/-- A delivered request is served and answered. A WRITE stores its bytes under its TAG as a peer's and is answered ACK;
a READ is answered RDATA with the bytes; a CHUNK is answered ACK, REFUSED or NACK as its window answers; a COLL for a
descriptor that is not OPEN, or of the round after, is refused whole, and one of another epoch or round is answered NACK
(log entry 138); a MSG is answered ACK and left to its owner; a counting packet makes one increment for each full SLOT.
With no packet of its type at the head of a path, each row changes nothing (R275, R307, R325, R326, R333, R364, R365).
-/
def Obligations.RequestsServed : Prop :=
  ∀ (k : Die) (s : State) (p : Packet) (n : Nat),
    let taken := s.inboxTake k p
    let answered (c : Instr) (u : State) (type status : Nat) (d : List Byte) : Prop :=
      exec c s = .next (u.answer k p type status d)
    (∀ c ty, (c, ty) ∈ [(Instr.writePacket k, 1), (.readPacket k, 2), (.chunkPacket k, 3), (.coll k, 4), (.msg k, 5)] →
      s.inboxFirst k ty = none → exec c s = .next s) ∧
    (s.inboxFirst k 1 = some p → s.lrMatch k p = none → s.stackServes n p.addr p.tag true → p.addr % 64 = 0 →
      p.payload.length = 64 → s.memOk → s.badAtoms = [] →
      ∃ u, answered (.writePacket k) u 0x81 0 [] ∧ u.memOk ∧
        (∀ i, i < 64 → Memory.read u.mem (p.addr + i) = p.payload.getD i 0) ∧
        (∀ a, (a < p.addr ∨ p.addr + 64 ≤ a) → Memory.read u.mem a = Memory.read s.mem a) ∧
        taken.memOnly u [dmcOff n + 0x30, dmcOff n + 0x34]) ∧
    (s.inboxFirst k 2 = some p → bit (s.serveWord k (tagCtx p.tag) 1) 1 = false → s.stackServes n p.addr p.tag true →
      p.addr % 64 = 0 → p.len = 64 → s.ltOn = false → s.badAtoms = [] →
      ∃ u, answered (.readPacket k) u 0x82 0 (Memory.readList s.mem p.addr 64) ∧
        taken.memOnly u [dmcOff n + 0x28, dmcOff n + 0x2C] ∧ u.mem = s.mem) ∧
    (∀ c u, s.inboxFirst k 3 = some p → bit (leAt p.spec 10 1) 0 = true → packetChunks p = [c] →
      (taken.chunkServe c = (.accepted, u) → answered (.chunkPacket k) u 0x81 0 []) ∧
      (taken.chunkServe c = (.refusedChunk, u) → answered (.chunkPacket k) u 0x83 0 (toBytes 1 64)) ∧
      (taken.chunkServe c = (.stale, u) → answered (.chunkPacket k) u 0x84 0x0304 []) ∧
      (∀ code, taken.chunkServe c = (.fault code, u) → answered (.chunkPacket k) u 0x84 code [])) ∧
    (s.inboxFirst k 4 = some p →
      let d := leAt p.spec 10 1
      let x := s.coll d
      let count := leAt p.spec 8 2
      ((x.state ≠ .opn ∨ x.tag ≠ p.tag) →
        answered (.coll k) (taken.bump (swOff (d % 4) + 0x3C) count) 0x83 0 (toBytes (2 ^ count - 1) 64)) ∧
      (x.state = .opn → x.tag = p.tag → p.epoch ≠ x.epoch →
        answered (.coll k) (taken.bump (swOff k + 0x28) 1) 0x84 0x0304 []) ∧
      (x.state = .opn → x.tag = p.tag → p.epoch = x.epoch → leAt p.spec 2 2 ≠ x.round →
        (leAt p.spec 2 2 = (x.round + 1) % 2 ^ 16 →
          answered (.coll k) (taken.bump (swOff (d % 4) + 0x3C) count) 0x83 0 (toBytes (2 ^ count - 1) 64)) ∧
        (leAt p.spec 2 2 ≠ (x.round + 1) % 2 ^ 16 → answered (.coll k) taken 0x84 0x0431 [])) ∧
      (∀ taken' u, x.state = .opn → x.tag = p.tag → p.epoch = x.epoch → leAt p.spec 2 2 = x.round → count = 1 →
        p.payload.length ≤ (if x.op = 0 then x.outBytes 4096 else 4096) → 0 < p.payload.length →
        taken.collChunk d (leAt p.spec 11 1) (leAt p.spec 0 2 % 8192) (leAt p.spec 4 4) p.payload = (taken', u) →
        (taken' = true → answered (.coll k) u 0x81 0 []) ∧
        (taken' = false → answered (.coll k) u 0x83 0 (toBytes 1 64)))) ∧
    (s.inboxFirst k 5 = some p → s.ks.phase ≠ .held → leAt p.spec 0 2 ≠ 0x0700 →
      ∃ u, answered (.msg k) u 0x81 0 [] ∧ (u.die k).msgs = (s.die k).msgs ++ [p] ∧
        ({ u with dies := s.dies } : State) = s) ∧
    (∀ i len, (s.die k).counts = [(i, len, true)] → 0 < s.lrSlot k i → s.lrWord k i 5 + len < 2 ^ 32 → i < 16 →
      ∃ t, exec (.landingCount k) s = .next t ∧ (t.die k).counts = [] ∧
        (t.reg (rshOff k + 0x100 + 32 * i + 20)).toNat = (s.lrWord k i 5 + len) % s.lrSlot k i ∧
        t.tallies = s.tallies ++ (if s.lrWord k i 5 + len < s.lrSlot k i then [] else
          [{ src := 32 + k.val, dst := s.lrPier k i, tag := s.lrTag k i, tc := s.lrTc k i,
             inc := (((s.lrWord k i 5 + len) / s.lrSlot k i : Nat) : Int) }]))

/-- An answer ends its request: an ACK and an RDATA let the transfer that waits for it go on, the data written at RADDR
under the request's STAG; the chunks marked in a REFUSED are kept to be sent again; a NACK and a timeout fault the task
with the status. With no answer of its type each row changes nothing, and an answer to no request is counted in
ZL_SW_STALE (R133, R275, R325, R326, R327, R556). -/
def Obligations.AnswersTaken : Prop :=
  ∀ (k : Die) (s : State) (a : Packet) (j : Nat) (r : FarReq) (p te : Nat) (y : Transfer),
    let unknown (c : Instr) : Prop := s.farFind a.txid = none →
      exec c s = .next ((s.inboxTake k a).bump (swOff k + 0x28) 1)
    let ended (t : State) : Prop := t.xfers p te = [] ∧ s.progressed t p 1 ∧
      t.tc p (fld y.entry.w0.toNat 10 6) = (s.tc p (fld y.entry.w0.toNat 10 6) + 1) % 2 ^ 32 ∧
      (∀ q ∈ (t.die j).far, q.txid ≠ r.txid)
    let faulted (t : State) (code : Nat) : Prop := ∃ f, (t.pier p).fault = some f ∧ f.code = code ∧
      f.ser = y.entry.ser ∧ t.xfers p te = [] ∧ t.mem = s.mem
    (∀ c ty, (c, ty) ∈ [(Instr.ack k, 0x81), (.rdata k, 0x82), (.refused k, 0x83), (.nack k, 0x84)] →
      s.inboxFirst k ty = none → exec c s = .next s) ∧
    (s.inboxFirst k 0x81 = some a → unknown (.ack k)) ∧ (s.inboxFirst k 0x82 = some a → unknown (.rdata k)) ∧
    (s.inboxFirst k 0x83 = some a → unknown (.refused k)) ∧ (s.inboxFirst k 0x84 = some a → unknown (.nack k)) ∧
    (s.farFind a.txid = some (j, r) → r.unit = .engine p te y.id → s.xfers p te = [y] → y.waiting = [r.txid] →
      y.begun = true → y.refused = [] → y.fault = none → y.fetch = [] → y.todo = [] → y.unread = none →
        y.behind = [] → opc y.entry.w0.toNat ≠ 0x54 →
      (opc y.entry.w0.toNat = 0x50 → bit y.entry.w0.toNat 22 = false) →
      (s.inboxFirst k 0x81 = some a → ∃ t, exec (.ack k) s = .next t ∧ ended t ∧ t.mem = s.mem) ∧
      (∀ n, s.inboxFirst k 0x82 = some a → r.relay = none → r.len = 64 → a.payload.length = 64 → r.raddr % 64 = 0 →
        s.stackServes n r.raddr r.stag false → s.memOk → s.badAtoms = [] →
        ∃ t, exec (.rdata k) s = .next t ∧ ended t ∧ Memory.readList t.mem r.raddr 64 = a.payload ∧
          ∀ b, (b < r.raddr ∨ r.raddr + 64 ≤ b) → Memory.read t.mem b = Memory.read s.mem b) ∧
      (∀ c, s.inboxFirst k 0x83 = some a → packetChunks r.packet = [c] → bit (ofBytes (a.payload.take 64)) 0 = true →
        ∃ t, exec (.refused k) s = .next t ∧ t.mem = s.mem ∧
          t.xfers p te = [{ y with waiting := [],
                                   refused := [{ req := c, remote := some (r.dst, r.tag), coll := none }] }]) ∧
      (s.inboxFirst k 0x84 = some a → (s.pier p).fault = none → r.stag = (s.pier p).tag →
        ∃ t, exec (.nack k) s = .next t ∧ faulted t a.status)) ∧
    (∀ id : Word32, (s.die k).far.find? (fun q => q.txid = id.toNat) = some r → r.unit = .engine p te y.id →
      s.xfers p te = [y] → y.waiting = [r.txid] → y.fault = none → (s.pier p).fault = none → r.stag = (s.pier p).tag →
      opc y.entry.w0.toNat ≠ 0x54 →
      ∃ t rec, exec (.farTimeout k id) s = .next t ∧ faulted t 0x0420 ∧ (t.reg (swOff k + 0xC)).getLsbD 3 = true ∧
        (t.reg (swOff k + 0x2C)).toNat = min ((s.reg (swOff k + 0x2C)).toNat + 1) 0xFFFFFFFF ∧
        rec ∈ t.ks.records ∧ rec.code = 0x0420 ∧ rec.error = true ∧ rec.tag = some r.stag)

/-! ## Collectives -/

/-- A round that is not complete stands. A complete one sends its DONE increment, raises 0x0432, counts and advances
ROUND; a refused packet is sent again; the tree operations are exact on integers, and a vote combines causes by OR and
ranks by minimum (R335, R336, R333, R337). -/
def Obligations.CollectiveRounds : Prop :=
  (∀ (d : Coll) (s : State), (s.coll d).complete = false → exec (.collectiveRoundComplete d) s = .next s) ∧
  (∀ (d : Coll) (s : State), (s.coll d).complete = true → (s.coll d).err = none →
    let x := s.coll d
    ∃ t, exec (.collectiveRoundComplete d) s = .next t ∧ t.mem = s.mem ∧
      t.coll d = { x.clean with round := (x.round + 1) % 2 ^ 16 } ∧ (∀ k, k ≠ d.val → t.coll k = s.coll k) ∧
      (t.reg (swOff (d.val % 4) + 0x34)).toNat = min ((s.reg (swOff (d.val % 4) + 0x34)).toNat + 1) 0xFFFFFFFF ∧
      t.tallies = s.tallies ++ (if x.doneEn then
        [{ src := 32 + d.val % 4, dst := x.donePier, tag := x.tag, tc := x.doneTc, inc := x.doneInc }] else []) ∧
      (x.event = true → ∃ rec ∈ t.ks.records, rec.code = 0x0432 ∧ rec.tag = some x.tag)) ∧
  (∀ (d : Coll) (s : State) (q : Packet), (s.coll d).refused = [q] →
    ∃ t r, exec (.collChunkRepeat d) s = .next t ∧ t.mem = s.mem ∧ (t.coll d).refused = [] ∧ r ∈ (t.die (d.val % 4)).far ∧
      r.dst = q.dst ∧ r.unit = .coll d.val ∧ r.packet.payload = q.payload ∧ r.packet.spec = q.spec ∧
      (t.coll d).sent = (s.coll d).sent ++ [r.txid]) ∧
  (∀ a b : BitVec 32, treeElem 1 11 a.toNat b.toNat = (a + b).toNat ∧
    treeElem 2 11 a.toNat b.toNat = (if a.slt b then a else b).toNat ∧
    treeElem 3 11 a.toNat b.toNat = (if a.slt b then b else a).toNat ∧
    treeElem 4 11 a.toNat b.toNat = (a ||| b).toNat ∧ treeElem 5 11 a.toNat b.toNat = (a &&& b).toNat) ∧
  (∀ (epoch : Nat) (a b : List Byte), leAt a 16 1 ≠ 0 → leAt b 16 1 ≠ 0 → a.length = 64 → b.length = 64 →
    leAt (voteJoin epoch a b) 16 1 = leAt a 16 1 ||| leAt b 16 1 ∧
    leAt (voteJoin epoch a b) 20 4 = min (leAt a 20 4) (leAt b 20 4) ∧
    leAt (voteJoin epoch a b) 0 8 = leAt a 0 8)

/-! ## Reshard jobs, steps and serving -/

/-- A submission that finds eight jobs queued or an address that is not a multiple of 64 is rejected with 0x0545; one
that passes the checks joins the queue. Starting a job of one local row of 64 bytes copies it and counts the row. The
end of a job frees the engine, counts it, sends the increment that DONE_EN asks for, and raises 0x0546, or 0x0548 with
RSH_ERR for a failed one. ABORT drops every job, raises 0x0547 and counts them (R371, R374, R375, R376, R384). -/
def Obligations.ReshardJobs : Prop :=
  ∀ (k : Die) (s : State),
    (∀ addr : BitVec 48, 8 ≤ (s.die k).jobs.length ∨ addr.toNat % 64 ≠ 0 →
      ∃ t rec, exec (.rshSubmitAddr k addr) s = .next t ∧ (t.reg (rshOff k + 8)).getLsbD 0 = true ∧ t.dies = s.dies ∧
        t.mem = s.mem ∧ rec ∈ t.ks.records ∧ rec.code = 0x0545 ∧ rec.error = true) ∧
    (∀ (addr : BitVec 48) h u, (s.die k).jobs.length < 8 → s.jobCheck addr.toNat = (some h, u) →
      ∃ t, exec (.rshSubmitAddr k addr) s = .next t ∧ ({ t with dies := u.dies } : State) = u ∧
        (∀ d, d ≠ k.val → t.die d = u.die d) ∧
        t.die k = { u.die k with jobs := (u.die k).jobs ++
          [{ addr := addr.toNat, header := h, mb := none, waiting := [], rowsDone := 0, rowsTotal := 0, pieces := 0,
             report := ConvReport.reset, failed := none, bad := [] }] }) ∧
    (∀ j rest, (s.die k).running = none → (s.die k).jobs = j :: rest → (s.reg (rshOff k)).getLsbD 0 = true →
      let v := s.updDie k fun x => { x with jobs := rest, running := some j }
      (∀ u, v.jobPieces j.header = (none, u) → ∃ t, exec (.reshardJobStart k) s = .next t ∧
        ({ t with dies := u.dies } : State) = u ∧ (t.die k).jobs = rest ∧
        (t.die k).running = some { j with failed := some (j.failed.getD (0, 0x0304)), bad := 0 :: j.bad }) ∧
      (∀ d u p o q r, v.jobPieces j.header = (some [d], u) → jobCvt j.header = false → jobTT j.header = 0 →
        jobScale j.header = 0 → fmtWidth (jobSrc j.header) = 8 → fmtWidth (jobDst j.header) = 8 →
        let x := parsePiece d
        x.rows = 1 → x.cols = 64 → x.dmod = u.moduleId → x.src % 64 = 0 → x.daddr % 64 = 0 →
        place x.src = .sram p o → place x.daddr = .sram q r →
        u.owner (pageOf x.src) = ownerWord (jobTag j.header) 1 false → u.owner (pageOf x.daddr) = ownerWord x.dtag 1 false →
        x.dtag < 2 ^ 18 → u.memOk →
        ∃ t, exec (.reshardJobStart k) s = .next t ∧ (t.die k).jobs = rest ∧
          Memory.readList t.mem x.daddr 64 = Memory.readList u.mem x.src 64 ∧
          (∀ a, ¬(x.daddr ≤ a ∧ a < x.daddr + 64) → Memory.read t.mem a = Memory.read u.mem a) ∧
          (t.die k).running.map (fun y => (y.rowsDone, y.rowsTotal, y.failed)) =
            some (j.rowsDone + 1, j.rowsTotal + 1, j.failed))) ∧
    ((s.die k).running = none → exec (.reshardJobComplete k) s = .next s) ∧
    (∀ j, (s.die k).running = some j → j.waiting ≠ [] → exec (.reshardJobComplete k) s = .next s) ∧
    (((s.die k).running ≠ none ∨ (s.die k).jobs = [] ∨ (s.reg (rshOff k)).getLsbD 0 = false) →
      exec (.reshardJobStart k) s = .next s) ∧
    (∀ j, (s.die k).running = some j → j.waiting = [] → j.mb = none →
      ∃ t, exec (.reshardJobComplete k) s = .next t ∧ (t.die k).running = none ∧ (t.die k).jobs = (s.die k).jobs ∧
        (t.reg (rshOff k + 0x44)).toNat = min ((s.reg (rshOff k + 0x44)).toNat + 1) 0xFFFFFFFF ∧
        (∀ i c, j.failed = some (i, c) → (t.reg (rshOff k + 8)).getLsbD 1 = true ∧ t.tallies = s.tallies ∧
          ∃ rec ∈ t.ks.records, rec.code = 0x0548 ∧ rec.error = true ∧ rec.tag = some (jobTag j.header)) ∧
        (j.failed = none → bit (leAt j.header 3 1) 1 = true →
          ∃ rec ∈ t.ks.records, rec.code = 0x0546 ∧ rec.error = false ∧ rec.tag = some (jobTag j.header)) ∧
        (j.failed = none → t.tallies = if bit (leAt j.header 3 1) 2 then s.tallies ++
            [{ src := 32 + k.val, dst := leAt j.header 28 1, tag := jobTag j.header, tc := leAt j.header 29 1,
               inc := sext (leAt j.header 30 2) 16 }]
          else s.tallies)) ∧
    (∃ t, exec (.rshCtrlAbort k) s = .next t ∧ (t.die k).jobs = [] ∧ (t.die k).running = none ∧ t.piers = s.piers ∧
      t.owners = s.owners ∧ t.xlate = s.xlate ∧ t.tallies = s.tallies ∧
      (t.reg (rshOff k + 0x48)).toNat = min ((s.reg (rshOff k + 0x48)).toNat + (s.die k).jobs.length +
        (s.die k).running.toList.length) 0xFFFFFFFF ∧
      ((s.die k).jobs ≠ [] ∨ (s.die k).running ≠ none → ∃ rec ∈ t.ks.records, rec.code = 0x0547 ∧ rec.error = false))

/-- A waiting STEP command whose descriptor fails its checks ends with 0x0530; one that passes opens the step and its
journal entry. A gate that holds submits its entry to the pier, and one that does not submits nothing. A shard whose
DONE gate holds is sealed. A step whose work is complete and whose shards are sealed stands locally complete, sends its
root under TWIN, and contributes to the VOTE round of its GROUP and STEP that takes it; one that waits too long for its
vote reports each module it sees silent once (log entry 129). The counterpart's root is kept. A result ends the step,
frees its journal entry, clears PENDING, serves the new version where it passes, and completes STEP with the status of
the lowest cause (R206, R207, R208, R210, R231, R236, R237, R238, R240, R242). -/
def Obligations.TrainingSteps : Prop :=
  ∀ (c : CtxId) (s : State), let tag := s.ctxTag c
    ((s.ctx c).step ≠ none ∨ (s.ctx c).stepWait = [] → exec (.stepOpen c) s = .next s) ∧
    (∀ (m : Nat) rest k, (s.ctx c).step = none → (s.ctx c).stepWait = m :: rest → (s.mb m).taken = some k →
      k.opcode = 0x0506 →
      let v := s.updCtx c fun x => { x with stepWait := rest }
      let d := sliceBytes k.args 0 128
      (∀ u, v.stepCheck tag d = (none, u) →
        ∃ t, exec (.stepOpen c) s = .next t ∧ u.completed t m 0x0530 ∧ (t.ctx c).step = none) ∧
      (∀ plan u, v.stepCheck tag d = (some plan, u) → ∃ t r, exec (.stepOpen c) s = .next t ∧ (t.ctx c).step = some r ∧
        (t.ctx c).stepWait = rest ∧ r.number = leAt d 0 8 ∧ r.mb = some m ∧ r.main = plan.main ∧
        r.deferred = plan.deferred ∧ r.eval = plan.eval ∧ r.taskFault = false ∧ r.uncorrected = false ∧ r.sealed = [] ∧
        r.epoch = s.ks.truss.record.epoch ∧ r.localStamp = 0 ∧ r.contributed = none ∧
        t.ks.journal.get Journal.reset c = { state := 1, desc := d, tag := tag, epoch := s.ks.truss.record.epoch,
                                             rank := s.rankIn (leAt d 104 2), openStamp := r.openStamp })) ∧
    (∀ x e, (s.ctx c).step = some x → x.taskFault = false → x.localStamp = 0 → x.main = [e] → x.deferred = [] →
      x.eval = [] → e.waits = true → (s.pier e.pier).taskQueue.length < 8 → (s.ks.lists.filter fun l => l.ctx = c.val) = [] →
      let holds := e.held || !e.gated || tcHolds (s.tc e.pier e.gtc) e.gvalue
      ∃ t y, exec (.gateEvaluation c) s = .next t ∧ (t.ctx c).step = some y ∧ t.mem = s.mem ∧ t.colls = s.colls ∧
        (∀ p, p ≠ e.pier → t.pier p = s.pier p) ∧
        (holds = true → y.main = [{ e with held := true, ser := some (s.pier e.pier).nextSer }] ∧
          t.pier e.pier = { s.pier e.pier with
            nextSer := (s.pier e.pier).nextSer + 1,
            taskQueue := (s.pier e.pier).taskQueue ++
              [{ ser := (s.pier e.pier).nextSer, id := e.taskId, start := e.start, len := e.len }] }) ∧
        (holds = false → y.main = [{ e with held := false }] ∧ t.piers = s.piers ∧ t.regs = s.regs)) ∧
    (∀ i : Nat, (s.ctx c).step = none → exec (.shardSeal c i) s = .next s) ∧
    (∀ x (i : Nat) l u, (s.ctx c).step = some x → s.shardTab tag x.desc = (l, u) → l[i]? = none ∨ i ∈ x.sealed →
      exec (.shardSeal c i) s = .next u) ∧
    (∀ x (i : Nat) l e u, (s.ctx c).step = some x → s.shardTab tag x.desc = (l, u) → l[i]? = some e →
      x.sealed.contains i = false →
      let gate := tcHolds (u.tc (leAt e 24 1) (leAt e 25 1)) (leAt e 28 4)
      (gate = false → exec (.shardSeal c i) s = .next u) ∧
      (∀ f w, gate = true → u.sealShard tag (shadowAt e x.number) (leAt e 16 8) = (f, w) →
        ∃ t, exec (.shardSeal c i) s = .next t ∧ t.mem = w.mem ∧ t.piers = w.piers ∧
          (t.ctx c).step.map (fun y => y.sealed) = some (i :: x.sealed))) ∧
    ((s.ctx c).step = none → exec (.stepLocalCompletion c) s = .next s) ∧
    (∀ x, (s.ctx c).step = some x →
      let late := x.localStamp ≠ 0 ∧ x.localStamp + Config.voteLate.toNat ≤ s.ts.count.toNat
      let whole := ∀ i, i < leAt x.desc 56 4 → i ∈ x.sealed
      let ends (P : State → StepRun → Prop) : Prop := ∃ t y, exec (.stepLocalCompletion c) s = .next t ∧
        (t.ctx c).step = some y ∧ y.main = x.main ∧ y.taskFault = x.taskFault ∧ P t y
      (x.workDone = false → exec (.stepLocalCompletion c) s = .next s) ∧
      (x.workDone = true → x.contributed ≠ none → ¬late → exec (.stepLocalCompletion c) s = .next s) ∧
      (x.workDone = true → x.contributed ≠ none → late → ends fun t y => t.mem = s.mem ∧ t.colls = s.colls ∧
        y = { x with late := y.late } ∧ ∀ m ∈ s.silent c x, m ∈ y.late ∧
          (m ∉ x.late → ∃ rec ∈ t.ks.records, rec.code = 0x0817 ∧ rec.error = false ∧ leAt rec.detail 0 2 = m % 2 ^ 16)) ∧
      (x.workDone = true → x.contributed = none → x.taskFault = false → ¬whole →
        ends fun t y => y.contributed = none ∧ t.mem = s.mem ∧ t.colls = s.colls ∧ t.piers = s.piers) ∧
      (x.workDone = true → x.contributed = none → whole → x.twin = true → x.root = none → ends fun t y =>
        y.root = some x.shadowRoot ∧ .twinRoot (s.moduleId ^^^ 4096) x.number x.shadowRoot ∈ t.out) ∧
      (x.workDone = true → x.contributed = none → whole → x.twin = false →
        (s.voteDesc (leAt x.desc 104 2) tag x.number = none → ends fun t y => y.contributed = none ∧ t.mem = s.mem ∧
          t.colls = s.colls ∧ t.piers = s.piers ∧
          y.localStamp = if x.localStamp = 0 then (s.stamp 0 0).1 else x.localStamp) ∧
        (∀ d, s.voteDesc (leAt x.desc 104 2) tag x.number = some d → (s.coll d).state = .opn → (s.coll d).op = 6 →
          (s.coll d).mine.find 0 = none → (s.coll d).formed.find 0 = none → x.number < 2 ^ 64 →
          ((s.coll d).voteStep = none ∨ (s.coll d).voteStep = some x.number) → s.collUsed (d % 4) + 64 ≤ 8 * 2 ^ 20 →
          ends fun t y => y.contributed = some d ∧ bit y.causes 1 = x.taskFault ∧
            (t.ks.journal.get Journal.reset c).state = 2 ∧
            ∀ k, k < 4 → (t.reg (rshOff k + 0x400 + 16 * c.val + 4)).getLsbD 0 = true))) ∧
    (∀ (step : Word64) root, ∃ t, exec (.twinRootArrival c step root) s = .next t ∧
      t.ctx c = { s.ctx c with twin := some (step.toNat, sliceBytes root 0 64) } ∧ (∀ k, k ≠ c.val → t.ctx k = s.ctx k) ∧
      ({ t with ks := { t.ks with ctxs := s.ks.ctxs } } : State) = s) ∧
    (∀ x r, (s.ctx c).step = some x → x.result = some r → s.ks.fence = none → s.ks.fences = [] →
      let causes := leAt r 16 1 % 64
      ∃ t, exec (.voteResult c) s = .next t ∧ (t.ctx c).step = none ∧ (t.ctx c).twin = none ∧
        t.ks.journal.get Journal.reset c = Journal.reset ∧ t.piers = s.piers ∧
        (∀ k, k < 4 → (t.reg (rshOff k + 0x400 + 16 * c.val + 4)).getLsbD 0 = false ∧
          (causes = 0 → t.reg (rshOff k + 0x400 + 16 * c.val) = BitVec.ofNat 32 x.number)) ∧
        (∀ m k, x.mb = some m → (s.mb m).taken = some k → t.answered m (causeStatus causes))) ∧
    ((s.ctx c).step.bind (fun x => x.result) = none → s.ks.fence = none → s.ks.fences = [] →
      exec (.voteResult c) s = .next s)

/-- No step of a context is composed while INFLIGHT steps are not applied, while it is blocked or while it is not
ACTIVE; otherwise every composition adds at most one step, within SLOTS_MAX and BUDGET, whose streams then ride; one
eligible decode stream makes a step of one slot. Submission changes no step but its entries, and an entry whose gate
holds is submitted. A step applies once its entries are reported with status 0, and its streams ride no longer; a decode
slot that emits one token counts it, keeps it as the last token and commits it. A failed step leaves the list with event
0x0722. The credit word of a decode stream is read again. A packet of stream records is written to the rings of the
landing module, or answered NACK 0x0709 and sent again later (R391, R396, R400, R402, R403, R405, R407, R411, R412,
R413). -/
def Obligations.ServingSteps : Prop :=
  ∀ s : State,
    (∀ c : CtxId, (s.ctx c).serve = none → ∀ i, exec (.stepComposition c) s = .next s ∧ exec (.servingSubmit c) s = .next s ∧
      exec (.servingStepApply c) s = .next s ∧ exec (.servingStepFail c) s = .next s ∧ exec (.creditReread c i) s = .next s) ∧
    (∀ (c : CtxId) v, (s.ctx c).serve = some v → let tag := s.ctxTag c
      (s.isRunning = true → (s.ctx c).phase = .active → v.blocked = false →
        let d := v.nextDesc.getD v.desc
        v.steps.length < sdInflight d →
        ∃ t w, exec (.stepComposition c) s = .next t ∧ (t.ctx c).serve = some w ∧ w.desc = d ∧ w.nextDesc = none ∧
          t.piers = s.piers ∧
          ((w.steps = v.steps ∧ w.stepNo = v.stepNo ∧ t.ks.kv = s.ks.kv) ∨
           ∃ y, w.steps = v.steps ++ [y] ∧ w.stepNo = v.stepNo + 1 ∧ y.number = v.stepNo ∧ y.wgen = v.wgen ∧ y.desc = d ∧
             y.slots ≠ [] ∧ y.slots.length ≤ sdSlots d ∧ (y.slots.map fun z => z.n).sum ≤ sdBudget d ∧
             ∀ z ∈ y.slots, (t.stream z.stream).rides = true ∧ (t.stream z.stream).lastRode = v.stepNo + 1)) ∧
      (s.isRunning = false → exec (.servingSubmit c) s = .next s) ∧
      (s.isRunning = true → ∃ t w, exec (.servingSubmit c) s = .next t ∧ (t.ctx c).serve = some w ∧ t.mem = s.mem ∧
        t.colls = s.colls ∧ w = { v with steps := w.steps } ∧
        w.steps.map (fun y => (y.number, y.desc, y.wgen, y.slots, y.entries.length)) =
          v.steps.map (fun y => (y.number, y.desc, y.wgen, y.slots, y.entries.length))) ∧
      (∀ y rest, v.steps = y :: rest → (y.entries.all fun e => e.status.isSome && !e.bad) = true →
        ∃ t w, exec (.servingStepApply c) s = .next t ∧ (t.ctx c).serve = some w ∧ w.steps = rest ∧ t.piers = s.piers ∧
          ∀ z ∈ y.slots, (t.stream z.stream).rides = false) ∧
      (v.steps = [] ∨ (∃ y rest, v.steps = y :: rest ∧ (y.entries.all fun e => e.status.isSome && !e.bad) = false) →
        exec (.servingStepApply c) s = .next s) ∧
      (v.steps.find? ServeStep.failing = none ∨ (∃ y, v.steps.find? ServeStep.failing = some y ∧
        (y.entries.all fun e => e.ser.isNone || e.status.isSome) = false) → exec (.servingStepFail c) s = .next s) ∧
      (∀ i : BitVec 14, (s.stream i.toNat).ctx ≠ c.val ∨ (s.stream i.toNat).phase ≠ .decode →
        exec (.creditReread c i) s = .next s) ∧
      (∀ (i : BitVec 14) u, (s.stream i.toNat).ctx = c.val → (s.stream i.toNat).phase = .decode →
        s.kread tag [(sdCredit v.desc + 4 * (i.toNat - sdSbase v.desc), 4)] = (none, u) →
        exec (.creditReread c i) s = .next u) ∧
      (v.blocked = true ∨ (s.ctx c).phase ≠ .active ∨ s.isRunning = false ∨
          sdInflight (v.nextDesc.getD v.desc) ≤ v.steps.length → exec (.stepComposition c) s = .next s) ∧
      (∀ i x, s.ks.streams = [(i, x)] → x.ctx = c.val → x.phase = .decode → v.blocked = false →
        (s.ctx c).phase = .active → s.isRunning = true → v.steps.length < sdInflight v.desc →
        v.nextDesc = none → s.ks.lanes = [] →
        let u := (s.updServe c fun v => { v with desc := v.desc, nextDesc := none }).readCredit tag v.desc i
        u.eligible v.desc i = true → 1 ≤ sdSlots v.desc → 1 + x.ndraft v.desc ≤ sdBudget v.desc →
        ∃ t w y, exec (.stepComposition c) s = .next t ∧ (t.ctx c).serve = some w ∧ w.steps = v.steps ++ [y] ∧
          w.stepNo = v.stepNo + 1 ∧ y.number = v.stepNo ∧ y.wgen = v.wgen ∧ y.desc = v.desc ∧
          y.slots = [{ stream := i, gen := x.gen, epoch := (x.spepoch + 1) % 65536, kind := 0,
                       ndraft := x.ndraft v.desc, pos := x.committed,
                       n := 1 + x.ndraft v.desc }] ∧
          (t.stream i).rides = true ∧ (t.stream i).lastRode = v.stepNo + 1 ∧
          (t.stream i).spepoch = (x.spepoch + 1) % 65536 ∧ t.piers = s.piers) ∧
      (∀ y e, s.isRunning = true → v.steps = [y] → y.entries = [e] → e.waits = true → e.held = true →
        (s.pier e.pier).taskQueue.length < 8 →
        ∃ t w, exec (.servingSubmit c) s = .next t ∧ (t.ctx c).serve = some w ∧
          w.steps = [{ y with entries := [{ e with ser := some (s.pier e.pier).nextSer }] }] ∧
          (∀ p, p ≠ e.pier → t.pier p = s.pier p) ∧ t.mem = s.mem ∧
          t.pier e.pier = { s.pier e.pier with
            nextSer := (s.pier e.pier).nextSer + 1,
            taskQueue := (s.pier e.pier).taskQueue ++
              [{ ser := (s.pier e.pier).nextSer, id := e.taskId, start := e.start, len := e.len }] }) ∧
      (∀ y rest slot o u, v.steps = y :: rest → (y.entries.all fun e => e.status.isSome && !e.bad) = true →
        y.slots = [slot] → slot.kind = 0 → v.swap = none → s.ks.recs = [] →
        let x := s.stream slot.stream
        x.phase = .decode → x.gen = slot.gen → x.spepoch = slot.epoch → x.adapter = none → outOk slot x y.desc o = true →
        (s.updServe c fun v => { v with steps := rest }).kread tag [(sdOut y.desc y.number + 128 * 0, 128)] =
          (some [o], u) → leAt o 5 1 = 0 → stopToken x.req (leAt o 8 4) = false → x.emitted + 1 < x.maxNew →
        ∃ t, exec (.servingStepApply c) s = .next t ∧
          (t.ctx c).serve.map (fun w => w.steps) = some rest ∧
          t.stream slot.stream = { x with
            committed := x.committed + 1, emitted := x.emitted + 1, rides := false, fails := 0,
            prod := (x.prod + 1) % 2 ^ 32, lastToken := BitVec.ofNat 32 (leAt o 8 4),
            drafts := (List.range (leAt o 6 1)).map fun j => BitVec.ofNat 32 (leAt o (40 + 4 * j) 4) } ∧
          t.ks.recs = [] ∧ t.piers = s.piers) ∧
      (∀ y, v.steps.find? ServeStep.failing = some y → (y.entries.all fun e => e.ser.isNone || e.status.isSome) = true →
        ∃ t rec, exec (.servingStepFail c) s = .next t ∧
          (t.ctx c).serve.map (fun w => w.steps) = some (v.steps.filter fun z => z.number ≠ y.number) ∧
          rec ∈ t.ks.records ∧ rec.code = 0x0722 ∧ rec.error = false ∧ leAt rec.detail 0 8 = y.number % 2 ^ 64 ∧
          t.mem = s.mem) ∧
      (∀ (i : BitVec 14) w u, (s.stream i.toNat).ctx = c.val → (s.stream i.toNat).phase = .decode →
        s.kread tag [(sdCredit v.desc + 4 * (i.toNat - sdSbase v.desc), 4)] = (some [w], u) →
        ∃ t, exec (.creditReread c i) s = .next t ∧
          t.stream i.toNat = { u.stream i.toNat with cons := leAt w 0 4 } ∧
          (∀ k, k ≠ i.toNat → t.stream k = u.stream k) ∧ t.mem = u.mem ∧ t.piers = u.piers)) ∧
    ((∀ k, k < 4 → s.msgFirst k 0x0700 = none) → exec .streamRecords s = .next s) ∧
    (∀ (k : Die) p, s.msgFirst k 0x0700 = some p → (∀ j, j < k.val → s.msgFirst j 0x0700 = none) →
      (s.ks.phase = .held ∨ s.hp.up = false → exec .streamRecords s = .next ((s.msgTake k p).nack k p 0x0709)) ∧
      (s.ks.phase ≠ .held → s.hp.up = true → s.role ≠ 2 →
        ∃ t, exec .streamRecords s = .next t ∧ (t.die k).msgs = (s.die k).msgs.erase p ∧ t.mem = s.mem ∧
          ∀ e ∈ pieces 64 64 p.payload, e.length = 64 → ∃ r, Out.hostWrite (leAt e 0 8) r ∈ t.out ∧
            r.take 8 = (e.drop 32).take 8 ∧ r.drop 16 = e.drop 48 ∧ r.length = 32)) ∧
    ((∀ x ∈ s.ks.heldMsgs, x.1 < 4) → ∃ t, exec .recordResend s = .next t ∧ t.ks.heldMsgs = [] ∧ t.mem = s.mem ∧
      ∀ x ∈ s.ks.heldMsgs, ∃ r ∈ (t.die x.1).far, r.packet.type = 5 ∧ leAt r.packet.spec 0 2 = 0x0700 ∧
        r.packet.dst = x.2.dst ∧ r.packet.payload = x.2.payload)

/-! ## Mailboxes, events and bays -/

/-- A flip gives a free mailbox to the module and queues it; a flip or a write of an owned one is dropped with MB_WRITE.
CANCEL marks an owned mailbox and ends a taken command marked X with 0x0507. One pass of the service loop counts
KS_ALIVE and, when the immediate part of the last command has run, takes the mailbox that flipped first: a command that
fails its checks ends with the check's status, and one that passes is counted and waits for its row. PROG never falls. A
host-memory read hands its bytes to the command, and a failed access ends it with 0x050A (R430, R431, R433, R434, R435,
R436, R451, R452). -/
def Obligations.Mailboxes : Prop :=
  ∀ (m : Mbx) (s : State), let x := s.mb m
    let only (t : State) : Prop := (∀ k, k ≠ m.val → t.mb k = s.mb k) ∧
      ({ t with ks := { t.ks with mbs := s.ks.mbs } } : State) = s
    (x.owner = false → ∃ t, exec (.mailboxOwnFlip m) s = .next t ∧ t.mb m = { x with owner := true, cancel := false } ∧
      t.ks.flips = s.ks.flips ++ [m.val] ∧ only { t with ks := { t.ks with flips := s.ks.flips } }) ∧
    (x.owner = true → (∃ t, exec (.mailboxOwnFlip m) s = .next t ∧ s.regsOnly t [hpOff + 4] ∧
        t.reg (hpOff + 4) = s.reg (hpOff + 4) ||| 1) ∧
      (∀ off, ∃ t, exec (.mailboxWriteWhileOwned m off) s = .next t ∧ s.regsOnly t [hpOff + 4] ∧
        t.reg (hpOff + 4) = s.reg (hpOff + 4) ||| 1)) ∧
    (x.owner = false → exec (.mailboxCancel m) s = .next s) ∧
    (x.owner = true → x.taken = none →
      ∃ t, exec (.mailboxCancel m) s = .next t ∧ t.mb m = { x with cancel := true } ∧ only t) ∧
    (∀ k, x.owner = true → x.taken = some k → cmdX k.opcode = true →
      ∃ t, exec (.mailboxCancel m) s = .next t ∧ t.answered m 0x0507 ∧ t.mem = s.mem ∧ t.piers = s.piers) ∧
    (∀ k, x.owner = true → x.taken = some k → cmdX k.opcode = false →
      ∃ t, exec (.mailboxCancel m) s = .next t ∧ t.mb m = { x with cancel := true } ∧ only t) ∧
    (s.takes = false → exec .commandTake s = .next s) ∧
    (s.takes = true → s.ks.flips = [] ∨ s.midCommand = true → ∃ t, exec .commandTake s = .next t ∧
      s.regsOnly t [ksOff + 0x10, ksOff + 0x14] ∧ t.reg64 (ksOff + 0x10) = (s.reg64 (ksOff + 0x10) + 1) % 2 ^ 64) ∧
    (∀ rest, s.takes = true → s.midCommand = false → s.ks.flips = m.val :: rest → let k := s.copyCmd m
      let status := s.takeStatus k x.clean x.cancel
      let shown := { (if cmdR k.opcode then x.write 0x20 (toBytes 0 8) else x) with taken := some k }
      (status ≠ 0 → ∃ t, exec .commandTake s = .next t ∧
        t.answered m status ∧ t.ks.flips = rest ∧ t.mem = s.mem ∧ t.piers = s.piers) ∧
      (status = 0 → k.ask = none → ∃ t, exec .commandTake s = .next t ∧
        t.mb m = shown ∧ t.ks.flips = rest ∧
        s.regsBut t [ksOff + 0x10, ksOff + 0x14, ksOff + 0x18, ksOff + 0x1C] ∧
        t.reg64 (ksOff + 0x18) = (s.reg64 (ksOff + 0x18) + 1) % 2 ^ 64 ∧
        only { t with regs := s.regs, ks := { t.ks with flips := s.ks.flips } }) ∧
      (∀ a n, status = 0 → k.ask = some (a, n) → s.role ≠ 2 →
        (s.hp.up = true → ∃ t, exec .commandTake s = .next t ∧ t.mb m = shown ∧ t.out = s.out ++ [Out.hostRead m a n]) ∧
        (s.hp.up = false → ∃ t, exec .commandTake s = .next t ∧ t.answered m 0x050A ∧
          (t.reg (hpOff + 4)).getLsbD 4 = true))) ∧
    (∀ (done : BitVec 48) k, x.taken = some k → k.waits = true → k.total ≠ 0 →
      let d := if cmdTimed k.opcode then max k.done (min done.toNat k.total) else k.done
      ∃ t, exec (.progressUpdate m done) s = .next t ∧ only t ∧ k.done ≤ d ∧
        (t.mb m).taken = some { k with done := d } ∧ (t.mb m).read 0x20 8 = toBytes (progWord d k.total) 8) ∧
    (∀ d k a, x.taken = some k → k.waits = false → k.ask = some (a, d.length) →
      ∃ t, exec (.hostMemoryAccessDone (BitVec.ofNat 16 m.val) (some d)) s = .next t ∧
        t.mb m = { x with taken := some { k with data := some d } } ∧ only { t with regs := s.regs } ∧
        s.regsBut t [hpOff + 0x10, hpOff + 0x14] ∧
        t.reg64 (hpOff + 0x10) = (s.reg64 (hpOff + 0x10) + d.length) % 2 ^ 64) ∧
    (∀ k, x.taken = some k → ∃ t, exec (.hostMemoryAccessDone (BitVec.ofNat 16 m.val) none) s = .next t ∧
      t.answered m 0x050A ∧ (t.reg (hpOff + 4)).getLsbD 4 = true ∧ t.mem = s.mem ∧ t.piers = s.piers)

/-- The oldest record is written to the module log, or to the ring of the context its tag names; a full ring counts a
loss and marks the next record. A vector held back is sent once its HOLDOFF has passed, and not before. At a landing
module an access of the BAR2 window of a valid entry becomes a far request, one that no entry takes reads as ones with
HP_ERR; a read unanswered for 100 µs reads as ones, and an answer in time is passed on. A member carries out the
accesses its landing module sends (R441, R442, R445, R448, R449, R451). -/
def Obligations.EventsAndBays : Prop :=
  ∀ s : State,
    (s.takes = false ∨ s.ks.records = [] → exec .eventRecord s = .next s) ∧
    (∀ r l, s.takes = true → s.ks.records = r :: l → s.role = 0 → s.hp.up = true → r.tag = none → s.ks.log.set = true →
      s.ks.log.prodAddr = 0 → s.ks.log.vector = 0xFFFF → let g := s.ks.log
      (g.room ≠ 0 → ∃ t, exec .eventRecord s = .next t ∧ t.ks.records = l ∧
        t.out = s.out ++ [Out.hostWrite (g.base + 64 * (g.prod % g.size)) (r.bytes g.prod g.size g.loss)] ∧
        t.ks.log.prod = (g.prod + 1) % 2 ^ 32 ∧ t.ks.log.loss = false ∧ t.ks.log.lost = g.lost ∧ t.mem = s.mem) ∧
      (g.room = 0 → ∃ t, exec .eventRecord s = .next t ∧ t.ks.records = l ∧ t.out = s.out ∧
        t.ks.log = { g with lost := min (g.lost + 1) 0xFFFFFFFF, loss := true } ∧ (t.reg (ksOff + 0x30)).getLsbD 1 = true)) ∧
    (∀ r l tag, s.takes = true → s.ks.records = r :: l → s.role = 0 → s.hp.up = true → r.tag = some tag →
      s.ctxTag (tagCtx tag) = tag → r.error = false → let g := (s.ctx (tagCtx tag)).ring
      g.set = true → g.room ≠ 0 → g.prodAddr = 0 → g.vector = 0xFFFF →
      ∃ t, exec .eventRecord s = .next t ∧ t.ks.records = l ∧ t.ks.log = s.ks.log ∧
        t.out = s.out ++ [Out.hostWrite (g.base + 64 * (g.prod % g.size)) (r.bytes g.prod g.size g.loss)] ∧
        (t.ctx (tagCtx tag)).ring.prod = (g.prod + 1) % 2 ^ 32) ∧
    (∀ v : BitVec 11, (s.hp.held = [v.toNat] → s.holdoffOver v.toNat = false → exec (.holdoffExpiry v) s = .next s) ∧
      (s.hp.held = [v.toNat] → s.holdoffOver v.toNat = true → s.vecMasked v.toNat = false →
        ∃ t, exec (.holdoffExpiry v) s = .next t ∧ t.out = s.out ++ [.msix v.toNat] ∧ t.hp.held = [] ∧
          s.regsBut t [hpOff + 0x20] ∧ ({ t with hp := s.hp, out := s.out, regs := s.regs } : State) = s) ∧
      (s.hp.held = [] → exec (.holdoffExpiry v) s = .next s)) ∧
    (∀ (off : BitVec 36) w d, s.role ≠ 1 → exec (.bayApertureAccess off w d) s = .next s) ∧
    (∀ (off : BitVec 36) (d : List Byte), s.role = 1 → off.toNat < 63 * 2 ^ 30 →
      let e := s.hp.aperture.get ApertureEntry.reset (off.toNat / 2 ^ 30)
      let i := off.toNat % 2 ^ 30
      let id := bayId s.hp.nextBay d.length
      (e.valid = true → i + d.length ≤ e.pages * 2 ^ 21 →
        (∃ t r, exec (.bayApertureAccess off true d) s = .next t ∧ r ∈ (t.die 0).far ∧ r.packet.type = 1 ∧
          r.dst = e.module ∧ r.tag = e.tag ∧ r.addr = e.base + i ∧ r.packet.payload = d ∧ r.unit = .bay id ∧
          t.hp.bayReads = s.hp.bayReads ∧ t.mem = s.mem) ∧
        (∃ t r, exec (.bayApertureAccess off false d) s = .next t ∧ r ∈ (t.die 0).far ∧ r.packet.type = 2 ∧
          r.dst = e.module ∧ r.tag = e.tag ∧ r.addr = e.base + i ∧ r.len = d.length ∧ r.unit = .bay id ∧
          t.hp.bayReads = s.hp.bayReads ++ [id] ∧ t.mem = s.mem)) ∧
      (e.valid = false → (∃ t, exec (.bayApertureAccess off false d) s = .next t ∧
        (t.reg (hpOff + 4)).getLsbD 5 = true ∧ t.dies = s.dies ∧
        t.out = s.out ++ [.bayReply id (List.replicate d.length 0xFF)]) ∧
        (∃ t, exec (.bayApertureAccess off true d) s = .next t ∧ (t.reg (hpOff + 4)).getLsbD 5 = true ∧ t.dies = s.dies ∧
          t.out = s.out))) ∧
    (∀ id, (id ∈ s.hp.bayReads → ∃ t, exec (.bayReadTimeout id) s = .next t ∧
        t.out = s.out ++ [.bayReply id (List.replicate (id % 4096) 0xFF)] ∧ t.hp.bayReads = s.hp.bayReads.erase id ∧
        (t.reg (hpOff + 4)).getLsbD 5 = true ∧ t.mem = s.mem) ∧
      (id ∉ s.hp.bayReads → exec (.bayReadTimeout id) s = .next s)) ∧
    (∀ (k : Die) p, ((s.die k).msgs.find? fun p => inRun (leAt p.spec 0 2) 1 4) = some p → leAt p.spec 0 2 = 1 →
      (leAt p.payload 0 1 = 2 → leAt p.payload 1 4 ∈ s.hp.bayReads → ∃ t, exec (.bayMsg k) s = .next t ∧
        t.out = s.out ++ [.bayReply (leAt p.payload 1 4) (p.payload.drop 11)] ∧
        t.hp.bayReads = s.hp.bayReads.erase (leAt p.payload 1 4) ∧ (t.die k).msgs = (s.die k).msgs.erase p) ∧
      (leAt p.payload 0 1 = 1 → s.role = 2 → p.src = s.landing →
        exec (.bayMsg k) s = .next ((s.msgTake k p).hostAccess (leAt p.payload 5 4) (p.payload.drop 11))))

/-! ## Keystone commands -/

/-- NOP completes with status 0, with its record where FLAGS bit 0 asks for it. IDENTIFY gives the device, the module
and the Ready Map. BIND gives a free mailbox its frame and vector. EVENT_RING sets the context's ring and APERTURE a
window's entry (R429, R432, R437, R441, R448). -/
def Obligations.ModuleCommands : Prop :=
  ∀ (m : Mbx) (s : State) (k : Taken),
    (s.cmd m 0x0001 k → ∃ t, exec (.nopCommand m) s = .next t ∧ s.completed t m 0 ∧
      (bit k.flags 0 = true → ∃ rec ∈ t.ks.records, rec.code = 0x0511 ∧ rec.error = false ∧
        rec.tag = (if k.ctx < 64 then some k.tag else none))) ∧
    (s.cmd m 0x0002 k → ∃ t, exec (.identify m) s = .next t ∧ s.finished t m 0 ∧
      leAt ((t.mb m).read 0x800 10) 0 2 = 0xC016 ∧ leAt ((t.mb m).read 0x800 10) 2 2 = 0x00C0 ∧
      leAt ((t.mb m).read 0x800 10) 8 2 = s.moduleId ∧ (t.mb m).read 0x810 16 = toBytes s.readyMap 16) ∧
    (s.cmd m 0x0003 k → let n := k.arg 0 2; let c := k.arg 2 1; let f := k.arg 3 1; let v := k.arg 4 2
      (n = 0 ∨ 255 < n → ∃ t, exec (.bind m) s = .next t ∧ s.completed t m 0x0504) ∧
      (1 ≤ n → n ≤ 255 → c ≤ 63 → 1 ≤ f → f ≤ 15 → v ≤ 2047 ∨ v = 0xFFFF →
        ((s.mb n).owner = true ∨ (∃ j, j ≠ n ∧ s.frameMb c f = some j) →
          ∃ t, exec (.bind m) s = .next t ∧ s.completed t m 0x0506) ∧
        ((s.mb n).owner = false → s.frameMb c f = none →
          ∃ t, exec (.bind m) s = .next t ∧
            (s.updMb n fun x => { x with bound := some (c, f), vector := v }).completed t m 0)) ∧
      (1 ≤ n → n ≤ 255 → c = 0xFF → v ≤ 2047 ∨ v = 0xFFFF → (s.mb n).owner = false →
        ∃ t, exec (.bind m) s = .next t ∧ (s.updMb n fun x => { x with bound := none, vector := v }).completed t m 0)) ∧
    (s.cmd m 0x0004 k →
      let g : EvRing := { EvRing.reset with
        set := true, base := k.arg 0 8, size := k.arg 8 4, vector := k.arg 12 2, thresh := k.arg 14 2, prodAddr := k.arg 16 8 }
      g.base % 64 = 0 → (∃ e, 6 ≤ e ∧ e ≤ 20 ∧ g.size = 2 ^ e) → (g.vector ≤ 2047 ∨ g.vector = 0xFFFF) → 1 ≤ g.thresh →
      g.thresh ≤ g.size →
      (k.privileged = true → k.tag = 0 → ∃ t, exec (.eventRing m) s = .next t ∧
        (s.updKs fun x => { x with log := g }).completed t m 0) ∧
      (k.privileged = false → k.ctx ≤ 63 → (s.ctx k.ctx).phase ≠ .teardown → ∃ t, exec (.eventRing m) s = .next t ∧
        (s.updCtx k.ctx fun x => { x with ring := g }).completed t m 0)) ∧
    (s.cmd m 0x0005 k →
      let e : ApertureEntry := { valid := k.arg 1 1 = 1, module := k.arg 2 2, tag := k.arg 4 4, base := k.arg 8 6,
                                 pages := k.arg 16 4 }
      (62 < k.arg 0 1 → ∃ t, exec (.aperture m) s = .next t ∧ s.completed t m 0x0504) ∧
      (k.arg 0 1 ≤ 62 → k.arg 1 1 ≤ 1 → e.module ≤ 8191 → e.tag < 2 ^ 18 → e.base % 2 ^ 21 = 0 → 1 ≤ e.pages → e.pages ≤ 512 →
        ∃ t, exec (.aperture m) s = .next t ∧
          ({ s with hp := { s.hp with aperture := s.hp.aperture.put (k.arg 0 1) e } } : State).completed t m 0))

/-- MAP_RANGE sets a context's ranges. MAP writes entries and the owner words of their pages, and stops with 0x0509 at
one in use. UNMAP clears the V bit of every entry it names, completing at once where no page is left to zero and else
waiting. TRANSLATE answers as a request would be translated. The window commands act on the window they name and answer
with its status. SCRUB and MEMTEST leave memory as it was, MEMTEST until its completion. HOST_COPY within one page writes
its bytes through the translation (R257, R258, R260, R261, R263, R273, R278, R283, R437, R455). -/
def Obligations.MemoryCommands : Prop :=
  ∀ (m : Mbx) (s : State) (k : Taken),
    (s.cmd m 0x0301 k → let c := k.arg 0 1; let lb := k.arg 4 4; let lc := k.arg 8 4; let rb := k.arg 12 4
      let rc := k.arg 16 4
      c ≤ 63 → lb + lc ≤ 393216 → rb + rc ≤ 131072 →
      (k.ctx ≠ c → ∃ t, exec (.mapRange m) s = .next t ∧ s.completed t m 0x0502) ∧
      (k.ctx = c → s.rangeLoses c lb lc rb rc = true ∨ s.rangeTaken c lb lc rb rc = true →
        ∃ t, exec (.mapRange m) s = .next t ∧ s.completed t m 0x0509) ∧
      (k.ctx = c → s.rangeLoses c lb lc rb rc = false → s.rangeTaken c lb lc rb rc = false →
        ∃ t, exec (.mapRange m) s = .next t ∧
          (s.updCtx c fun x => { x with lbase := lb, lcount := lc, rbase := rb, rcount := rc }).completed t m 0)) ∧
    (s.cmd m 0x0302 k → k.arg 0 1 = 0 → k.arg 8 4 = 1 → k.arg 4 4 < (s.ctx k.ctx).lcount →
      let e := leAt (k.data.getD []) 0 16
      let i := (s.ctx k.ctx).lbase + k.arg 4 4
      let old := (s.xlate.get 0 i).toNat
      let g := fld e 32 27
      let w := s.owner g
      entryBad e = false → s.entryOff e = false → bit e 0 = true → fld e 4 2 < 2 → k.tag < 2 ^ 18 →
      (bit old 0 = false → fld w 18 3 = 0 ∨ (fld w 18 3 = 1 ∧ fld w 0 18 = k.tag) → ∃ t, exec (.map m) s = .next t ∧
        (((({ s with xlate := s.xlate.put i (BitVec.ofNat 128 (setFld e 8 18 k.tag)) } : State).replicaWrites 1).invalidate
          [i]).setOwner g (ownerWord k.tag 1 false)).finished t m 0 ∧ (t.mb m).read 0x800 4 = toBytes 1 4) ∧
      (bit old 0 = true ∧ fld old 32 27 ≠ g ∨ 1 < fld w 18 3 ∨ (fld w 18 3 = 1 ∧ fld w 0 18 ≠ k.tag) →
        ∃ t, exec (.map m) s = .next t ∧ s.finished t m 0x0509 ∧ (t.mb m).read 0x800 4 = toBytes 0 4)) ∧
    (s.cmd m 0x0303 k → k.arg 0 1 = 0 → 1 ≤ k.arg 8 4 → k.arg 4 4 + k.arg 8 4 ≤ (s.ctx k.ctx).lcount →
      let first := (s.ctx k.ctx).lbase + k.arg 4 4
      let mine := s.xlate.filter fun e => bit e.2.toNat 0 && decide (first ≤ e.1 ∧ e.1 < first + k.arg 8 4)
      (∀ e ∈ mine, fld e.2.toNat 4 2 < 2 → s.windowHolds (fld e.2.toNat 32 27) = false) →
      ∃ t, exec (.unmap m) s = .next t ∧ t.mem = s.mem ∧
        (∀ p, t.pier p = { s.pier p with cache := (t.pier p).cache }) ∧
        (∀ i, first ≤ i → i < first + k.arg 8 4 → bit (t.xlate.get 0 i).toNat 0 = false) ∧
        (∀ i, ¬(first ≤ i ∧ i < first + k.arg 8 4) → t.xlate.get 0 i = s.xlate.get 0 i) ∧
        (∀ todo, todo = (s.unmapEntries mine).1 → (todo = [] → t.answered m 0) ∧
          (todo ≠ [] → (t.mb m).taken = some { k with waits := true, todo := todo, total := k.arg 8 4,
                                                      done := k.arg 8 4 - todo.length } ∧
            (t.mb m).owner = (s.mb m).owner))) ∧
    (s.cmd m 0x0304 k → 1 ≤ k.arg 0 4 → k.arg 0 4 ≤ 120 → ∃ t, exec (.translate m) s = .next t ∧ s.finished t m 0 ∧
      ∀ i, i < k.arg 0 4 → (t.mb m).read (0x800 + 16 * i) 10 = s.translation k.tag (k.arg (8 + 8 * i) 8) ∧
        (t.mb m).read (0x80A + 16 * i) 6 = (s.mb m).read (0x80A + 16 * i) 6) ∧
    (let n := k.arg 0 1; let w := k.arg 1 1
      n ≤ 15 → w ≤ 63 →
      (s.cmd m 0x0305 k → let d := sliceBytes k.args 8 64
        leAt d 0 4 % 2 ^ 18 = k.tag → s.readyBit (16 + n) = true →
        ∀ st u, s.openWin n w d = (st, u) → ∃ t, exec (.winOpen m) s = .next t ∧ u.completed t m st) ∧
      (s.cmd m 0x0306 k → 1 ≤ k.arg 8 2 → k.arg 8 2 ≤ 8192 →
        ((s.win n w).state ≠ .closed → (s.win n w).tag ≠ k.tag →
          ∃ t, exec (.winRearm m) s = .next t ∧ s.completed t m 0x0509) ∧
        ((s.win n w).state = .abandoned → (s.win n w).tag = k.tag → ∃ t, exec (.winRearm m) s = .next t ∧
          (s.updWin n w fun x => { x.clean with state := .opn, epoch := k.arg 4 4, n := k.arg 8 2 }).completed t m 0)) ∧
      (s.cmd m 0x0307 k → (s.win n w).state = .closed ∨ (s.win n w).tag = k.tag →
        ((s.win n w).state ≠ .finishing → ∃ t, exec (.winClose m) s = .next t ∧
          (s.updWin n w fun x => { x.clean with state := .closed, closing := none }).completed t m 0) ∧
        ((s.win n w).state = .finishing → ∃ t, exec (.winClose m) s = .next t ∧
          (s.updWin n w fun x => { x with closing := some m.val }).waitsOn t m k))) ∧
    (s.cmd m 0x0308 k → ∃ t, exec (.scrub m []) s = .next t ∧ t.answered m 0 ∧ t.mem = s.mem ∧ t.owners = s.owners ∧
      t.xlate = s.xlate ∧ t.piers = s.piers ∧ leAt ((t.mb m).read 0x20 8) 6 2 = 10000) ∧
    (s.cmd m 0x0309 k → let l := setBits (k.arg 0 2) 16
      1 ≤ k.arg 2 1 → k.arg 2 1 ≤ 8 →
      ((∃ n ∈ l, s.readyBit (16 + n) = false) → ∃ t, exec (.memtest m) s = .next t ∧ s.completed t m 0x0104) ∧
      ((∀ n ∈ l, s.readyBit (16 + n) = true) → (∃ n ∈ l, s.stackOwned n = true) →
        ∃ t, exec (.memtest m) s = .next t ∧ s.completed t m 0x0509) ∧
      ((∀ n ∈ l, s.readyBit (16 + n) = true) → (∀ n ∈ l, s.stackOwned n = false) →
        ∃ t, exec (.memtest m) s = .next t ∧
          s.waitsOn t m { k with todo := l, total := (l.map fun n => s.stackBytes n / 64).sum })) ∧
    (∀ failing, (s.mb m).taken = some k → k.opcode = 0x0309 → k.waits = true →
      ∃ t, exec (.memtestComplete m failing) s = .next t ∧ s.finished t m 0 ∧ leAt ((t.mb m).read 0x20 8) 6 2 = 10000 ∧
        ∀ n, n < 16 → leAt ((t.mb m).read 0x800 64) (4 * n) 4 = if k.todo.contains n then
          min ((failing.filter fun x => x.1.val = n).map fun x => x.2).sum 0xFFFFFFFF else 0) ∧
    (s.cmd m 0x0310 k → let n := k.arg 16 8; let va := k.arg 8 8
      k.arg 24 1 = 0 →
      (n = 0 → ∃ t, exec (.hostCopy m) s = .next t ∧ s.finished t m 0) ∧
      (∀ c, 1 ≤ n → s.translate k.tag va .wr = .fault c → c < 2 ^ 16 →
        ∃ t, exec (.hostCopy m) s = .next t ∧ s.finished t m c) ∧
      (∀ la u, 1 ≤ n → n ≤ 65536 → va % 2 ^ 21 + n ≤ 2 ^ 21 → s.translate k.tag va .wr = .here la →
        (s.mbTotal m (cdiv n 65536)).writeVa none k.tag reachMemory 0x0302 (va + 0) (sliceBytes (k.data.getD []) 0 n) =
          (none, u) →
        ∃ t, exec (.hostCopy m) s = .next t ∧ t.answered m 0 ∧ t.mem = u.mem ∧ t.piers = s.piers))

/-- GROUP_SET stores a list. COLL_OPEN, COLL_REARM and COLL_CLOSE act on the descriptor they name and answer with its
status. LINK_CTRL with action 0 sets EN: it completes at once for a link that is UP, and waits for one that starts to
train (R330, R338, R437). -/
def Obligations.SpanCommands : Prop :=
  ∀ (m : Mbx) (s : State) (k : Taken),
    (s.cmd m 0x0403 k → let g := k.arg 0 2; let n := k.arg 2 2
      let l := (List.range n).map fun i => leAt (k.data.getD []) (2 * i) 2
      g ≤ 1023 → 1 ≤ n → n ≤ 8192 → (∀ x ∈ l, x ≤ 8191) →
      ((∃ x ∈ s.colls, x.2.state = .opn ∧ x.2.group = g) → ∃ t, exec (.groupSet m) s = .next t ∧ s.completed t m 0x0509) ∧
      ((∀ x ∈ s.colls, ¬(x.2.state = .opn ∧ x.2.group = g)) → ∃ t, exec (.groupSet m) s = .next t ∧
        (s.updKs fun y => { y with groups := y.groups.put g l }).completed t m 0)) ∧
    (s.cmd m 0x0404 k → let b := sliceBytes k.args 8 64
      (leAt b 32 4 % 2 ^ 18 ≠ k.tag → ∃ t, exec (.collOpen m) s = .next t ∧ s.completed t m 0x0504) ∧
      (leAt b 32 4 % 2 ^ 18 = k.tag → (s.coll (k.arg 0 1)).state = .closed → s.collRejects b = false →
        ∃ t, exec (.collOpen m) s = .next t ∧
          (s.updColl (k.arg 0 1) fun _ => { descColl b with state := .opn }).completed t m 0) ∧
      (leAt b 32 4 % 2 ^ 18 = k.tag → (s.coll (k.arg 0 1)).state = .closed → s.collRejects b = true →
        ∃ t, exec (.collOpen m) s = .next t ∧ t.answered m 0x0430 ∧ t.colls = s.colls ∧
          (t.reg (swOff (k.arg 0 1 % 4) + 0xC)).getLsbD 5 = true)) ∧
    (s.cmd m 0x0405 k → let d := k.arg 0 1; let n := k.arg 8 2
      ((s.coll d).state ≠ .closed → (s.coll d).tag ≠ k.tag →
        ∃ t, exec (.collRearm m) s = .next t ∧ s.completed t m 0x0509) ∧
      ((s.coll d).state = .abandoned → (s.coll d).tag = k.tag → 1 ≤ n → n ≤ 8192 → k.arg 10 2 < n → k.arg 12 2 < n →
        s.groupOk (s.coll d).group n (k.arg 10 2) = true → ∃ t, exec (.collRearm m) s = .next t ∧
          (s.updColl d fun x => { x.clean with
            state := .opn, epoch := k.arg 4 4, n := n, rank := k.arg 10 2, owner := k.arg 12 2 }).completed t m 0)) ∧
    (s.cmd m 0x0406 k → let d := k.arg 0 1
      (s.coll d).state ≠ .closed → (s.coll d).tag = k.tag → (s.coll d).written = [] →
      ∃ t, exec (.collClose m) s = .next t ∧ (s.updColl d fun x => { x.clean with state := .closed }).completed t m 0) ∧
    (∀ l : Lnk, s.cmd m 0x0407 k → k.arg 0 4 = 2 ^ l.val → k.arg 4 1 = 0 → (∀ i, (s.link i).ctrlMb = none) →
      ((s.link l).phase = .up → ∃ t, exec (.linkCtrl m) s = .next t ∧ t.answered m 0 ∧ t.link l = s.link l ∧
        (t.reg (zlOff l)).getLsbD 0 = true ∧ t.mem = s.mem ∧ leAt ((t.mb m).read 0x20 8) 6 2 = 10000) ∧
      ((s.link l).phase = .down → s.isRunning = true → s.linkOff l = false → (s.link l).roleBad = false →
        ∃ t, exec (.linkCtrl m) s = .next t ∧ (t.mb m).owner = (s.mb m).owner ∧
          (t.mb m).taken.map (fun y => y.waits) = some true ∧ (t.reg (zlOff l)).getLsbD 0 = true ∧
          t.link l = { LinkState.reset with
            phase := .training, step := 1, ctrlMb := some m.val, role := (s.reg (zlOff l + 0xC)).toNat } ∧ t.mem = s.mem))

/-- CTX_CREATE makes a FREE context ACTIVE under its tag with event 0x0513. CTX_TEARDOWN and REPLACE abort the work of
the context and queue their fence sequence; REPLACE fails the open step's vote and is refused within 1 ms of a raise.
PIERS gives a placeable idle pier the context's tag and arms it. TASKS keeps its entries until their gates hold, and STEP
waits its turn (R206, R209, R378, R379, R380, R426, R446, R455). -/
def Obligations.ContextCommands : Prop :=
  ∀ (m : Mbx) (s : State) (k : Taken),
    (s.cmd m 0x0501 k → let c := k.arg 0 1
      (63 < c → ∃ t, exec (.ctxCreate m) s = .next t ∧ s.completed t m 0x0504) ∧
      (c ≤ 63 → k.ctx ≠ c → ∃ t, exec (.ctxCreate m) s = .next t ∧ s.completed t m 0x0502) ∧
      (c ≤ 63 → k.ctx = c → (s.ctx c).phase ≠ .free → ∃ t, exec (.ctxCreate m) s = .next t ∧ s.completed t m 0x0505) ∧
      (c ≤ 63 → k.ctx = c → (s.ctx c).phase = .free → ∃ t, exec (.ctxCreate m) s = .next t ∧
        (s.updCtx c fun x => { x with phase := .active, created := true }).finished t m 0 ∧
        (t.mb m).read 0x800 4 = toBytes (s.ctxTag c) 4 ∧
        ∃ rec ∈ t.ks.records, rec.code = 0x0513 ∧ rec.error = false ∧ leAt rec.detail 0 4 = c)) ∧
    (s.cmd m 0x0502 k → k.ctx = k.arg 0 1 → k.ctx ≤ 63 → s.ks.fenceDead = false → s.ks.fence = none → s.ks.fences = [] →
      ∃ t f, exec (.ctxTeardown m) s = .next t ∧ (t.ctx k.ctx).phase = .teardown ∧ (t.ctx k.ctx).step = none ∧
        t.ks.fence = some f ∧ f.kind = .teardown m ∧ f.ctx = k.ctx ∧ t.xlate = s.xlate ∧
        (t.mb m).taken.map (fun y => (y.opcode, y.waits)) = some (0x0502, true)) ∧
    (s.cmd m 0x0502 k → k.ctx = k.arg 0 1 → k.ctx ≤ 63 → s.ks.fenceDead = true →
      ∃ t, exec (.ctxTeardown m) s = .next t ∧ s.completed t m 0x0814) ∧
    (∀ p : Pier, s.cmd m 0x0503 k → k.arg 0 2 = 2 ^ p.val → k.arg 2 2 = 0 → s.ks.fence = none → s.ks.fences = [] →
      (s.placeable p = false → ∃ t, exec (.piers m) s = .next t ∧ s.completed t m 0x0104) ∧
      (s.placeable p = true → s.pierTaken k.ctx p = true → ∃ t, exec (.piers m) s = .next t ∧ s.completed t m 0x0509) ∧
      (s.placeable p = true → s.pierTaken k.ctx p = false → ∃ t, exec (.piers m) s = .next t ∧
        (s.joinPier k.ctx p).completed t m 0 ∧ (t.pier p).serves = some k.ctx ∧ (t.pier p).tag = s.ctxTag k.ctx ∧
        (t.reg (psqOff p)).getLsbD 0 = true)) ∧
    (∀ p : Pier, s.cmd m 0x0503 k → k.arg 0 2 = 0 → k.arg 2 2 = 2 ^ p.val →
      (s.pier p).serves ≠ some k.ctx → ∃ t, exec (.piers m) s = .next t ∧ s.completed t m 0x0504) ∧
    (∀ p : Pier, s.cmd m 0x0504 k → k.arg 0 2 = 2 ^ p.val → s.ks.fenceDead = false →
      (s.placeable p = false → (s.pier p).serves ≠ some k.ctx → (s.pier p).power = 0 →
        ∃ t, exec (.replace m) s = .next t ∧ s.completed t m 0x0104) ∧
      (s.placeable p = false → (s.pier p).serves = some k.ctx ∨ (s.pier p).power ≠ 0 →
        ∃ t, exec (.replace m) s = .next t ∧ s.completed t m 0x054A) ∧
      (∀ x, s.placeable p = true → (s.ctx k.ctx).lastRaise = some x → s.elapsed < x + 1000000 →
        ∃ t, exec (.replace m) s = .next t ∧ s.completed t m 0x054A) ∧
      (s.placeable p = true → ((s.pier p).serves = none ∨ (s.pier p).serves = some k.ctx) →
        (s.ctx k.ctx).lastRaise = none → s.ks.fence = none → s.ks.fences = [] →
        ∃ t f, exec (.replace m) s = .next t ∧ t.ks.fence = some f ∧ f.kind = .replace m (2 ^ p.val) ∧ f.ctx = k.ctx ∧
          (t.ctx k.ctx).phase = (s.ctx k.ctx).phase ∧ (∀ x, (t.ctx k.ctx).step = some x → x.taskFault = true) ∧
          (t.mb m).taken.map (fun y => (y.opcode, y.waits)) = some (0x0504, true) ∧ t.xlate = s.xlate)) ∧
    (s.cmd m 0x0505 k → k.arg 0 1 = 1 → let d := sliceBytes k.args 8 32; let e := parseEntry d
      entryClean d = true → e.kind = 0 →
      ((s.pier e.pier).serves ≠ some k.ctx → ∃ t, exec (.tasks m) s = .next t ∧ s.completed t m 0x0504) ∧
      ((s.pier e.pier).serves = some k.ctx → s.stepPier e.pier = true →
        ∃ t, exec (.tasks m) s = .next t ∧ s.completed t m 0x0509) ∧
      ((s.pier e.pier).serves = some k.ctx → s.stepPier e.pier = false → ∃ t, exec (.tasks m) s = .next t ∧
        (s.updKs fun x => { x with lists := x.lists ++ [{ mb := m, ctx := k.ctx, entries := [e] }] }).waitsOn t m k)) ∧
    (s.cmd m 0x0506 k → ∃ t, exec (.step m) s = .next t ∧
      (s.updCtx k.ctx fun x => { x with stepWait := x.stepWait ++ [m.val] }).waitsOn t m k)

/-- SEAL writes the digests of a range's blocks. SHARD_TABLE, SERVE_SHARD and LANDING set what they name, the two last in
all four dies, and answer where the range does not fit. RESHARD queues its job and waits, or answers 0x0545 (R351, R354,
R356, R364, R366, R371, R386). -/
def Obligations.ShardCommands : Prop :=
  ∀ (m : Mbx) (s : State) (k : Taken),
    (s.cmd m 0x0507 k → ∀ f u, (s.mbTotal m (cdiv (k.arg 8 8) 65536)).sealShard k.tag (k.arg 0 8) (k.arg 8 8) = (f, u) →
      (∀ c, f = some c → c < 2 ^ 16) → ∃ t, exec (.seal m) s = .next t ∧ t.answered m (f.getD 0) ∧ t.mem = u.mem ∧
        t.piers = s.piers ∧ t.owners = s.owners) ∧
    (s.cmd m 0x0508 k → ∃ t, exec (.shardTable m) s = .next t ∧
      (s.updCtx k.ctx fun x => { x with shardTable := some (k.arg 0 8, k.arg 8 4) }).completed t m 0) ∧
    (s.cmd m 0x0509 k → k.ctx ≤ 63 → k.arg 20 1 ≤ 1 →
      (s.stackRun k.tag (k.arg 0 8) (k.arg 8 8) = none → ∃ t, exec (.serveShard m) s = .next t ∧ s.completed t m 0x0504) ∧
      (∀ g n, s.stackRun k.tag (k.arg 0 8) (k.arg 8 8) = some (g, n) → ∃ t, exec (.serveShard m) s = .next t ∧
        t.answered m 0 ∧ t.mem = s.mem ∧ t.piers = s.piers ∧ ∀ d, d < 4 →
          let o := rshOff d + 0x400 + 16 * k.ctx
          t.reg o = BitVec.ofNat 32 (k.arg 16 4) ∧ (t.reg (o + 4)).getLsbD 1 = (k.arg 20 1 == 1) ∧
          (t.reg (o + 4)).getLsbD 0 = (s.reg (o + 4)).getLsbD 0 ∧
          t.reg (o + 8) = BitVec.ofNat 32 g ∧ t.reg (o + 12) = BitVec.ofNat 32 n)) ∧
    (s.cmd m 0x050A k → let i := k.arg 0 1; let va := k.arg 8 8; let len := k.arg 16 4; let slot := k.arg 20 4
      let o (d j : Nat) := rshOff d + 0x100 + 32 * i + 4 * j
      i ≤ 15 → k.arg 2 1 ≤ 15 → k.arg 3 1 ≤ 63 → k.arg 4 1 ≤ 3 → va % 64 = 0 → len % 64 = 0 →
      (s.lrValid 0 i = false ∨ s.lrTag 0 i = k.tag) →
      (k.arg 1 1 = 0 → ∃ t, exec (.landing m) s = .next t ∧ t.answered m 0 ∧ t.mem = s.mem ∧
        ∀ d, d < 4 → ∀ j, j < 8 → t.reg (o d j) = 0) ∧
      (k.arg 1 1 = 1 → s.landingRun k.tag va len = none → ∃ t, exec (.landing m) s = .next t ∧ t.answered m 0x0549 ∧
        t.mem = s.mem ∧ (t.reg (rshOff (k.arg 4 1) + 8)).getLsbD 2 = true ∧ ∀ d, d < 4 → ∀ j, j < 8 →
          t.reg (o d j) = s.reg (o d j)) ∧
      (∀ la, k.arg 1 1 = 1 → s.landingRun k.tag va len = some la →
        (∀ j, j < 16 → j ≠ i → s.lrValid 0 j = true → overlaps la len (s.lrBase 0 j) (s.lrLen 0 j) = false) →
        slot % 64 = 0 → 64 ≤ slot → slot ≤ 2 ^ 31 → slot ≤ len → ∃ t, exec (.landing m) s = .next t ∧ t.answered m 0 ∧
          t.mem = s.mem ∧ ∀ d, d < 4 → t.reg (o d 0) = BitVec.ofNat 32 (la % 2 ^ 32) ∧
            t.reg (o d 1) = BitVec.ofNat 32 (la / 2 ^ 32) ∧ t.reg (o d 2) = BitVec.ofNat 32 len ∧
            t.reg (o d 3) = BitVec.ofNat 32 slot ∧ t.reg (o d 5) = 0)) ∧
    (s.cmd m 0x050B k → k.arg 0 1 ≤ 3 → k.arg 8 6 % 64 = 0 →
      (8 ≤ (s.die (k.arg 0 1)).jobs.length → ∃ t, exec (.reshard m) s = .next t ∧ t.answered m 0x0545 ∧
        t.mem = s.mem ∧ (t.reg (rshOff (k.arg 0 1) + 8)).getLsbD 0 = true ∧
        (bit k.flags 1 = false → ∀ d, (t.die d).jobs = (s.die d).jobs)) ∧
      (∀ h u, (s.die (k.arg 0 1)).jobs.length < 8 →
        (s.mbWait m fun t => t).jobCheck (k.arg 8 6) = (some h, u) → ∃ t j, exec (.reshard m) s = .next t ∧
          (t.die (k.arg 0 1)).jobs = (s.die (k.arg 0 1)).jobs ++ [j] ∧ j.header = h ∧ j.mb = some m.val ∧
          (t.mb m).owner = (s.mb m).owner ∧ (t.mb m).taken = some { k with waits := true }))

/-- CFG_STAGE overlays the writable bits of a word and CFG_DISCARD drops the overlay; ROUTE_STAGE and FAST_STAGE stage
table entries. CFG_COMMIT answers 0x0850 after a trip, 0x0509 during a commit and 0x0101 with the first failing rule, and
otherwise waits for the settings store; the committed set then takes effect with the next sequence number, event 0x0105
and, from HELD, RUNNING. At bring-up the newer copy is loaded, or the module is held with 0x0102 or 0x060D (R453, R456,
R457, R458, R459, R460, R461, R532). -/
def Obligations.SettingsCommands : Prop :=
  (∀ (m : Mbx) (s : State) (k : Taken),
    (s.cmd m 0x0101 k → let n := k.arg 0 4; let d := k.arg 8 4; let v := k.arg 12 4
      let l := (List.range n).map fun i => (k.arg (8 + 8 * i) 4, k.arg (12 + 8 * i) 4)
      (n = 0 ∨ 240 < n ∨ (∃ x ∈ l, rwcMask x.1 = 0) → ∃ t, exec (.cfgStage m) s = .next t ∧ s.completed t m 0x0504) ∧
      (1 ≤ n → n ≤ 240 → (∀ x ∈ l, rwcMask x.1 ≠ 0) → ∃ t, exec (.cfgStage m) s = .next t ∧
        (l.foldl (fun u x => u.stageWord x.1 x.2) s).finished t m 0 ∧ (t.mb m).read 0x800 4 = toBytes n 4 ∧
        (n = 1 → t.stagedWord d &&& rwcMask d = v &&& rwcMask d))) ∧
    (s.cmd m 0x0103 k → (s.ks.commit = none → ∃ t, exec (.cfgDiscard m) s = .next t ∧
        (s.updKs fun x => { x with staged := [], stagedRoutes := [], stagedFast := [] }).completed t m 0) ∧
      (∀ c, s.ks.commit = some c → ∃ t, exec (.cfgDiscard m) s = .next t ∧
        (s.updKs fun x => { x with
          staged := c.words.map fun y => (y.1, s.reg y.1),
          stagedRoutes := c.routes.map fun y => (y.1, s.routes.get 0 y.1),
          stagedFast := c.fast.map fun y => (y.1, s.fast.get 0 y.1) }).completed t m 0)) ∧
    (s.cmd m 0x0401 k → let first := k.arg 0 2; let n := k.arg 2 2
      (n = 0 ∨ 8192 < first + n → ∃ t, exec (.routeStage m) s = .next t ∧ s.completed t m 0x0504) ∧
      (1 ≤ n → first + n ≤ 8192 → ∃ t, exec (.routeStage m) s = .next t ∧
        (s.updKs fun x => { x with stagedRoutes := t.ks.stagedRoutes }).completed t m 0 ∧
        ∀ d i, t.ks.stagedRoutes.get d i = if first ≤ i ∧ i < first + n then
          BitVec.ofNat 32 (leAt (k.data.getD []) (4 * (i - first)) 4) else s.ks.stagedRoutes.get d i)) ∧
    (s.cmd m 0x0402 k → let l := k.arg 0 1
      let id (i : Nat) : Nat := leAt (k.data.getD []) (2 * i) 2
      (23 < l ∨ (∃ i, i < 256 ∧ id i ≠ 0xFFFF ∧ (8191 < id i ∨ id i % 256 ≠ i)) →
        ∃ t, exec (.fastStage m) s = .next t ∧ s.completed t m 0x0504) ∧
      (l ≤ 23 → (∀ i, i < 256 → id i = 0xFFFF ∨ (id i ≤ 8191 ∧ id i % 256 = i)) → ∃ t, exec (.fastStage m) s = .next t ∧
        (s.updKs fun x => { x with stagedFast := t.ks.stagedFast }).completed t m 0 ∧
        ∀ d i, t.ks.stagedFast.get d i = if 256 * l ≤ i ∧ i < 256 * l + 256 then
          fastWord (leAt (k.data.getD []) (2 * (i - 256 * l)) 2) else s.ks.stagedFast.get d i)) ∧
    (s.cmd m 0x0102 k →
      (s.tripped = true → ∃ t, exec (.cfgCommit m) s = .next t ∧ s.completed t m 0x0850) ∧
      (s.tripped = false → s.ks.commit ≠ none → ∃ t, exec (.cfgCommit m) s = .next t ∧ s.completed t m 0x0509) ∧
      (∀ r off, s.tripped = false → s.ks.commit = none → s.failingRule = some (r, off) →
        ∃ t, exec (.cfgCommit m) s = .next t ∧ t.answered m 0x0101 ∧ (t.reg (cfgOff + 4)).getLsbD 0 = true ∧
          t.reg (cfgOff + 8) = BitVec.ofNat 32 r ∧ t.reg (cfgOff + 0xC) = BitVec.ofNat 32 off ∧
          (t.mb m).read 0x800 6 = toBytes r 2 ++ toBytes off 4 ∧ t.mem = s.mem ∧ t.piers = s.piers) ∧
      (s.tripped = false → s.ks.commit = none → s.failingRule = none → ∃ t, exec (.cfgCommit m) s = .next t ∧
        (s.updKs fun x => { x with
          commit := some { mb := m, words := x.staged, routes := x.stagedRoutes, fast := x.stagedFast } }).waitsOn t m k))) ∧
  (∀ s : State, (s.ks.commit = none ∨ s.tripped = true → exec .settingsCopyWritten s = .next s) ∧
    (∀ c, s.ks.commit = some c → s.tripped = false → ∃ t, exec .settingsCopyWritten s = .next t ∧ t.ks.commit = none ∧
      t.routes = c.routes.foldl (fun a x => a.put x.1 x.2) s.routes ∧
      t.fast = c.fast.foldl (fun a x => a.put x.1 x.2) s.fast ∧ t.owners = s.owners ∧ t.xlate = s.xlate) ∧
    (∀ c v, s.ks.commit = some c → s.tripped = false → c.words = [(cfgOff + 0x24, v)] → c.routes = [] → c.fast = [] →
      ∃ t rec, exec .settingsCopyWritten s = .next t ∧ t.ks.commit = none ∧ t.reg (cfgOff + 0x24) = v ∧
        t.reg64 (cfgOff + 0x10) = (max s.ks.storeA.seq s.ks.storeB.seq + 1) % 2 ^ 64 ∧ rec ∈ t.ks.records ∧
        rec.code = 0x0105 ∧ rec.error = false ∧ (s.ks.phase = .held → t.ks.phase = .running) ∧
        (s.ks.phase = .running → t.ks.phase = .running) ∧ t.mem = s.mem ∧ t.routes = s.routes ∧ t.fast = s.fast ∧
        (∀ m : Mbx, c.mb = m.val → s.takenCmd m 0x0102 ≠ none → t.answered m 0))) ∧
  (∀ (a b : StoreCopy) (s : State), (s.ks.bringup ≠ 3 ∨ s.ks.phase ≠ .boot → exec (.settingsLoad a b) s = .next s)) ∧
  (∀ (a b : StoreCopy) (s : State), s.ks.bringup = 3 → s.ks.phase = .boot →
    let ca := s.ks.storeA.copy a
    let cb := s.ks.storeB.copy b
    let v := s.updKs fun k => { k with storeA := ca, storeB := cb, bringup := 4 }
    let c := if ca.seq < cb.seq then cb else ca
    let o := if ca.seq < cb.seq then ca else cb
    (c.valid = false → ∃ t rec, exec (.settingsLoad a b) s = .next t ∧ t.ks.phase = .held ∧
      t.ks.bringup = 4 ∧ (t.reg (cfgOff + 4)).getLsbD 1 = true ∧ rec ∈ t.ks.records ∧ rec.code = 0x0102 ∧ rec.error = true) ∧
    (c.valid = false → o.valid = true → ∃ t, exec (.settingsLoad a b) s = .next t ∧ t.ks.phase = .held ∧
      t.ks.staged = o.words ∧ t.ks.stagedRoutes = o.routes ∧ t.ks.stagedFast = o.fast) ∧
    (c.valid = true → c.fmt = s.ks.fw.setFmt → (v.stageCopy c).failingRule ≠ none → ∃ t rec,
      exec (.settingsLoad a b) s = .next t ∧ t.ks.phase = .held ∧ t.ks.staged = c.words ∧ rec ∈ t.ks.records ∧
      rec.code = 0x0102 ∧ rec.error = true) ∧
    (c.valid = true → c.fmt ≠ s.ks.fw.setFmt → ∃ t rec, exec (.settingsLoad a b) s = .next t ∧
      t.ks.phase = .held ∧ t.ks.storeLocked = true ∧ rec ∈ t.ks.records ∧ rec.code = 0x060D ∧ rec.error = true) ∧
    (c.valid = true → c.fmt = s.ks.fw.setFmt → (v.stageCopy c).failingRule = none →
      ∃ t, exec (.settingsLoad a b) s = .next t ∧ t.ks.phase = .running ∧ t.ks.bringup = 4 ∧ t.ks.staged = [] ∧
        t.reg64 (cfgOff + 0x10) = c.seq % 2 ^ 64))

/-- The update commands answer 0x0608 during an activation and the status of the check that fails; a manifest that passes
takes the target slot, a piece of the right digest is kept, and an activation of a complete image either waits for the
processors, each of which takes its firmware with 0x060B until the last ends it, or, where the versions do not go
together, warm-resets the module from the new slot. The image of a recovery load takes its slot, and the module resets
10 ms later. ATTEST answers with the report of its nonce. At boot the active slot is taken, or the other with 0x060F, or
none with 0x060E (R512, R514, R519, R520, R521, R522, R524, R525, R526, R529, R531, R534). -/
def Obligations.FirmwareUpdates : Prop :=
  (∀ (m : Mbx) (s : State) (k : Taken), let x := s.ks.fw; let d := k.data.getD []
    (∀ fl, s.cmd m 0x0601 k →
      (x.activation ≠ none → ∃ t, exec (.updManifest m fl) s = .next t ∧ s.completed t m 0x0608) ∧
      (x.activation = none → x.manStatus d ≠ 0 → ∃ t, exec (.updManifest m fl) s = .next t ∧
        s.completed t m (x.manStatus d)) ∧
      (let man := d.take (manLen d)
        let new : ImageSlot := { ImageSlot.reset with
          manifest := man, wrap := sliceBytes d (manLen d) 1616, counter := x.target.counter }
        x.activation = none → x.manStatus d = 0 →
        (manPlain man = true ∨ d.length < manLen d + 1616 ∨ new.imageKey = none →
          ∃ t, exec (.updManifest m fl) s = .next t ∧ s.completed t m 0x0604) ∧
        (manPlain man = false → manLen d + 1616 ≤ d.length → new.imageKey ≠ none →
          (fl = false → ∃ t, exec (.updManifest m fl) s = .next t ∧ s.completed t m 0x0609) ∧
          (fl = true → ∃ t, exec (.updManifest m fl) s = .next t ∧ t.answered m 0 ∧ t.mem = s.mem ∧ t.piers = s.piers ∧
            t.ks.fw = x.setSlot x.targetB
              (if x.target.manifest.take (manSigned man) = man.take (manSigned man) then
                { x.target with wrap := sliceBytes d (manLen d) 1616 } else new))))) ∧
    (∀ fl, s.cmd m 0x0602 k → let i := k.arg 0 4; let y := x.target
      (x.activation ≠ none → ∃ t, exec (.updPiece m fl) s = .next t ∧ s.completed t m 0x0608) ∧
      (x.activation = none → y.manifest = [] ∨ manPieces y.manifest ≤ i →
        ∃ t, exec (.updPiece m fl) s = .next t ∧ s.completed t m 0x0606) ∧
      (x.activation = none → y.manifest ≠ [] → i < manPieces y.manifest → y.pieces.find i ≠ none →
        ∃ t, exec (.updPiece m fl) s = .next t ∧ s.finished t m 0) ∧
      (x.activation = none → y.manifest ≠ [] → i < manPieces y.manifest → y.pieces.find i = none →
        (pieceDigest d ≠ (manEntry y.manifest i).take 32 → ∃ t, exec (.updPiece m fl) s = .next t ∧ s.completed t m 0x0605) ∧
        (pieceDigest d = (manEntry y.manifest i).take 32 → fl = false →
          ∃ t, exec (.updPiece m fl) s = .next t ∧ s.completed t m 0x0609) ∧
        (pieceDigest d = (manEntry y.manifest i).take 32 → fl = true → ∃ t, exec (.updPiece m fl) s = .next t ∧ t.answered m 0 ∧
          t.ks.fw = x.setSlot x.targetB { y with pieces := y.pieces.put i d } ∧ t.mem = s.mem ∧ t.piers = s.piers))) ∧
    (s.cmd m 0x0603 k → let y := x.target
      (x.activation ≠ none → ∃ t, exec (.updActivate m) s = .next t ∧ s.completed t m 0x0509) ∧
      (x.activation = none → (y.manifest = [] ∨ ∃ i, i < manPieces y.manifest ∧ y.pieces.find i = none) →
        ∃ t, exec (.updActivate m) s = .next t ∧ s.completed t m 0x0607) ∧
      (∀ key, x.activation = none → y.manifest ≠ [] → (∀ i, i < manPieces y.manifest → y.pieces.find i ≠ none) →
        (leAt y.manifest 12 2 < x.floor → ∃ t, exec (.updActivate m) s = .next t ∧ s.completed t m 0x0603) ∧
        (x.floor ≤ leAt y.manifest 12 2 → y.imageKey = none →
          ∃ t, exec (.updActivate m) s = .next t ∧ s.completed t m 0x0604) ∧
        (∀ i, x.floor ≤ leAt y.manifest 12 2 → y.imageKey = some key → i < manPieces y.manifest → y.pieceOk key i = false →
          (∀ j, j < i → y.pieceOk key j = true) → ∃ t, exec (.updActivate m) s = .next t ∧
          (s.updTarget fun y => { y with pieces := y.pieces.del i }).completed t m 0x0605)) ∧
      (∀ key, x.activation = none → y.manifest ≠ [] → (∀ i, i < manPieces y.manifest → y.pieces.find i ≠ none) →
        x.floor ≤ leAt y.manifest 12 2 → y.imageKey = some key → (∀ i, i < manPieces y.manifest → y.pieceOk key i = true) →
        (x.live y.manifest = true → ∃ t, exec (.updActivate m) s = .next t ∧
          t.ks.fw = { x with activation := some (m.val, 0) } ∧ (t.mb m).owner = (s.mb m).owner ∧
          (t.mb m).taken = some { k with waits := true, total := 37 } ∧ t.mem = s.mem ∧ t.piers = s.piers) ∧
        (x.live y.manifest = false → s.phys.input = true → s.tripped = false →
          ∃ t, exec (.updActivate m) s = .next t ∧ t.ks.fw.activeB = x.targetB ∧ t.ks.bringup = 1 ∧ t.ks.phase = .boot ∧
            t.mb m = Mailbox.reset))) ∧
    (∀ fl, s.cmd m 0x0604 k → let good (i : Nat) : Prop := pieceDigest ((imagePieces d).getD i []) = (manEntry d i).take 32
      (x.activation ≠ none → ∃ t, exec (.recoveryLoad m fl) s = .next t ∧ s.completed t m 0x0608) ∧
      (x.activation = none → x.manStatus d ≠ 0 → ∃ t, exec (.recoveryLoad m fl) s = .next t ∧
        s.completed t m (x.manStatus d)) ∧
      (x.activation = none → x.manStatus d = 0 → manPlain d = false ∨ d.length < manLen d + 65536 * manPieces d →
        ∃ t, exec (.recoveryLoad m fl) s = .next t ∧ s.completed t m 0x0602) ∧
      (x.activation = none → x.manStatus d = 0 → manPlain d = true → manLen d + 65536 * manPieces d ≤ d.length →
        ((∃ i, i < manPieces d ∧ ¬good i) → ∃ t, exec (.recoveryLoad m fl) s = .next t ∧ s.finished t m 0x0605) ∧
        ((∀ i, i < manPieces d → good i) →
          (fl = false → ∃ t, exec (.recoveryLoad m fl) s = .next t ∧ s.finished t m 0x0609) ∧
          (fl = true → s.ks.phase = .recovery → ∃ t, exec (.recoveryLoad m fl) s = .next t ∧ t.answered m 0 ∧
            t.ks.fw.recoveryAt = some s.elapsed ∧ (t.ks.fw.slot x.activeB).plain = true ∧
            (t.ks.fw.slot x.activeB).manifest = d.take (manLen d) ∧ t.ks.fw.slot (!x.activeB) = x.slot (!x.activeB)) ∧
          (fl = true → s.ks.phase ≠ .recovery → s.phys.input = true → s.tripped = false →
            ∃ t, exec (.recoveryLoad m fl) s = .next t ∧ t.ks.fw.activeB = x.targetB ∧ t.ks.bringup = 1 ∧
              t.ks.phase = .boot ∧ t.mb m = Mailbox.reset ∧ (t.ks.fw.slot x.targetB).plain = true ∧
              (t.ks.fw.slot x.targetB).manifest = d.take (manLen d))))) ∧
    (s.cmd m 0x0605 k → let a := k.arg 32 8; let u := s.hostWrite a certificate
      (a = 0 → ∃ t st, exec (.attest m) s = .next t ∧ s.finished t m 0 ∧
        (t.mb m).read 0x800 256 = s.report256 (sliceBytes k.args 0 32) st) ∧
      (a ≠ 0 → s.hostOk = false → ∃ t, exec (.attest m) s = .next t ∧ (s.orReg (hpOff + 4) 0x10).completed t m 0x050A) ∧
      (a ≠ 0 → s.hostOk = true → ∃ t st, exec (.attest m) s = .next t ∧ u.finished t m 0 ∧
        (t.mb m).read 0x800 256 = u.report256 (sliceBytes k.args 0 32) st))) ∧
  (∀ s : State, let x := s.ks.fw
    (x.activation = none ∨ s.tripped = true ∨ s.ks.resetting = true → exec .processorSwitch s = .next s) ∧
    (∀ (m : Mbx) i, x.activation = some (m.val, i) → s.tripped = false → s.ks.resetting = false →
      (i < 36 → (∀ p : Pier, i = 16 + p.val → (s.pier p).power ≠ 0 ∨ (s.pier p).serves = none) →
        ∃ t, exec .processorSwitch s = .next t ∧ t.ks.fw = { x with activation := some (m.val, i + 1) } ∧ t.mem = s.mem ∧
          ((∀ p : Pier, i = 16 + p.val → (s.pier p).power = 0) → ∃ rec ∈ t.ks.records, rec.code = 0x060B ∧
            rec.error = false ∧ leAt rec.detail 0 1 = i)) ∧
      (∀ p : Pier, i = 16 + p.val → (s.pier p).power = 0 → (s.pier p).serves ≠ none →
        exec .processorSwitch s = .next s) ∧
      (i = 36 → ∃ t rec, exec .processorSwitch s = .next t ∧ t.ks.fw.activation = none ∧ t.ks.fw.activeB = x.targetB ∧
        t.ks.fw.bootedB = x.targetB ∧ t.ks.fw.secEpoch = leAt x.target.manifest 12 2 ∧ rec ∈ t.ks.records ∧
        rec.code = 0x060C ∧ rec.error = false ∧ (s.takenCmd m 0x0603 ≠ none → t.answered m 0))) ∧
    (∀ (p : Pier) m i c, x.activation = some (m, i) → (s.pier p).serves = some c → (s.pier p).power = 0 →
      (i = 16 + p.val → ∃ t rec, exec (.drainRequest p) s = .next t ∧ rec ∈ t.ks.records ∧ rec.code = 0x060A ∧
        rec.error = false ∧ rec.tag = some (s.ctxTag c) ∧ leAt rec.detail 0 1 = p.val ∧ t.piers = s.piers) ∧
      (i ≠ 16 + p.val → exec (.drainRequest p) s = .next s)) ∧
    (∀ p : Pier, x.activation = none ∨ (s.pier p).serves = none ∨ (s.pier p).power ≠ 0 →
      exec (.drainRequest p) s = .next s) ∧
    (x.recoveryAt = none ∨ s.phys.input = false → exec .recoveryWarmReset s = .next s) ∧
    (x.recoveryAt ≠ none → s.phys.input = true → s.tripped = false → ∃ t, exec .recoveryWarmReset s = .next t ∧
      t.ks.bringup = 1 ∧ t.ks.phase = .boot ∧ fld (t.reg (cfgOff + 0x18)).toNat 0 16 = 1) ∧
    (∀ (puf : Bool) (a b : SlotCheck), s.ks.bringup ≠ 1 ∨ s.ks.phase ≠ .boot →
      exec (.keystoneImageAccept puf a b) s = .next s) ∧
    (∀ a b : SlotCheck, s.ks.bringup = 1 → s.ks.phase = .boot →
      let st (o : Bool) : Nat := x.slotStatus o (if o then b else a)
      (∃ t rec, exec (.keystoneImageAccept false a b) s = .next t ∧ t.ks.phase = .recovery ∧ rec ∈ t.ks.records ∧
        rec.code = 0x0610 ∧ rec.error = true) ∧
      (st false ≠ 0 → st true ≠ 0 → ∃ t rec, exec (.keystoneImageAccept true a b) s = .next t ∧ t.ks.phase = .recovery ∧
        rec ∈ t.ks.records ∧ rec.code = 0x060E ∧ rec.error = true) ∧
      (st x.activeB = 0 → ∃ t, exec (.keystoneImageAccept true a b) s = .next t ∧ t.ks.bringup = 2 ∧ t.ks.phase = .boot ∧
        t.ks.fw = x.boot x.activeB ∧ (∀ k, k < 4 → (t.die k).shareUp = true) ∧ t.ks.records = s.ks.records) ∧
      (st x.activeB ≠ 0 → st (!x.activeB) = 0 → ∃ t rec, exec (.keystoneImageAccept true a b) s = .next t ∧
        t.ks.bringup = 2 ∧ t.ks.fw = x.boot (!x.activeB) ∧ rec ∈ t.ks.records ∧ rec.code = 0x060F ∧ rec.error = true)))

/-- SERVE_OPEN takes a descriptor that passes its checks. LANE binds and RING sets what they name. ADMIT queues a stream
under the next generation. CANCEL hands out a final record and ends the stream, or leaves it ENDING while a step carries
it. ADAPTER_LOAD fills the lowest free slot and ADAPTER_RETIRE frees one that nothing uses. WEIGHT_SWAP raises WGEN and
completes once no step of the old generation is left (R389, R392, R393, R394, R409, R414, R415, R416, R417). -/
def Obligations.ServingCommands : Prop :=
  ∀ (m : Mbx) (s : State) (k : Taken), let c := k.ctx; let tag := s.ctxTag c
    (s.cmd m 0x0701 k → let d := sliceBytes k.args 0 128
      (∀ u, s.serveCheck c d = (false, u) → ∃ t, exec (.serveOpen m) s = .next t ∧ u.completed t m 0x070D) ∧
      (∀ u, s.serveCheck c d = (true, u) → (s.ctx c).serve = none → ∃ t, exec (.serveOpen m) s = .next t ∧
        t.answered m 0 ∧ t.mem = s.mem ∧ (t.ctx c).serve = some
          { desc := d, nextDesc := none, wgen := leAt d 104 2, stepNo := 0, steps := [], lanePtr := 0, blocked := false,
            swap := none }) ∧
      (∀ u v, s.serveCheck c d = (true, u) → (s.ctx c).serve = some v → ∃ t w, exec (.serveOpen m) s = .next t ∧
        t.answered m 0 ∧ (t.ctx c).serve = some w ∧ w.nextDesc = some d ∧ w.blocked = false ∧ w.steps = v.steps ∧
        w.wgen = v.wgen ∧ t.mem = s.mem)) ∧
    (s.cmd m 0x0702 k → let l := k.arg 0 1; let w := k.arg 1 1; let par := k.arg 2 1
      l ≤ 63 → 1 ≤ w → 1 ≤ par → par ≤ 16 →
      ((s.ctx c).serve = none → ∃ t, exec (.lane m) s = .next t ∧ s.completed t m 0x0505) ∧
      ((s.ctx c).serve ≠ none → s.laneBusy c l false = true → ∃ t, exec (.lane m) s = .next t ∧ s.completed t m 0x0701) ∧
      ((s.ctx c).serve ≠ none → s.laneBusy c l false = false → (s.lane l).ctx = none →
        ∃ t, exec (.lane m) s = .next t ∧ (s.updLane l fun _ =>
          { ctx := some c, weight := w, par := par, deficit := 0, queue := [] }).completed t m 0)) ∧
    (s.cmd m 0x0703 k → let q := sliceBytes k.args 0 64; let i := leAt q 0 2; let x := s.stream i
      (s.admitCheck c q ≠ 0 → ∃ t, exec (.admitStream m) s = .next t ∧ s.completed t m (s.admitCheck c q)) ∧
      (s.admitCheck c q = 0 → rqAdapter q = false → ∃ t, exec (.admitStream m) s = .next t ∧ t.answered m 0 ∧
        t.stream i = { x with
          phase := .queued, gen := (x.gen + 1) % 65536, ctx := c, lane := leAt q 2 1, req := q, promptLen := leAt q 4 4,
          maxNew := leAt q 16 4, committed := 0, emitted := 0, fails := 0, drafts := [], lastToken := 0, lastRode := 0,
          rides := false, adapter := none } ∧
        t.lane (leAt q 2 1) = { s.lane (leAt q 2 1) with queue := (s.lane (leAt q 2 1)).queue ++ [i] } ∧
        (t.mb m).read 0x800 2 = toBytes ((x.gen + 1) % 65536) 2 ∧ t.mem = s.mem)) ∧
    (s.cmd m 0x0704 k → let i := k.arg 0 2; let d := sliceBytes k.args 8 32
      (s.freeIn c i = false → ∃ t, exec (.ring m) s = .next t ∧ s.completed t m 0x0702) ∧
      (s.freeIn c i = true → ringOk d = false → ∃ t, exec (.ring m) s = .next t ∧ s.completed t m 0x070E) ∧
      (s.freeIn c i = true → ringOk d = true → ∃ t, exec (.ring m) s = .next t ∧
        (s.updStream i fun x => { x with ring := some d, prod := 0, cons := 0 }).completed t m 0)) ∧
    (∀ v, s.cmd m 0x0705 k → (s.ctx c).serve = some v → let i := k.arg 0 2; let x := s.stream i
      sdSbase v.desc ≤ i → i < sdSbase v.desc + sdScount v.desc →
      (x.gen ≠ k.arg 2 2 → ∃ t, exec (.cancel m) s = .next t ∧ s.completed t m 0x0702) ∧
      (x.gen = k.arg 2 2 → (x.phase = .free ∨ x.phase = .ending) →
        ∃ t, exec (.cancel m) s = .next t ∧ s.completed t m 0) ∧
      (x.gen = k.arg 2 2 → x.phase ≠ .free → x.phase ≠ .ending → s.ks.recs = [] →
        (x.rides = true → ∃ t, exec (.cancel m) s = .next t ∧ t.answered m 0 ∧ (t.stream i).phase = .ending ∧
          (t.stream i).spepoch = (x.spepoch + 1) % 65536 ∧ (t.stream i).prod = (x.prod + 1) % 2 ^ 32 ∧ t.mem = s.mem) ∧
        (x.rides = false → ∃ t, exec (.cancel m) s = .next t ∧ t.answered m 0 ∧ (t.stream i).phase = .free ∧
          (t.stream i).gen = x.gen ∧ (t.stream i).spepoch = (x.spepoch + 1) % 65536 ∧
            (t.stream i).prod = (x.prod + 1) % 2 ^ 32 ∧ t.mem = s.mem))) ∧
    (s.cmd m 0x0706 k → s.currentAdapter tag (k.arg 0 4) = none →
      (s.pagesOk tag (k.arg 8 8) (k.arg 16 8) 2 [0, 1] = false →
        ∃ t, exec (.adapterLoad m) s = .next t ∧ s.completed t m 0x070C) ∧
      (s.pagesOk tag (k.arg 8 8) (k.arg 16 8) 2 [0, 1] = true →
        ((∀ a, a < 1024 → (s.adapter a).state ≠ 0) → ∃ t, exec (.adapterLoad m) s = .next t ∧ s.completed t m 0x070B) ∧
        (∀ a, a < 1024 → (s.adapter a).state = 0 → (∀ b, b < a → (s.adapter b).state ≠ 0) →
          ∃ t, exec (.adapterLoad m) s = .next t ∧
            (s.updAdapter a fun _ => { id := k.arg 0 4, version := k.arg 4 4, tag := tag, state := 1, refs := 0, steps := 0,
                                       addr := k.arg 8 8, bytes := k.arg 16 8 }).finished t m 0 ∧
            (t.mb m).read 0x800 2 = toBytes a 2))) ∧
    (s.cmd m 0x0707 k →
      (s.currentAdapter tag (k.arg 0 4) = none → ∃ t, exec (.adapterRetire m) s = .next t ∧ s.completed t m 0x070C) ∧
      (∀ a, s.currentAdapter tag (k.arg 0 4) = some a →
        ((s.adapter a).refs = 0 → (s.adapter a).steps = 0 → ∃ t rec, exec (.adapterRetire m) s = .next t ∧
          t.answered m 0 ∧ t.adapter a = Adapter.reset ∧ rec ∈ t.ks.records ∧ rec.code = 0x0721 ∧ rec.error = false) ∧
        ((s.adapter a).refs ≠ 0 → ∃ t, exec (.adapterRetire m) s = .next t ∧
          (s.updAdapter a fun y => { y with state := 2 }).completed t m 0))) ∧
    (s.cmd m 0x0708 k →
      ((s.ctx c).serve = none → ∃ t, exec (.weightSwap m) s = .next t ∧ s.completed t m 0x0505) ∧
      (∀ v, (s.ctx c).serve = some v →
        (v.swap ≠ none → ∃ t, exec (.weightSwap m) s = .next t ∧ s.completed t m 0x070A) ∧
        (v.swap = none → (∃ y ∈ v.steps, y.wgen = v.wgen) → ∃ t, exec (.weightSwap m) s = .next t ∧
          (s.updServe c fun v => { v with wgen := (v.wgen + 1) % 65536, swap := some (m.val, v.wgen) }).waitsOn t m k) ∧
        (v.swap = none → (∀ y ∈ v.steps, y.wgen ≠ v.wgen) → ∃ t rec, exec (.weightSwap m) s = .next t ∧ t.answered m 0 ∧
          (t.ctx c).serve = some { v with wgen := (v.wgen + 1) % 65536, swap := none } ∧ rec ∈ t.ks.records ∧
          rec.code = 0x0720 ∧ rec.error = false ∧ (t.mb m).read 0x800 2 = toBytes v.wgen 2)))

/-! ## The Load Test, the Truss protocol and the score -/

/-- LT_ENABLE with no token gives a 16-byte challenge; a token that is whole, names the device and the challenge and is
signed uses the challenge up and begins an enable with event 0x0840, any other ends with 0x0841; a token of no minutes
ends the enable; TLEN 0xFFFF sets the registers the mask allows. At the expiry every LT_ word clears with 0x0842. A
self-test refuses piers that are not placeable or serve, and reports its samples, mismatches and failures; an emulated
sag is one droop step (R503, R505, R506, R507, R510). -/
def Obligations.LoadTests : Prop :=
  (∀ (m : Mbx) (s : State) (k : Taken), s.cmd m 0x0803 k →
    let tlen := k.arg 0 2
    let n := k.arg 2 2
    let tok := sliceBytes k.args 8 tlen
    let mask := leAt tok 4 1
    let minutes := leAt tok 6 2
    (55 < n → ∃ t, exec (.ltEnable m) s = .next t ∧ s.completed t m 0x0504) ∧
    (tlen = 0 → n = 0 → ∃ t u : State, ∃ c, exec (.ltEnable m) s = .next t ∧ c.length = 16 ∧
      u = { s with freeCtr := s.freeCtr + 2, ks := { s.ks with challenge := some c } } ∧ u.finished t m 0 ∧
      (t.mb m).read 0x800 16 = c) ∧
    (tlen = 0xFFFF → n ≤ 55 → s.ltOn = false → ∃ t, exec (.ltEnable m) s = .next t ∧ s.completed t m 0x0841) ∧
    (∀ b, tlen = 0xFFFF → n = 1 → s.ltOn = true → ltBit (k.arg 8 4) = some b →
      (bit s.ltMask b = false → ∃ t, exec (.ltEnable m) s = .next t ∧ s.completed t m 0x0504) ∧
      (bit s.ltMask b = true → ∃ t, exec (.ltEnable m) s = .next t ∧
        (s.setReg (ltOff + k.arg 8 4) (BitVec.ofNat 32 (k.arg 12 4 &&& ltRw (k.arg 8 4)))).finished t m 0)) ∧
    (1 ≤ tlen → tlen ≤ 1536 → n = 0 →
      let used := s.updKs fun x => { x with challenge := none }
      (s.ks.challenge = none → ∃ t, exec (.ltEnable m) s = .next t ∧ s.completed t m 0x0841) ∧
      (∀ c, s.ks.challenge = some c →
        (tokenOk tok c = false → ∃ t, exec (.ltEnable m) s = .next t ∧ used.completed t m 0x0841) ∧
        (tokenOk tok c = true → minutes = 0 → ∃ t, exec (.ltEnable m) s = .next t ∧ t.answered m 0 ∧ t.ltOn = false ∧
          t.ks.challenge = none ∧ t.mem = s.mem ∧ t.piers = s.piers) ∧
        (tokenOk tok c = true → minutes ≠ 0 → ∃ t rec, exec (.ltEnable m) s = .next t ∧ t.answered m 0 ∧
          t.reg ltOff = BitVec.ofNat 32 (1 + mask * 2 + minutes * 2 ^ 16) ∧ t.ks.ltMinutes = minutes ∧
          t.ks.challenge = none ∧ (bit k.flags 1 = false → s.regsBut t [ltOff]) ∧ rec ∈ t.ks.records ∧
          rec.code = 0x0840 ∧ rec.error = false ∧ t.mem = s.mem ∧ t.piers = s.piers)))) ∧
  (∀ (m : Mbx) (s : State) (k : Taken) (mis : List (Pier × BitVec 5)) (bad : List Pier), s.cmd m 0x0804 k →
    let l := setBits (k.arg 0 2) 16
    let rounds := k.arg 2 2
    (rounds = 0 ∨ 1000 < rounds ∨ 1 < k.arg 4 1 → ∃ t, exec (.selftest m mis bad) s = .next t ∧ s.completed t m 0x0504) ∧
    (1 ≤ rounds → rounds ≤ 1000 → k.arg 4 1 ≤ 1 →
      ((∃ p ∈ l, s.placeable p = false) → ∃ t, exec (.selftest m mis bad) s = .next t ∧ s.completed t m 0x0104) ∧
      ((∀ p ∈ l, s.placeable p = true) → (∃ p ∈ l, (s.pier p).serves ≠ none) →
        ∃ t, exec (.selftest m mis bad) s = .next t ∧ s.completed t m 0x0509) ∧
      ((∀ p ∈ l, s.placeable p = true) → (∀ p ∈ l, (s.pier p).serves = none) →
        ∃ t, exec (.selftest m mis bad) s = .next t ∧ t.answered m 0 ∧ t.mem = s.mem ∧ t.piers = s.piers ∧
          (t.mb m).read 0x800 4 =
            toBytes (sat32 (l.map fun p => rounds * Config.selftestSamples (s.pier p).arrOn).sum) 4 ∧
          (t.mb m).read 0x804 4 = toBytes ((mis.filter fun x => l.contains x.1.val).length) 4))) ∧
  (∀ s : State, (s.ltOn = false → exec .ltExpiry s = .next s) ∧
    (s.ltOn = true → ∃ t rec, exec .ltExpiry s = .next t ∧ (∀ i, i < 13 → t.reg (ltOff + 4 * i) = 0) ∧
      s.regsBut t ((List.range 13).map fun i => ltOff + 4 * i) ∧ t.ks.ltMinutes = 0 ∧ rec ∈ t.ks.records ∧
      rec.code = 0x0842 ∧ rec.error = false ∧ t.mem = s.mem ∧ t.piers = s.piers ∧ t.dies = s.dies)) ∧
  (∀ (p : Pier) (s : State), (s.ltOn = false ∨ s.rfld (ltOff + 0x1C) 0 16 = 0 →
      exec (.emulatedSag p) s = .next s) ∧
    (s.ltOn = true → bit s.ltMask 4 = true → s.rfld (ltOff + 0x1C) 0 16 ≠ 0 →
      bit (s.reg (ltOff + 0x1C)).toNat (16 + p) = true → ∃ t, exec (.emulatedSag p) s = .next t ∧
        exec (.droopSense p) s = .next t))

/-- A heartbeat updates what is known of its sender, and a higher EPOCH or NOTICE asks for its record. A suspicion raises
0x0803 and sends SUSPECT, and again while it lasts; a module that suspects half of its neighbours suspends itself. A
message is taken in once: a change waits for its window, and one stamped inside an installed window suspends the module
with 0x0806. A record asked for goes back as its image, and a higher one is installed. At its instant a window installs
the next NOTICE or EPOCH with 0x0802 or 0x0801, and a bootstrap its record. MEMBERSHIP reads the record, or waits for its
change (R487, R488, R489, R490, R491, R493, R494, R495, R496, R497, R498). That a catch-up record counts as a window is
the model's (log entry 67). -/
def Obligations.TrussProtocol : Prop :=
  (∀ (l : Lnk) (f : List Byte) (s : State), let n := leAt f 1 2 % 8192; let own := s.ks.truss.record
    let epoch := leAt f 3 8; let notice := leAt f 11 2
    ((s.link l).phase ≠ .up ∨ sideOk f = false ∨ leAt f 0 1 ≠ 1 → exec (.truss l f) s = .next s) ∧
    ((s.link l).phase = .up → sideOk f = true → leAt f 0 1 = 1 → ∃ t y, exec (.truss l f) s = .next t ∧
      t.ks.truss.near.find n = some y ∧ y.last = s.elapsed ∧ y.epoch = epoch ∧ y.notice = notice ∧
      y.agent = leAt f 23 2 ∧ y.state = leAt f 2 1 / 32 ∧ y.digest = sliceBytes f 13 8 ∧
      t.ks.truss.record = own ∧ t.mem = s.mem ∧ t.piers = s.piers ∧
      (own.epoch < epoch ∨ (own.epoch = epoch ∧ own.notice < notice) →
        ∃ r ∈ (t.die (l / 6)).far, r.dst = n ∧ r.packet.type = 5 ∧ leAt r.packet.spec 0 2 = 0x0802) ∧
      (¬(own.epoch < epoch ∨ (own.epoch = epoch ∧ own.notice < notice)) →
        ({ t with ks := { t.ks with truss := { t.ks.truss with near := s.ks.truss.near } } } : State) = s))) ∧
  (∀ (n : BitVec 13) (s : State), (s.ks.truss.near.find n.toNat = none →
      exec (.neighbourSuspect n) s = .next s ∧ exec (.suspectRepeat n) s = .next s) ∧
    (∀ y, s.ks.truss.near.find n.toNat = some y →
      (y.suspected ≠ none → exec (.neighbourSuspect n) s = .next s) ∧
      (y.suspected = none → exec (.suspectRepeat n) s = .next s) ∧
      (y.suspected = none → s.ks.resetting = false → ∃ t z rec, exec (.neighbourSuspect n) s = .next t ∧
        t.ks.truss.near.find n.toNat = some z ∧ z.suspected = some s.elapsed ∧ rec ∈ t.ks.records ∧ rec.code = 0x0803 ∧
        rec.error = false ∧ leAt rec.detail 0 2 = n.toNat ∧ t.mem = s.mem ∧ t.piers = s.piers ∧
        (s.ks.truss.member = true → s.ks.truss.state ≠ 4 →
          ∃ c ∈ t.ks.truss.seen, c.kind = 0 ∧ c.subject = n.toNat ∧ c.origin = s.moduleId) ∧
        (s.ks.truss.member = true → s.neighbours = [n.toNat] → t.ks.truss.state = 4)) ∧
      (y.suspected ≠ none → s.ks.resetting = false → s.ks.truss.member = true → s.ks.truss.state ≠ 4 →
        ∃ t, exec (.suspectRepeat n) s = .next t ∧ (∃ c ∈ t.ks.truss.seen, c.kind = 0 ∧ c.subject = n.toNat ∧
          c.origin = s.moduleId) ∧ t.mem = s.mem ∧ t.piers = s.piers))) ∧
  (∀ (k : Die) (s : State),
    (s.msgFirst k 0x0801 = none → exec (.trussMessage k) s = .next s) ∧
    (s.msgFirst k 0x0802 = none → exec (.recordRequest k) s = .next s) ∧
    (s.msgFirst k 0x0803 = none → exec (.recordReply k) s = .next s) ∧
    (∀ p, s.msgFirst k 0x0801 = some p → let c := parseChange p.payload
      ((s.ks.truss.seen.any c.same) = true → exec (.trussMessage k) s = .next (s.msgTake k p)) ∧
      ((s.ks.truss.seen.any c.same) = false → s.ks.resetting = false → ∃ t, exec (.trussMessage k) s = .next t ∧
        t.ks.truss.seen = c :: s.ks.truss.seen ∧ (t.die k).msgs = (s.die k).msgs.erase p ∧ t.mem = s.mem ∧
        t.piers = s.piers ∧ (c.kind = 0 → c ∈ t.ks.truss.suspects) ∧
        (2 ≤ c.kind → c.kind ≤ 8 →
          (s.ks.truss.late c.stamp = false → c ∈ t.ks.truss.pending ∧ t.ks.truss.state = s.ks.truss.state) ∧
          (s.ks.truss.late c.stamp = true → t.ks.truss.state = 4 ∧ ∃ rec ∈ t.ks.records, rec.code = 0x0806)))) ∧
    (∀ p, s.msgFirst k 0x0802 = some p → s.ks.resetting = false → ∃ t r, exec (.recordRequest k) s = .next t ∧
      (∃ j, j < 4 ∧ r ∈ (t.die j).far) ∧ r.dst = p.src ∧ leAt r.packet.spec 0 2 = 0x0803 ∧
      r.packet.payload = s.ks.truss.record.image ∧ (t.die k).msgs = (s.die k).msgs.erase p) ∧
    (∀ p, s.msgFirst k 0x0803 = some p → let r := parseRecord p.payload; let own := s.ks.truss.record
      (r.epoch < own.epoch ∨ (r.epoch = own.epoch ∧ r.notice ≤ own.notice) →
        exec (.recordReply k) s = .next (s.msgTake k p)) ∧
      (s.ks.resetting = false → r.epoch = own.epoch → own.notice < r.notice → ∃ t rec, exec (.recordReply k) s = .next t ∧
        t.ks.truss.record = r ∧ rec ∈ t.ks.records ∧ rec.code = 0x0802 ∧ rec.error = false ∧ t.mem = s.mem ∧
        t.piers = s.piers ∧ t.regs = s.regs))) ∧
  (∀ s : State, let x := s.ks.truss; let r := x.record
    let after (c : Change) := c.stamp + if r.twin then 3500000 else 1500000
    (s.ks.resetting = true → exec .membershipInstall s = .next s) ∧
    (x.boot = none → x.pending = [] → exec .membershipInstall s = .next s) ∧
    (∀ b, s.ks.resetting = false → x.boot = some (256, b) → b.epoch = 1 → r.epoch = 0 →
      ∃ t rec, exec .membershipInstall s = .next t ∧ t.ks.truss.boot = none ∧ t.ks.truss.record.epoch = 1 ∧
        t.ks.truss.record.members = b.members ∧ t.ks.truss.record.inst = b.inst ∧ rec ∈ t.ks.records ∧
        rec.code = 0x0801 ∧ rec.error = false) ∧
    (∀ c, s.ks.resetting = false → x.boot = none → x.wins = [] → x.pending = [c] → x.waiting = [] → r.epoch ≠ 0 →
      (c.kind = 8 → r.notice < 65535 → ∃ t rec, exec .membershipInstall s = .next t ∧
        t.ks.truss.record = { r with
          thresh := leAt c.body 0 2, budget := leAt c.body 2 1, notice := r.notice + 1, inst := after c } ∧
        t.ks.truss.pending = [] ∧ t.ks.truss.wins = [c.stamp] ∧ rec ∈ t.ks.records ∧ rec.code = 0x0802 ∧
        rec.error = false ∧ t.regs = s.regs ∧ t.mem = s.mem ∧ t.piers = s.piers) ∧
      (c.kind = 1 → ∃ t rec, exec .membershipInstall s = .next t ∧ t.ks.truss.record.epoch = r.epoch + 1 ∧
        t.ks.truss.record.notice = 0 ∧ t.ks.truss.record.members = r.members.filter (· ≠ c.subject) ∧
        t.ks.truss.record.inst = after c ∧ (∀ k, k < 4 → t.reg (swOff k + 8) = BitVec.ofNat 32 (r.epoch + 1)) ∧
        rec ∈ t.ks.records ∧ rec.code = 0x0801 ∧ rec.error = false))) ∧
  (∀ (m : Mbx) (s : State) (k : Taken), s.cmd m 0x0801 k → let act := k.arg 0 1; let x := s.ks.truss
    let thresh := (memberParams k).1; let budget := (memberParams k).2
    let waits (t : State) (kind : Nat) : Prop := (t.mb m).taken = some { k with waits := true } ∧
      t.ks.truss.waiting = x.waiting ++ [(m.val, kind)] ∧ t.mem = s.mem ∧ t.piers = s.piers
    (4 < act ∨ 1023 < thresh ∨ 1 < k.arg 27 1 → ∃ t, exec (.membership m) s = .next t ∧ s.completed t m 0x0504) ∧
    (thresh ≤ 1023 → k.arg 27 1 ≤ 1 →
      (act = 0 → s.role = 0 → s.hp.up = true → ∃ t, exec (.membership m) s = .next t ∧ t.answered m 0 ∧
        Out.hostWrite (k.arg 8 8) x.record.image ∈ t.out ∧ t.mem = s.mem ∧ t.piers = s.piers ∧
        (t.mb m).read 0x800 11 = detail [(x.record.epoch, 8), (x.record.notice, 2), (x.state, 1)]) ∧
      (act = 0 → s.hostOk = false →
        ∃ t, exec (.membership m) s = .next t ∧ (s.orReg (hpOff + 4) 0x10).completed t m 0x050A) ∧
      (act = 1 → x.member = false → s.ts.phase = .locked → s.ts.count.toNat + 10000000 ≤ k.arg 16 8 → x.boot ≠ none →
        ∃ t, exec (.membership m) s = .next t ∧ s.completed t m 0x0509) ∧
      (act = 1 ∨ act = 2 → x.member = true → ∃ t, exec (.membership m) s = .next t ∧ s.completed t m 0x0815) ∧
      (act = 1 → x.member = false → s.ts.phase ≠ .locked ∨ k.arg 16 8 < s.ts.count.toNat + 10000000 →
        ∃ t, exec (.membership m) s = .next t ∧ s.completed t m 0x0815) ∧
      (act = 1 → x.member = false → s.ts.phase = .locked → s.ts.count.toNat + 10000000 ≤ k.arg 16 8 → x.boot = none →
        ∃ t b, exec (.membership m) s = .next t ∧ b.epoch = 1 ∧ b.inst = k.arg 16 8 ∧ b.thresh = thresh ∧
          b.budget = budget ∧ b.members = ofBitmap (k.data.getD []) ∧
          (s.updKs fun y => { y with truss := { x with boot := some (m.val, b) } }).waitsOn t m k) ∧
      (act = 2 → x.member = false → ∃ t c, exec (.membership m) s = .next t ∧ waits t 2 ∧ c ∈ t.ks.truss.seen ∧
        c.kind = 2 ∧ c.origin = s.moduleId) ∧
      (act = 3 ∨ act = 4 → x.member = false → ∃ t, exec (.membership m) s = .next t ∧ s.completed t m 0x0815) ∧
      (act = 3 → x.member = true → ∃ t c, exec (.membership m) s = .next t ∧ waits t 3 ∧ c ∈ t.ks.truss.seen ∧
        c.kind = 3 ∧ c.origin = s.moduleId) ∧
      (act = 4 → x.member = true → ∃ t c, exec (.membership m) s = .next t ∧ waits t 8 ∧ c ∈ t.ks.truss.seen ∧
        c.kind = 8 ∧ c.origin = s.moduleId ∧ leAt c.body 0 2 = thresh ∧ leAt c.body 2 1 = budget)))

/-- Every second the score becomes 1,023 less a 256th of the accumulators, and one below THRESH makes a member send
SCORE_LOW; every 60 s each accumulator loses a 64th and the record is stored. A module on probation raises 0x0820, tests
itself, and asks to leave once its score reaches THRESH; a clean test halves the gauge accumulator. INSPECT returns the
record (R500, R501, R502, R503, R504, R505). -/
def Obligations.Scores : Prop :=
  (∀ s : State, let x := s.ks.insp; let v := scoreNow x.acc
    (s.takes = false → exec .scoreCompute s = .next s ∧ exec .scoreDecay s = .next s ∧
      exec .probationReport s = .next s) ∧
    (s.takes = true → s.ks.truss.record.thresh ≤ v → ∃ t, exec .scoreCompute s = .next t ∧ t.ks.insp.score = v ∧
      t.ks.insp.acc = x.acc ∧ t.ks.insp.raw = x.raw ∧ t.ks.truss.seen = s.ks.truss.seen ∧ t.ks.truss.lastLow = none ∧
      t.mem = s.mem ∧ t.piers = s.piers ∧ t.regs = s.regs ∧ t.dies = s.dies) ∧
    (s.takes = true → v < s.ks.truss.record.thresh → s.ks.truss.member = true → s.ks.truss.lastLow = none →
      ∃ t c, exec .scoreCompute s = .next t ∧ t.ks.insp.score = v ∧ c ∈ t.ks.truss.seen ∧ c.kind = 6 ∧ c.score = v ∧
        c.origin = s.moduleId ∧ t.ks.truss.lastLow = some s.elapsed ∧ t.mem = s.mem ∧ t.piers = s.piers) ∧
    (s.takes = true → v < s.ks.truss.record.thresh → s.ks.truss.member = false → ∃ t, exec .scoreCompute s = .next t ∧
      t.ks.insp.score = v ∧ t.ks.truss = s.ks.truss) ∧
    (s.takes = true → ∃ t, exec .scoreDecay s = .next t ∧
      (∀ i, t.ks.insp.acc.get 0 i = x.acc.get 0 i - x.acc.get 0 i / 64) ∧ t.ks.insp.score = x.score ∧
      (s.ks.storeLocked = false → ∃ y, t.ks.insp.saved = some y ∧ y.acc = t.ks.insp.acc ∧ y.score = x.score) ∧
      ({ t with ks := { t.ks with insp := x } } : State) = s) ∧
    (s.takes = true → s.ks.truss.state = 1 → ∃ t rec, exec .probationReport s = .next t ∧ rec ∈ t.ks.records ∧
      rec.code = 0x0820 ∧ rec.error = false ∧ leAt rec.detail 0 2 = x.score % 65536 ∧ t.mem = s.mem ∧ t.piers = s.piers) ∧
    (s.ks.truss.state ≠ 1 → exec .probationReport s = .next s) ∧
    (∀ n mis bad, s.ks.truss.state ≠ 1 → exec (.probationSelftest n mis bad) s = .next s) ∧
    (∀ n, 1000 ≤ n → s.takes = true → s.ks.truss.state = 1 → x.acc.get 0 3 < 2 ^ 32 →
      (∃ p, p < 16 ∧ s.placeable p = true ∧ (s.pier p).serves = none) →
      ∃ t, exec (.probationSelftest n [] 0) s = .next t ∧ t.mem = s.mem ∧ t.piers = s.piers ∧
        (x.score < s.ks.truss.record.thresh → t.ks.insp.acc.get 0 3 = x.acc.get 0 3 - x.acc.get 0 3 / 2) ∧
        (s.ks.truss.record.thresh ≤ x.score → ∃ c ∈ t.ks.truss.seen, c.kind = 7 ∧ c.origin = s.moduleId))) ∧
  (∀ (m : Mbx) (s : State) (k : Taken), s.cmd m 0x0802 k → ∃ t, exec (.inspect m) s = .next t ∧ s.finished t m 0 ∧
    (t.mb m).read 0x800 8 = detail [(s.ks.insp.score, 2), (s.ks.truss.record.thresh, 2), (s.ks.truss.state, 1), (0, 3)] ∧
    ∀ i, i < 6 → (t.mb m).read (0x810 + 4 * i) 4 = toBytes (s.ks.insp.acc.get 0 i) 4)

/-! ## Bring-up and resets -/

/-- A rise of the input is a cold reset and step 1 of the bring-up; a warm reset keeps the sticky bits, the generations
and the flashes and counts itself, and waits for the sensors after a trip. Step 3 starts the switches or refuses the
slot, step 5 zeroes a stack and maps out a failed channel, step 6 brings a compute die up. The host port's link comes up,
and its reset returns its settings to reset values (R284, R285, R286, R453, R465, R466, R467, R468, R469, R470, R484,
R546). -/
def Obligations.BringUp : Prop :=
  (∀ (strap : BitVec 2) (s : State), (s.phys.input = true → exec (.powerOn strap) s = .next s) ∧
    (s.phys.input = false → exec .powerLoss s = .next s ∧ ∃ t, exec (.powerOn strap) s = .next t ∧
      t.phys.input = true ∧ t.phys.strap = strap ∧ t.ks.bringup = 1 ∧ t.ks.phase = .boot ∧ t.mem = [] ∧ t.piers = [] ∧
      (∀ o, t.reg o = regReset o) ∧ t.pending = s.pending ∧ (∀ c, (t.ctx c).gen = (s.ctx c).recorded) ∧
      t.ks.fw.slotA = s.ks.fw.slotA ∧ t.ks.fw.slotB = s.ks.fw.slotB ∧ t.ks.fw.activeB = s.ks.fw.activeB) ∧
    (s.phys.input = true → ∃ t, exec .powerLoss s = .next t ∧ t.phys.input = false ∧ t.ks.bringup = 0 ∧ t.mem = [] ∧
      t.piers = [] ∧ t.links = [] ∧ t.pending = s.pending ∧ t.ks.fw.slotA = s.ks.fw.slotA ∧
      t.ks.fw.slotB = s.ks.fw.slotB)) ∧
  (∀ (cause : WarmCause) (s : State),
    (s.phys.input = false → exec (.warmReset cause) s = .next s) ∧
    (s.phys.input = true → s.tripped = true → s.hotSensor = true →
      exec (.warmReset cause) s = .next (s.updKs fun k => { k with warmWaits := some cause })) ∧
    (s.phys.input = true → s.tripped = false ∨ s.hotSensor = false → ∃ t, exec (.warmReset cause) s = .next t ∧
      t.ks.bringup = 1 ∧ t.ks.phase = .boot ∧ t.mem = [] ∧ t.piers = [] ∧ t.links = [] ∧ t.tripped = false ∧
      t.rfld (cfgOff + 0x18) 0 16 = causeCode cause ∧
      t.rfld (cfgOff + 0x18) 16 16 = min 0xFFFF (s.rfld (cfgOff + 0x18) 16 16 + 1) ∧
      (∀ c, (t.ctx c).gen = (s.ctx c).gen ∧ (t.ctx c).phase = .free) ∧ t.pending = s.pending ∧
      t.ks.fw.slotA = s.ks.fw.slotA ∧ t.ks.fw.slotB = s.ks.fw.slotB) ∧
    (s.ks.warmWaits = none → exec .tripCooldownReset s = .next s) ∧
    (s.ks.warmWaits = some cause → ∃ t, exec .tripCooldownReset s = .next t ∧ t.ks.warmWaits = none ∧
      t.ks.bringup = 1 ∧ t.tripped = false ∧ t.rfld (cfgOff + 0x18) 0 16 = causeCode cause)) ∧
  (∀ (fails : Bool) (s : State), (s.ks.bringup ≠ 2 ∨ s.ks.phase ≠ .boot → exec (.engineStart fails) s = .next s) ∧
    (s.ks.bringup = 2 → s.ks.phase = .boot → let good := (s.ks.fw.slot s.ks.fw.bootedB).componentGood 2
      (good = true → ∃ t, exec (.engineStart false) s = .next t ∧ t.ks.bringup = 3 ∧ (∀ k, k < 4 → (t.die k).switchUp = true) ∧
        s.regsBut t [mgtOff] ∧ (t.reg mgtOff).getLsbD 8 = true ∧ t.mem = s.mem ∧ t.piers = s.piers) ∧
      (fails = true ∨ good = false → s.phys.input = true → s.tripped = false → ∃ t,
        exec (.engineStart fails) s = .next t ∧ t.ks.bringup = 1 ∧
        (t.ks.fw.slot s.ks.fw.bootedB).refused = true ∧ t.rfld (cfgOff + 0x18) 0 16 = 3))) ∧
  (∀ (n : Stk) (un : BitVec 32) (s : State),
    let bad := un.toNat ||| s.ks.failedChannels.get 0 n
    let slot := s.ks.fw.slot s.ks.fw.bootedB
    (s.ks.bringup < 4 ∨ s.tripped = true ∨ s.pierGoal n = 2 ∨ (s.stack n).up = true ∨ (s.stack n).retain = true ∨
      (s.stack n).dead = true → exec (.stackBringup n un) s = .next s) ∧
    (4 ≤ s.ks.bringup → s.tripped = false → s.pierGoal n ≠ 2 → (s.stack n).up = false → (s.stack n).retain = false →
      (s.stack n).dead = false → slot.componentGood 0 = false ∨ slot.componentGood 1 = false → s.phys.input = true →
      ∃ t, exec (.stackBringup n un) s = .next t ∧ t.ks.bringup = 1 ∧ (t.ks.fw.slot s.ks.fw.bootedB).refused = true ∧
        t.rfld (cfgOff + 0x18) 0 16 = 3) ∧
    (4 ≤ s.ks.bringup → s.tripped = false → s.pierGoal n = 0 → (s.stack n).up = false → (s.stack n).retain = false →
      (s.stack n).dead = false → slot.componentGood 0 = true → slot.componentGood 1 = true →
      ∃ t, exec (.stackBringup n un) s = .next t ∧ t.reg (dmcOff n + 0xC) = BitVec.ofNat 32 bad ∧
        s.regsBut t [dmcOff n + 0xC, dmcOff n + 0x30, dmcOff n + 0x34] ∧ t.piers = s.piers ∧
        (t.stack n).repaired = s.ks.repairs.get [] n ∧
        (∀ a, 2 ^ 36 * n ≤ a → a < 2 ^ 36 * n + 24576 * 2 ^ 21 → Memory.read t.mem a = 0) ∧
        (∀ m, m ≠ n.val → t.stack m = s.stack m) ∧
        (popCount bad 32 ≤ 1 → t.stackUp n = true) ∧ (1 < popCount bad 32 → (t.stack n).dead = true ∧ t.stackUp n = false) ∧
        (popCount bad 32 = 1 → ∀ i, i < 768 → t.owner (32768 * n + 23808 + i) = 4 * 2 ^ 18) ∧
        (∀ i, 80 ≤ i → i < 23808 → t.owner (32768 * n + i) = 0))) ∧
  (∀ (p : Pier) (s : State),
    (s.ks.bringup < 4 ∨ s.tripped = true ∨ s.pierGoal p ≠ 0 ∨ (s.pier p).power ≠ 2 ∨ s.stackUp p = false ∨
      p.val ∈ s.ks.powerDue → exec (.pierBringup p) s = .next s) ∧
    (4 ≤ s.ks.bringup → s.tripped = false → s.pierGoal p = 0 → (s.pier p).power = 2 → s.stackUp p = true →
      p.val ∉ s.ks.powerDue → ∃ t, exec (.pierBringup p) s = .next t ∧ (t.pier p).power = 0 ∧ (t.pier p).ready = true ∧
        (t.pier p).arrOn = fld (s.pierWord p) 2 4 ∧ (t.pier p).vecOn = bit (s.pierWord p) 6 ∧ t.placeable p = true ∧
        (∀ q, q ≠ p.val → t.pier q = s.pier q) ∧ t.regs = s.regs)) ∧
  (∀ (speed : BitVec 3) (width : BitVec 5) (flit : Bool) (cause : PortCause) (s : State),
    (s.phys.input = false → exec (.perstDeassert speed width flit) s = .next s) ∧
    (s.phys.input = true → ∃ t, exec (.perstDeassert speed width flit) s = .next t ∧ t.hp.up = true ∧
      s.regsBut t [hpOff] ∧ t.rfld hpOff 0 3 = speed.toNat ∧ t.rfld hpOff 3 5 = width.toNat ∧
      (t.reg hpOff).getLsbD 8 = flit ∧ ({ t with hp := s.hp, regs := s.regs } : State) = s) ∧
    (∃ t, exec (.hostPortReset cause) s = .next t ∧ t.hp.up = false ∧ t.ks.log.set = false ∧
      (∀ c, (t.ctx c).ring.set = false) ∧ (∀ o, o < hpOff → t.reg o = s.reg o) ∧ t.reg hpOff = 0 ∧ t.reg (hpOff + 4) = 0 ∧
      t.reg (hpOff + 8) = 0 ∧ t.reg (hpOff + 0xC) = s.reg (hpOff + 0xC) ∧
      (∀ o, 0x518000 ≤ o → t.reg o = s.reg o) ∧ (∀ v, v < 2048 → t.reg (0x51000C + 16 * v) = 1) ∧ t.mem = s.mem ∧
      t.piers = s.piers ∧ t.dies = s.dies ∧ t.links = s.links ∧ t.ks.mbs = s.ks.mbs))

/-! ## Power, temperature and management -/

/-- Below 40 V an excursion is counted once with 0x0851. A trip turns every domain but the four always-on ones off, sets
MGT_TRIP and raises 0x0850: on a sensor at its limit, or on overvoltage (cause 6). A lid above 80 °C raises 0x0852, and a
rise of a lid or a compute die counts as an excursion. A droop takes the clock down by one eighth, then another, and back.
The cap takes the clock down a step while the average exceeds it, and raises 0x0106 after 100 ms at 300 MHz. A committed
power change completes with 0x0103. A threshold crossing asserts MG_ALERT# until its event is read. The TAP shifts out its
IDCODE (R463, R464, R465, R466, R501, R539, R540, R544, R546, R547, R549). -/
def Obligations.PowerAndTemperature : Prop :=
  (∀ (v : BitVec 16) (s : State),
    (s.phys.input = false ∨ v.toNat < 380 ∨ 400 ≤ v.toNat → exec (.inputUndervoltage v) s = .next s) ∧
    (s.phys.input = true → 380 ≤ v.toNat → v.toNat < 400 →
      (s.phys.undervolt = none → ∃ t rec, exec (.inputUndervoltage v) s = .next t ∧ t.phys.undervolt = some v.toNat ∧
        t.rfld (mgtOff + 8) 0 16 = min 0xFFFF (s.rfld (mgtOff + 8) 0 16 + 1) ∧ t.rfld (cfgOff + 0x30) 16 16 = v.toNat ∧
        s.regsBut t [mgtOff + 8, cfgOff + 0x30] ∧ rec ∈ t.ks.records ∧ rec.code = 0x0851 ∧ rec.error = true ∧
        t.mem = s.mem ∧ t.piers = s.piers) ∧
      (∀ low, s.phys.undervolt = some low → ∃ t, exec (.inputUndervoltage v) s = .next t ∧
        t.phys.undervolt = some (min low v.toNat) ∧ t.ks = s.ks ∧ s.regsBut t [cfgOff + 0x30])) ∧
    (v.toNat < 400 ∨ s.phys.undervolt = none → exec (.undervoltageExcursionEnd v) s = .next s) ∧
    (400 ≤ v.toNat → s.phys.undervolt ≠ none → ∃ t, exec (.undervoltageExcursionEnd v) s = .next t ∧
      t.phys.undervolt = none ∧ t.rfld (cfgOff + 0x30) 16 16 = v.toNat ∧ s.regsBut t [cfgOff + 0x30] ∧ t.ks = s.ks)) ∧
  (∀ s : State,
    let trips (t : State) (cause sensor : Nat) : Prop := t.tripped = true ∧ t.phys.thermtrip = true ∧ t.mem = [] ∧
      t.links = [] ∧ t.owners = [] ∧ (∀ p : Pier, (t.pier p).power = 2 ∧ t.stackUp p = false) ∧
      t.rfld (mgtOff + 4) 1 3 = cause ∧ t.rfld (mgtOff + 4) 8 6 = sensor ∧
      t.rfld (mgtOff + 4) 16 16 = min 0xFFFF (s.rfld (mgtOff + 4) 16 16 + 1) ∧ t.ks.mbs = s.ks.mbs ∧
      ∃ rec ∈ t.ks.records, rec.code = 0x0850 ∧ rec.error = true ∧ leAt rec.detail 0 1 = sensor
    (s.phys.input = false ∨ s.tripped = true → exec .overvoltage s = .next s) ∧
    (s.phys.input = true → s.tripped = false → ∃ t, exec .overvoltage s = .next t ∧ trips t 6 58) ∧
    (∀ x r, tripLimit x = none ∨ s.phys.input = false → exec (.thermalTrip x r) s = .next s) ∧
    (∀ x (r : BitVec 16) cause limit, tripLimit x = some (cause, limit) → s.phys.input = true →
      (r.toInt < limit → exec (.thermalTrip x r) s = .next (s.setTemp (sensorId x) r)) ∧
      (limit ≤ r.toInt → s.tripped = false → ∃ t, exec (.thermalTrip x r) s = .next t ∧ trips t cause (sensorId x)))) ∧
  (∀ (q : Fin 4) (p : Pier) (v : BitVec 16) (s : State),
    (s.phys.input = false → exec (.lidOverMaximum q v) s = .next s ∧ exec (.dieTemperatureExcursion p v) s = .next s) ∧
    (s.phys.input = true → 320 < v.toInt → ∃ t rec, exec (.lidOverMaximum q v) s = .next t ∧ rec ∈ t.ks.records ∧
      rec.code = 0x0852 ∧ rec.error = false ∧ leAt rec.detail 0 1 = q.val ∧ t.mem = s.mem ∧ t.regs = s.regs ∧
      (s.phys.lidHot.get false 0 = false → t.ks.insp.raw.get 0 5 = sat32 (s.ks.insp.raw.get 0 5 + 1) ∧
        t.phys.lidHot.get false 0 = true) ∧
      (s.phys.lidHot.get false 0 = true → t.ks.insp = s.ks.insp)) ∧
    (s.phys.input = true → v.toInt ≤ 320 → ∃ t, exec (.lidOverMaximum q v) s = .next t ∧ t.ks = s.ks ∧ t.regs = s.regs) ∧
    (s.phys.input = true → v.toInt < 408 → ∃ t, exec (.dieTemperatureExcursion p v) s = .next t ∧ t.ks = s.ks ∧
      t.phys.dieHot.get false p = false) ∧
    (s.phys.input = true → 420 < v.toInt → s.phys.dieHot.get false p = false →
      ∃ t, exec (.dieTemperatureExcursion p v) s = .next t ∧ t.phys.dieHot.get false p = true ∧
        t.ks.insp.raw.get 0 5 = sat32 (s.ks.insp.raw.get 0 5 + 1) ∧
        (s.ltOn = false → t.ks.insp.acc.get 0 5 = sat32 (s.ks.insp.acc.get 0 5 + 4096))) ∧
    (s.phys.input = true → 408 ≤ v.toInt → v.toInt ≤ 420 ∨ s.phys.dieHot.get false p = true →
      exec (.dieTemperatureExcursion p v) s = .next (s.setTemp (1 + p) v))) ∧
  (∀ (p : Pier) (s : State),
    let d := s.phys.droop.get 0 p
    let down (t : State) : Prop := t.phys.droop.get 0 p = d + 1 ∧ s.regsBut t [cfgOff + 0xC0 + 4 * p] ∧
      t.reg (cfgOff + 0xC0 + 4 * p) = BitVec.ofNat 32 (sat32 ((s.reg (cfgOff + 0xC0 + 4 * p)).toNat + 1)) ∧
      t.mem = s.mem ∧ t.piers = s.piers
    (s.dieOn p = false → exec (.droopSense p) s = .next s ∧ exec (.droopSecondStep p) s = .next s ∧
      exec (.droopRecovery p) s = .next s) ∧
    (d ≠ 0 → exec (.droopSense p) s = .next s) ∧ (d ≠ 1 → exec (.droopSecondStep p) s = .next s) ∧
    (d = 0 → exec (.droopRecovery p) s = .next s) ∧
    (s.dieOn p = true → d = 0 → ∃ t, exec (.droopSense p) s = .next t ∧ down t) ∧
    (s.dieOn p = true → d = 1 → ∃ t, exec (.droopSecondStep p) s = .next t ∧ down t) ∧
    (s.dieOn p = true → d ≠ 0 → ∃ t, exec (.droopRecovery p) s = .next t ∧ t.phys.droop.get 0 p = d - 1 ∧
      t.regs = s.regs ∧ t.ks = s.ks)) ∧
  (∀ (w v : BitVec 16) (s : State), let old := 12 - s.phys.capStep
    (s.ks.bringup < 4 ∨ s.tripped = true → exec (.powerCapStep w v) s = .next s) ∧
    (4 ≤ s.ks.bringup → s.tripped = false → ∃ t, exec (.powerCapStep w v) s = .next t ∧
      t.rfld (cfgOff + 0x30) 0 16 = w.toNat ∧ t.rfld (cfgOff + 0x30) 16 16 = v.toNat ∧
      t.mem = s.mem ∧ t.piers = s.piers ∧
      (s.cap < w.toNat → t.phys.capStep = 12 - (min old s.clkMax - 1) ∧ t.phys.belowCap = 0) ∧
      (w.toNat + s.capHyst < s.cap → s.phys.belowCap = 9 → t.phys.capStep = 12 - min s.clkMax (old + 1)) ∧
      (w.toNat + s.capHyst < s.cap → s.phys.belowCap < 9 → t.phys.capStep = 12 - min old s.clkMax ∧
        t.phys.belowCap = s.phys.belowCap + 1) ∧
      (s.cap < w.toNat → old = 0 → s.phys.overMs = 99 → s.phys.capAlarmed = false →
        (t.reg (cfgOff + 4)).getLsbD 2 = true ∧ ∃ rec ∈ t.ks.records, rec.code = 0x0106 ∧ rec.error = true))) ∧
  (∀ (p : Pier) (s : State),
    (s.tripped = true ∨ p.val ∉ s.ks.powerDue → exec (.pierPowerTransition p) s = .next s) ∧
    (s.tripped = false → p.val ∈ s.ks.powerDue →
      let done (t : State) : Prop := t.ks.powerDue = s.ks.powerDue.erase p ∧ (∀ q, q ≠ p.val → t.pier q = s.pier q) ∧
        ∃ rec ∈ t.ks.records, rec.code = 0x0103 ∧ rec.error = false ∧ leAt rec.detail 0 1 = p.val
      (s.pierGoal p = 2 → ∃ t, exec (.pierPowerTransition p) s = .next t ∧ done t ∧ (t.pier p).power = 2 ∧
        t.placeable p = false ∧ t.stack p = StackState.reset ∧
        (∀ a, 2 ^ 36 * p ≤ a → a < 2 ^ 36 * p + 24576 * 2 ^ 21 → Memory.read t.mem a = 0)) ∧
      (s.pierGoal p = 1 → (s.pier p).power = 0 → ∃ t, exec (.pierPowerTransition p) s = .next t ∧ done t ∧
        (t.pier p).power = 1 ∧ t.placeable p = false ∧ (t.stack p).retain = true ∧ t.stackUp p = false ∧
        (∀ a, 2 ^ 36 * p ≤ a → a < 2 ^ 36 * p + 24576 * 2 ^ 21 → Memory.read t.mem a = Memory.read s.mem a)) ∧
      (s.pierGoal p = 0 → (s.pier p).power = 1 → (s.stack p).oos = false → (s.stack p).dead = false →
        ∃ t, exec (.pierPowerTransition p) s = .next t ∧ done t ∧ (t.pier p).power = 0 ∧ t.placeable p = true ∧
          (t.stack p).retain = false))) ∧
  (∀ (id : BitVec 6) (i : TapInsn) (s : State),
    (id.toNat = 0 ∨ 59 < id.toNat ∨ s.sensorOn id.toNat = false ∨ (s.reg mgtOff).getLsbD 8 = false →
      exec (.sensorThresholdCrossing id) s = .next s) ∧
    (1 ≤ id.toNat → id.toNat ≤ 59 → s.sensorOn id.toNat = true → (s.reg mgtOff).getLsbD 8 = true →
      exec (.sensorThresholdCrossing id) s =
        .next { s with phys := { s.phys with mgAlert := true, pldm := s.phys.pldm ++ [id.toNat] } }) ∧
    (∃ t, exec .pldmEventRead s = .next t ∧ t.phys.pldm = s.phys.pldm.tail ∧
      (s.phys.pldm.length ≤ 1 → t.phys.mgAlert = false) ∧ (2 ≤ s.phys.pldm.length → t.phys.mgAlert = s.phys.mgAlert) ∧
      ({ t with phys := s.phys } : State) = s) ∧
    (∃ t, exec (.tapInstruction .idcode) s = .next t ∧ t.out = s.out ++ [.tdo 0x0C016A5F] ∧ t.phys.tap = some .idcode) ∧
    (i ≠ .idcode → ∃ t, exec (.tapInstruction i) s = .next t ∧ t.out = s.out ∧
      t.phys.tap = some (if (i = .extest ∨ i = .clamp) ∧ 2 ≤ s.ksState then .bypass else i)))

/-! ## The heartbeat, the pier reset, the fences and the keystone reset -/

/-- A heartbeat sample notes PSQ_PROGRESS; without progress it counts a wait, with 0x0811 at 100 ms, or a stall, which
at 100 ms resets the pier. A pier reset ends its tasks and clears its queues, transfers and passes; where the pier
serves a context its fence sequence follows. The fences are written 1 ms after the last raise; when the dies are not
quiet in 100 µs the sequence fails with 0x0508 or 0x054B. A keystone reset loses the commands taken, and the restart
ends every owned mailbox with 0x0805. RESET does what its KIND says (R379, R446, R474, R475, R476, R477, R478, R479,
R482, R483, R484, R485). That a command taken is lost at the keystone reset itself is the model's choice (log entry 62).
-/
def Obligations.WatchdogAndResets : Prop :=
  (∀ (p : Pier) (s : State), let x := s.pier p; let now := s.reg64 (psqOff p + 0x58) + 1
    let noted (t : State) (f : PierState → PierState) : Prop := t = s.updPier p f
    (s.takes = false → exec (.heartbeatSample p) s = .next s) ∧
    (s.takes = true →
      (x.seq ≠ .running → x.seq ≠ .halting → ∃ t, exec (.heartbeatSample p) s = .next t ∧
        noted t fun y => { y with lastProgress := 0, waitMs := 0, stuckMs := 0 }) ∧
      (x.seq = .running ∨ x.seq = .halting →
        (x.lastProgress ≠ now → ∃ t, exec (.heartbeatSample p) s = .next t ∧
          noted t fun y => { y with lastProgress := now, waitMs := 0, stuckMs := 0 }) ∧
        (x.lastProgress = now → s.twaits p = [] → x.engineWaits = [] →
          (x.stuckMs < 99 → ∃ t, exec (.heartbeatSample p) s = .next t ∧
            noted t fun y => { y with stuckMs := x.stuckMs + 1 }) ∧
          (x.stuckMs = 99 → s.ks.fence = none → s.ks.fences = [] → x.serves = none →
            ∃ t rec, exec (.heartbeatSample p) s = .next t ∧ (t.pier p).seq = .idle ∧ (t.pier p).queues = [] ∧
              (t.pier p).started = [] ∧ rec ∈ t.ks.records ∧ rec.code = 0x0810 ∧ rec.error = true ∧
              rec.tag = some x.tag ∧ t.mem = s.mem)) ∧
        (x.lastProgress = now → s.twaits p ≠ [] →
          (x.waitMs < 99 → ∃ t, exec (.heartbeatSample p) s = .next t ∧ noted t fun y => { y with waitMs := x.waitMs + 1 }) ∧
          (x.waitMs = 99 → ∃ t rec, exec (.heartbeatSample p) s = .next t ∧
            (∀ q, t.pier q = (s.updPier p fun y => { y with waitMs := 100 }).pier q) ∧
            rec ∈ t.ks.records ∧ rec.code = 0x0811 ∧ rec.error = false ∧ t.mem = s.mem))))) ∧
  (∀ (p : Pier) (s : State),
    (s.ks.fence = none → s.ks.fences = [] → (s.pier p).serves = none → ∃ t rec, exec (.pierReset p) s = .next t ∧
      (t.pier p).seq = .idle ∧ (t.pier p).queues = [] ∧ (t.pier p).transfers = [] ∧ (t.pier p).started = [] ∧
      (t.pier p).run = none ∧ (t.pier p).hold = none ∧ (∀ a, ((t.pier p).array a).passes = []) ∧
      (t.pier p).ready = (decide ((s.pier p).power = 0) && s.stackUp p) ∧ t.ks.fence = none ∧ t.mem = s.mem ∧
      rec ∈ t.ks.records ∧ rec.code = 0x0812 ∧ rec.error = false ∧ leAt rec.detail 0 4 = p.val) ∧
    (∀ c, s.ks.fence = none → s.ks.fences = [] → (s.pier p).serves = some c → s.ks.fenceDead = false →
      ∃ t f, exec (.pierReset p) s = .next t ∧ t.ks.fence = some f ∧ f.ctx = c ∧ (t.pier p).queues = [] ∧
        (t.pier p).started = []) ∧
    (∀ g, s.ks.fence = some g → g.written = true → ∃ t, exec (.pierReset p) s = .next t ∧ t.ks.fence = some g ∧
      t.ks.fences = s.ks.fences ++ [{ kind := .pierReset p 0x052A none false, ctx := 64, tag := 0, written := false,
                                      writtenAt := 0 }] ∧
      ({ t with ks := s.ks } : State) = s)) ∧
  (∀ s : State,
    (s.ks.fence = none → exec .generationHoldoffExpiry s = .next s ∧ exec .fenceTimeout s = .next s) ∧
    (∀ f, s.ks.fence = some f →
      (f.written = false → (s.updCtx f.ctx fun x => { x with lastRaise := none }).fenceReady f = true →
        let tag := s.ctxTag f.ctx
        ∃ t g, exec .generationHoldoffExpiry s = .next t ∧ t.ks.fence = some g ∧ g.written = true ∧ g.kind = f.kind ∧
          g.ctx = f.ctx ∧ g.tag = tag ∧ g.writtenAt = s.elapsed ∧
          (∀ n : Stk, (t.stack n).fenced = some tag ∧ (t.stack n).quiet = false) ∧
          (∀ k : Die, (t.die k).fenced = some tag ∧ (t.die k).quiet = false)) ∧
      (f.written = false ∨ s.allQuiet = true → exec .fenceTimeout s = .next s) ∧
      (f.written = true → s.allQuiet = false → s.ks.fences = [] →
        ∃ t rec, exec .fenceTimeout s = .next t ∧ t.ks.fence = none ∧ rec ∈ t.ks.records ∧ rec.error = true ∧
          (∀ m mask, f.kind = .replace m mask → rec.code = 0x054B) ∧ ((∀ m mask, f.kind ≠ .replace m mask) →
            rec.code = 0x0508) ∧
          ((∀ k : Die, (s.die k).quiet = true) → t.ks.fenceDead = s.ks.fenceDead) ∧
          ((∃ k : Die, (s.die k).quiet = false) → t.ks.fenceDead = true ∧ ∃ r ∈ t.ks.records, r.code = 0x0814)))) ∧
  (∀ s : State,
    (s.phys.input = false ∨ s.ks.phase = .boot ∨ s.ks.resetting = true → exec .keystoneReset s = .next s) ∧
    (s.phys.input = true → s.ks.phase ≠ .boot → s.ks.resetting = false → s.ks.fw.activation = none →
      ∃ t, exec .keystoneReset s = .next t ∧ t.ks.resetting = true ∧ t.ks.resetMb = none ∧ t.ks.flips = [] ∧
        (∀ k : Die, (t.die k).shareUp = false) ∧
        (∀ m, (s.mb m).owner = true → (t.mb m).owner = true ∧ (t.mb m).taken = none) ∧
        t.ltOn = false ∧ t.mem = s.mem ∧ t.piers = s.piers) ∧
    (s.ks.resetting = false → exec .keystoneRestart s = .next s) ∧
    ((∃ p : Pier, (s.pier p).started ≠ []) → s.ks.resetting = true → ∃ t, exec .keystoneRestart s = .next t ∧
      t.ks.resetting = true ∧ t.ks.restarting = true ∧ t.mem = s.mem) ∧
    ((∀ p : Pier, (s.pier p).drained = true) → (∀ m, (s.mb m).taken = none) → s.ks.resetting = true →
      s.ks.fence = none → s.ks.fences = [] → (∀ c, (s.ctx c).step = none ∧ (s.ctx c).serve = none) →
      ∃ t, exec .keystoneRestart s = .next t ∧ t.ks.resetting = false ∧ t.ks.restarting = false ∧
        (s.ks.commit = none → t.ks.staged = []) ∧
        (∀ k : Die, (t.die k).shareUp = true) ∧ (∀ p : Pier, (t.pier p).seq = .idle) ∧ t.mem = s.mem ∧
        (∀ m, (s.mb m).owner = true → s.ks.resetMb ≠ some m → t.answered m 0x0805) ∧
        (∀ m, (s.mb m).owner = true → s.ks.resetMb = some m → t.answered m 0))) ∧
  (∀ (m : Mbx) (s : State) (k : Taken), s.cmd m 0x0006 k → let kind := k.arg 0 1; let p := k.arg 1 1
    (2 < kind ∨ (kind ≠ 2 ∧ p ≠ 0) ∨ 15 < p → ∃ t, exec (.resetCommand m) s = .next t ∧ s.completed t m 0x0504) ∧
    (kind = 0 → p = 0 → s.phys.input = true → s.tripped = false → ∃ t, exec (.resetCommand m) s = .next t ∧
      t.ks.bringup = 1 ∧ t.ks.phase = .boot ∧ t.mb m = Mailbox.reset ∧ t.rfld (cfgOff + 0x18) 0 16 = 1) ∧
    (kind = 1 → p = 0 → s.phys.input = true → s.ks.phase ≠ .boot → s.ks.resetting = false → s.ks.fw.activation = none →
      ∃ t, exec (.resetCommand m) s = .next t ∧ t.ks.resetting = true ∧ t.ks.resetMb = some m.val ∧ t.mem = s.mem ∧
        t.piers = s.piers ∧ (t.mb m).owner = (s.mb m).owner) ∧
    (kind = 2 → p ≤ 15 → s.ks.fence = none → s.ks.fences = [] → (s.pier p).serves = none → s.ks.lists = [] →
      ∃ t rec, exec (.resetCommand m) s = .next t ∧ t.answered m 0 ∧ (t.mb m).read 0x800 4 = toBytes 0xFFFFFFFF 4 ∧
        (t.pier p).seq = .idle ∧ (t.pier p).queues = [] ∧ (t.pier p).started = [] ∧ rec ∈ t.ks.records ∧
        rec.code = 0x0812 ∧ t.mem = s.mem))

/-! ## Reset and memory -/

/-- After reset no command waits, the input is off, memory lists nothing, no pier has a task, and the registers hold the
reset values the spec gives: the droop threshold, the cap, the time constants, the retry limits, the module's identity and
the masked vectors (R5, R250, R428, R451, R452, R453, R468, R472). That the state after reset is the module before its
power comes is the model's choice (log entry 6). -/
def Obligations.ResetValues : Prop :=
  let s := State.reset
  s.pending = [] ∧ s.phys.input = false ∧ s.ks.phase = .boot ∧ s.mem = [] ∧ s.ks.mbs = [] ∧
  s.reg ksOff = 0x00C0C016#32 ∧ s.reg (cfgOff + 0x24) = 0x0032CC80#32 ∧ s.reg (cfgOff + 0x28) = 0x00000428#32 ∧
  s.reg (tsOff + 8) = 0x002003FF#32 ∧
  (∀ p : Pier, s.reg (psqOff p + 0x30) = 4095#32 ∧ s.reg (psqOff p + 0x34) = 14#32 ∧
    (s.pier p).seq = .idle ∧ (s.pier p).taskQueue = [] ∧ s.reg (cfgOff + 0x40 + 4 * p) = 0x7C#32) ∧
  (∀ k : Die, s.reg (swOff k) = 4000#32 ∧ s.reg (rshOff k + 0xC) = 1000#32 ∧ (s.die k).inbox = []) ∧
  (∀ l : Lnk, (s.link l).phase = .down ∧ s.reg (zlOff l + 0xC) = 0x20#32) ∧
  (∀ v, v < 2048 → s.reg (0x51000C + 16 * v) = 1#32) ∧
  (∀ n : Stk, ∀ i, i < 80 → s.owner (32768 * n + i) = 3 * 2 ^ 18)

/-- No command stops the machine: from every state every step answers a next state (R1). -/
def Obligations.EveryStepCompletes : Prop :=
  (∀ s : State, safeStep s) ∧ (∀ (c : Instr) (s : State), ∃ t, exec c s = .next t)

/-- Memory stands in its canonical form at reset. -/
def Obligations.ResetMemoryCanonical : Prop := State.reset.memOk

/-- Every step keeps memory in its canonical form: from every state whose memory has it, whatever command stands in front,
memory has it after the step, so that equal contents are equal data (R248, R250). -/
def Obligations.MemoryStaysCanonical : Prop :=
  ∀ s t : State, s.memOk → step s = .next t → t.memOk
end

