-- ==== Sys2Proof/Laws/Memory.lean ====
section
/-! SUPPORT. Memory: what a byte reads after a write, and that every operation keeps the canonical form. -/
namespace Sys2Proof.Machine

/-- The canonical form as a proposition. -/
theorem Memory.wf_iff (m : List Host.Cell) :
    Memory.wf m = true ↔ m.Pairwise (fun a b => a.1 < b.1) ∧ ∀ c ∈ m, c.2 ≠ 0 := by
  simp [Memory.wf, List.all_eq_true]

@[simp] theorem Memory.wf_nil : Memory.wf [] = true := rfl

/-- No entry of a canonical list lies before its head. -/
theorem Memory.read_of_lt {m : List Host.Cell} {a : Nat} (h : ∀ c ∈ m, a < c.1) : Memory.read m a = 0 := by
  induction m with
  | nil => rfl
  | cons c r ih =>
    obtain ⟨k, v⟩ := c
    have : a ≠ k := Nat.ne_of_lt (h (k, v) (by simp))
    simp [Memory.read, this, ih fun c hc => h c (by simp [hc])]

/-- An address that no entry holds reads zero. -/
theorem Memory.read_of_notMem {m : List Host.Cell} {a : Nat} (h : ∀ c ∈ m, c.1 ≠ a) : Memory.read m a = 0 := by
  induction m with
  | nil => rfl
  | cons c r ih =>
    obtain ⟨k, v⟩ := c
    have : a ≠ k := Ne.symm (h (k, v) (by simp))
    simp [Memory.read, this, ih fun c hc => h c (by simp [hc])]

/-- A write reads back, and leaves every other address as it was. -/
theorem Memory.read_write {m : List Host.Cell} (h : Memory.wf m = true) (a j : Nat) (b : Byte) :
    Memory.read (Memory.write m a b) j = if j = a then b else Memory.read m j := by
  rw [Memory.wf_iff] at h
  obtain ⟨h, -⟩ := h
  induction m with
  | nil =>
    by_cases hb : b = 0#8
    · simp [Memory.write, Memory.read, hb]
    · simp [Memory.write, Memory.read, hb]
  | cons c r ih =>
    obtain ⟨k, v⟩ := c
    rw [List.pairwise_cons] at h
    by_cases h1 : a = k
    · subst h1
      by_cases hb : b = 0#8
      · by_cases hj : j = a
        · simp [Memory.write, hb, hj, Memory.read_of_lt fun c hc => h.1 c hc]
        · simp [Memory.write, Memory.read, hb, hj]
      · by_cases hj : j = a <;> simp [Memory.write, Memory.read, hb, hj]
    · by_cases h3 : a < k
      · by_cases hb : b = 0#8
        · by_cases hj : j = a
          · simp [Memory.write, Memory.read, h1, h3, hb, hj, Memory.read_of_lt fun c hc => Nat.lt_trans h3 (h.1 c hc)]
          · simp [Memory.write, h1, h3, hb, hj]
        · by_cases hj : j = a <;> simp [Memory.write, Memory.read, h1, h3, hb, hj]
      · by_cases hj : j = a
        · subst hj
          simp [Memory.write, Memory.read, h1, h3, ih h.2]
        · by_cases hk : j = k
          · simp [Memory.write, Memory.read, h1, h3, hk, Ne.symm h1]
          · simp [Memory.write, Memory.read, h1, h3, hk, ih h.2, hj]

/-- Every address of a write's result stood in the list or is the one written. -/
theorem Memory.mem_write {m : List Host.Cell} {a : Nat} {b : Byte} {c : Host.Cell} (h : c ∈ Memory.write m a b) :
    c ∈ m ∨ (c = (a, b) ∧ b ≠ 0) := by
  induction m with
  | nil => unfold Memory.write at h; split_ifs at h <;> simp_all
  | cons d r ih =>
    obtain ⟨k, v⟩ := d
    unfold Memory.write at h
    split_ifs at h with h1 h2 h3 h4 <;> simp only [List.mem_cons] at h ⊢
    · exact .inl (.inr h)
    · rcases h with h | h
      · exact .inr ⟨h, h2⟩
      · exact .inl (.inr h)
    · exact .inl h
    · rcases h with h | h
      · exact .inr ⟨h, h4⟩
      · exact .inl h
    · rcases h with h | h
      · exact .inl (.inl h)
      · rcases ih h with h | h
        · exact .inl (.inr h)
        · exact .inr h

/-- A write keeps the canonical form. -/
theorem Memory.wf_write {m : List Host.Cell} (h : Memory.wf m = true) (a : Nat) (b : Byte) :
    Memory.wf (Memory.write m a b) = true := by
  rw [Memory.wf_iff] at h ⊢
  refine ⟨?_, fun c hc => ?_⟩
  · obtain ⟨h, -⟩ := h
    induction m with
    | nil => unfold Memory.write; split_ifs <;> simp
    | cons d r ih =>
      obtain ⟨k, v⟩ := d
      have h' := List.pairwise_cons.1 h
      unfold Memory.write
      split_ifs with h1 h2 h3 h4
      · exact h'.2
      · subst h1; exact List.pairwise_cons.2 ⟨h'.1, h'.2⟩
      · exact h
      · refine List.pairwise_cons.2 ⟨fun c hc => ?_, h⟩
        rcases List.mem_cons.1 hc with rfl | hc
        · exact h3
        · exact Nat.lt_trans h3 (h'.1 c hc)
      · refine List.pairwise_cons.2 ⟨fun c hc => ?_, ih h'.2⟩
        rcases Memory.mem_write hc with hc | ⟨rfl, -⟩
        · exact h'.1 c hc
        · show k < a
          omega
  · rcases Memory.mem_write hc with hc | ⟨rfl, hb⟩
    · exact h.2 c hc
    · exact hb

theorem Memory.wf_writeList {m : List Host.Cell} (h : Memory.wf m = true) (a : Nat) (d : List Byte) :
    Memory.wf (Memory.writeList m a d) = true := by
  induction d generalizing m a with
  | nil => exact h
  | cons b r ih => exact ih (Memory.wf_write h a b) (a + 1)

theorem Memory.wf_writeMasked {m : List Host.Cell} (h : Memory.wf m = true) (a : Nat) (d : List (Byte × Bool)) :
    Memory.wf (Memory.writeMasked m a d) = true := by
  induction d generalizing m a with
  | nil => exact h
  | cons b r ih =>
    obtain ⟨b, k⟩ := b
    refine ih ?_ (a + 1)
    split_ifs
    · exact Memory.wf_write h a b
    · exact h

theorem Memory.wf_clear {m : List Host.Cell} (h : Memory.wf m = true) (a n : Nat) :
    Memory.wf (Memory.clear m a n) = true := by
  rw [Memory.wf_iff] at h ⊢
  exact ⟨h.1.filter _, fun c hc => h.2 c (List.mem_of_mem_filter hc)⟩

/-- Bytes outside a written list stand. -/
theorem Memory.read_writeList_of_out {m : List Host.Cell} (h : Memory.wf m = true) (a : Nat) (d : List Byte) (j : Nat)
    (hj : j < a ∨ a + d.length ≤ j) : Memory.read (Memory.writeList m a d) j = Memory.read m j := by
  induction d generalizing m a with
  | nil => rfl
  | cons b r ih =>
    simp only [List.length_cons] at hj
    rw [Memory.writeList, ih (Memory.wf_write h a b) (a + 1) (by omega), Memory.read_write h, if_neg (by omega)]

/-- A written list reads back. -/
theorem Memory.read_writeList {m : List Host.Cell} (h : Memory.wf m = true) (a : Nat) (d : List Byte) (i : Nat)
    (hi : i < d.length) : Memory.read (Memory.writeList m a d) (a + i) = d.getD i 0 := by
  induction d generalizing m a i with
  | nil => simp at hi
  | cons b r ih =>
    cases i with
    | zero =>
      show Memory.read _ a = _
      rw [Memory.writeList, Memory.read_writeList_of_out (Memory.wf_write h a b) (a + 1) r a (by omega),
        Memory.read_write h]
      simp
    | succ i =>
      rw [Memory.writeList, show a + (i + 1) = a + 1 + i by omega, ih (Memory.wf_write h a b) (a + 1) i (by simpa using hi)]
      simp

/-- Cleared bytes read zero; the others stand. -/
theorem Memory.read_clear (m : List Host.Cell) (a n j : Nat) :
    Memory.read (Memory.clear m a n) j = if a ≤ j ∧ j < a + n then 0 else Memory.read m j := by
  induction m with
  | nil => simp [Memory.clear, Memory.read]
  | cons c r ih =>
    obtain ⟨k, v⟩ := c
    unfold Memory.clear at ih ⊢
    by_cases hk : a ≤ k ∧ k < a + n
    · have : j = k → (a ≤ j ∧ j < a + n) := fun h => h ▸ hk
      simp only [List.filter_cons, hk, decide_true, Bool.and_self, Bool.not_true, Bool.false_eq_true, ↓reduceIte, ih]
      by_cases hj : j = k
      · simp [this hj]
      · simp [Memory.read, hj]
    · have hd : (!(decide (a ≤ k) && decide (k < a + n))) = true := by
        simp; omega
      simp only [List.filter_cons, hd, ↓reduceIte, Memory.read, ih]
      by_cases hj : j = k
      · subst hj; simp [hk]
      · simp [hj]

end Sys2Proof.Machine
end

