-- ==== Sys2Proof/Laws/Tab.lean ====
section
/-! SUPPORT. What a table reads after it has been written, whatever order its keys stand in. -/
namespace Sys2Proof.Machine

theorem Tab.get_put {α : Type} (d : α) (t : Tab α) (i j : Nat) (x : α) :
    Tab.get d (Tab.put t i x) j = if j = i then x else Tab.get d t j := by
  induction t with
  | nil => simp [Tab.put, Tab.get]
  | cons h r ih =>
    obtain ⟨k, v⟩ := h
    unfold Tab.put
    split_ifs with h1 h2 h3 h4 h5 <;> simp_all [Tab.get]

theorem Tab.find_put {α : Type} (t : Tab α) (i j : Nat) (x : α) :
    Tab.find (Tab.put t i x) j = if j = i then some x else Tab.find t j := by
  induction t with
  | nil => simp [Tab.put, Tab.find]
  | cons h r ih =>
    obtain ⟨k, v⟩ := h
    unfold Tab.put
    split_ifs with h1 h2 h3 h4 h5 <;> simp_all [Tab.find]

@[simp] theorem Tab.get_put_same {α : Type} (d : α) (t : Tab α) (i : Nat) (x : α) :
    Tab.get d (Tab.put t i x) i = x := by simp [Tab.get_put]

theorem Tab.get_put_of_ne {α : Type} (d : α) (t : Tab α) {i j : Nat} (x : α) (h : j ≠ i) :
    Tab.get d (Tab.put t i x) j = Tab.get d t j := by simp [Tab.get_put, h]

/-- What holds of the value of an absent key and of every value written holds of every read. -/
theorem Tab.all_get {α : Type} {P : α → Prop} {d : α} {t : Tab α} (h0 : P d) (h : ∀ x ∈ t, P x.2) (i : Nat) :
    P (Tab.get d t i) := by
  induction t with
  | nil => exact h0
  | cons e r ih =>
    simp only [Tab.get]
    split_ifs
    · exact h e (by simp)
    · exact ih fun x hx => h x (by simp [hx])

/-- What a list of values written from a key on reads. -/
theorem Tab.get_putList {α : Type} (d : α) (l : List α) : ∀ (t : Tab α) (i j : Nat),
    Tab.get d (t.putList i l) j = if i ≤ j ∧ j < i + l.length then l.getD (j - i) d else Tab.get d t j := by
  induction l with
  | nil =>
    intro t i j
    rw [if_neg (by simp), Tab.putList]
  | cons x r ih =>
    intro t i j
    rw [Tab.putList, ih, Tab.get_put]
    simp only [List.length_cons]
    by_cases h : j = i
    · subst h
      simp
    · by_cases h1 : i + 1 ≤ j ∧ j < i + 1 + r.length
      · rw [if_pos h1, if_pos (by omega)]
        obtain ⟨m, hm⟩ : ∃ m, j - i = m + 1 := ⟨j - i - 1, by omega⟩
        have hm' : j - (i + 1) = m := by omega
        rw [hm, hm']
        rfl
      · rw [if_neg h1, if_neg h, if_neg (by omega)]

end Sys2Proof.Machine
end

