-- ==== Sys2Proof/Laws/State.lean ====
section
/-! SUPPORT. One lemma per field for each update of the state that every meaning is built from, and what the accessors
read after an update. -/
namespace Sys2Proof.Machine
open Sys2Proof

/-! ### setReg -/

@[simp] theorem State.setReg_pending (s : State) (off : Nat) (v : BitVec 32) : (s.setReg off v).pending = s.pending := rfl
@[simp] theorem State.setReg_mem (s : State) (off : Nat) (v : BitVec 32) : (s.setReg off v).mem = s.mem := rfl
@[simp] theorem State.setReg_badAtoms (s : State) (off : Nat) (v : BitVec 32) : (s.setReg off v).badAtoms = s.badAtoms := rfl
@[simp] theorem State.setReg_owners (s : State) (off : Nat) (v : BitVec 32) : (s.setReg off v).owners = s.owners := rfl
@[simp] theorem State.setReg_xlate (s : State) (off : Nat) (v : BitVec 32) : (s.setReg off v).xlate = s.xlate := rfl
@[simp] theorem State.setReg_piers (s : State) (off : Nat) (v : BitVec 32) : (s.setReg off v).piers = s.piers := rfl
@[simp] theorem State.setReg_stks (s : State) (off : Nat) (v : BitVec 32) : (s.setReg off v).stks = s.stks := rfl
@[simp] theorem State.setReg_links (s : State) (off : Nat) (v : BitVec 32) : (s.setReg off v).links = s.links := rfl
@[simp] theorem State.setReg_dies (s : State) (off : Nat) (v : BitVec 32) : (s.setReg off v).dies = s.dies := rfl
@[simp] theorem State.setReg_colls (s : State) (off : Nat) (v : BitVec 32) : (s.setReg off v).colls = s.colls := rfl
@[simp] theorem State.setReg_routes (s : State) (off : Nat) (v : BitVec 32) : (s.setReg off v).routes = s.routes := rfl
@[simp] theorem State.setReg_fast (s : State) (off : Nat) (v : BitVec 32) : (s.setReg off v).fast = s.fast := rfl
@[simp] theorem State.setReg_left (s : State) (off : Nat) (v : BitVec 32) : (s.setReg off v).left = s.left := rfl
@[simp] theorem State.setReg_ts (s : State) (off : Nat) (v : BitVec 32) : (s.setReg off v).ts = s.ts := rfl
@[simp] theorem State.setReg_ks (s : State) (off : Nat) (v : BitVec 32) : (s.setReg off v).ks = s.ks := rfl
@[simp] theorem State.setReg_hp (s : State) (off : Nat) (v : BitVec 32) : (s.setReg off v).hp = s.hp := rfl
@[simp] theorem State.setReg_phys (s : State) (off : Nat) (v : BitVec 32) : (s.setReg off v).phys = s.phys := rfl
@[simp] theorem State.setReg_replies (s : State) (off : Nat) (v : BitVec 32) : (s.setReg off v).replies = s.replies := rfl
@[simp] theorem State.setReg_tallies (s : State) (off : Nat) (v : BitVec 32) : (s.setReg off v).tallies = s.tallies := rfl
@[simp] theorem State.setReg_out (s : State) (off : Nat) (v : BitVec 32) : (s.setReg off v).out = s.out := rfl
@[simp] theorem State.setReg_elapsed (s : State) (off : Nat) (v : BitVec 32) : (s.setReg off v).elapsed = s.elapsed := rfl
@[simp] theorem State.setReg_freeCtr (s : State) (off : Nat) (v : BitVec 32) : (s.setReg off v).freeCtr = s.freeCtr := rfl

/-! ### setPier -/

@[simp] theorem State.setPier_pending (s : State) (p : Nat) (x : PierState) : (s.setPier p x).pending = s.pending := rfl
@[simp] theorem State.setPier_regs (s : State) (p : Nat) (x : PierState) : (s.setPier p x).regs = s.regs := rfl
@[simp] theorem State.setPier_mem (s : State) (p : Nat) (x : PierState) : (s.setPier p x).mem = s.mem := rfl
@[simp] theorem State.setPier_badAtoms (s : State) (p : Nat) (x : PierState) : (s.setPier p x).badAtoms = s.badAtoms := rfl
@[simp] theorem State.setPier_owners (s : State) (p : Nat) (x : PierState) : (s.setPier p x).owners = s.owners := rfl
@[simp] theorem State.setPier_xlate (s : State) (p : Nat) (x : PierState) : (s.setPier p x).xlate = s.xlate := rfl
@[simp] theorem State.setPier_stks (s : State) (p : Nat) (x : PierState) : (s.setPier p x).stks = s.stks := rfl
@[simp] theorem State.setPier_links (s : State) (p : Nat) (x : PierState) : (s.setPier p x).links = s.links := rfl
@[simp] theorem State.setPier_dies (s : State) (p : Nat) (x : PierState) : (s.setPier p x).dies = s.dies := rfl
@[simp] theorem State.setPier_colls (s : State) (p : Nat) (x : PierState) : (s.setPier p x).colls = s.colls := rfl
@[simp] theorem State.setPier_routes (s : State) (p : Nat) (x : PierState) : (s.setPier p x).routes = s.routes := rfl
@[simp] theorem State.setPier_fast (s : State) (p : Nat) (x : PierState) : (s.setPier p x).fast = s.fast := rfl
@[simp] theorem State.setPier_left (s : State) (p : Nat) (x : PierState) : (s.setPier p x).left = s.left := rfl
@[simp] theorem State.setPier_ts (s : State) (p : Nat) (x : PierState) : (s.setPier p x).ts = s.ts := rfl
@[simp] theorem State.setPier_ks (s : State) (p : Nat) (x : PierState) : (s.setPier p x).ks = s.ks := rfl
@[simp] theorem State.setPier_hp (s : State) (p : Nat) (x : PierState) : (s.setPier p x).hp = s.hp := rfl
@[simp] theorem State.setPier_phys (s : State) (p : Nat) (x : PierState) : (s.setPier p x).phys = s.phys := rfl
@[simp] theorem State.setPier_replies (s : State) (p : Nat) (x : PierState) : (s.setPier p x).replies = s.replies := rfl
@[simp] theorem State.setPier_tallies (s : State) (p : Nat) (x : PierState) : (s.setPier p x).tallies = s.tallies := rfl
@[simp] theorem State.setPier_out (s : State) (p : Nat) (x : PierState) : (s.setPier p x).out = s.out := rfl
@[simp] theorem State.setPier_elapsed (s : State) (p : Nat) (x : PierState) : (s.setPier p x).elapsed = s.elapsed := rfl
@[simp] theorem State.setPier_freeCtr (s : State) (p : Nat) (x : PierState) : (s.setPier p x).freeCtr = s.freeCtr := rfl

/-! ### updPier -/

@[simp] theorem State.updPier_pending (s : State) (p : Nat) (f : PierState → PierState) : (s.updPier p f).pending = s.pending := rfl
@[simp] theorem State.updPier_regs (s : State) (p : Nat) (f : PierState → PierState) : (s.updPier p f).regs = s.regs := rfl
@[simp] theorem State.updPier_mem (s : State) (p : Nat) (f : PierState → PierState) : (s.updPier p f).mem = s.mem := rfl
@[simp] theorem State.updPier_badAtoms (s : State) (p : Nat) (f : PierState → PierState) : (s.updPier p f).badAtoms = s.badAtoms := rfl
@[simp] theorem State.updPier_owners (s : State) (p : Nat) (f : PierState → PierState) : (s.updPier p f).owners = s.owners := rfl
@[simp] theorem State.updPier_xlate (s : State) (p : Nat) (f : PierState → PierState) : (s.updPier p f).xlate = s.xlate := rfl
@[simp] theorem State.updPier_stks (s : State) (p : Nat) (f : PierState → PierState) : (s.updPier p f).stks = s.stks := rfl
@[simp] theorem State.updPier_links (s : State) (p : Nat) (f : PierState → PierState) : (s.updPier p f).links = s.links := rfl
@[simp] theorem State.updPier_dies (s : State) (p : Nat) (f : PierState → PierState) : (s.updPier p f).dies = s.dies := rfl
@[simp] theorem State.updPier_colls (s : State) (p : Nat) (f : PierState → PierState) : (s.updPier p f).colls = s.colls := rfl
@[simp] theorem State.updPier_routes (s : State) (p : Nat) (f : PierState → PierState) : (s.updPier p f).routes = s.routes := rfl
@[simp] theorem State.updPier_fast (s : State) (p : Nat) (f : PierState → PierState) : (s.updPier p f).fast = s.fast := rfl
@[simp] theorem State.updPier_left (s : State) (p : Nat) (f : PierState → PierState) : (s.updPier p f).left = s.left := rfl
@[simp] theorem State.updPier_ts (s : State) (p : Nat) (f : PierState → PierState) : (s.updPier p f).ts = s.ts := rfl
@[simp] theorem State.updPier_ks (s : State) (p : Nat) (f : PierState → PierState) : (s.updPier p f).ks = s.ks := rfl
@[simp] theorem State.updPier_hp (s : State) (p : Nat) (f : PierState → PierState) : (s.updPier p f).hp = s.hp := rfl
@[simp] theorem State.updPier_phys (s : State) (p : Nat) (f : PierState → PierState) : (s.updPier p f).phys = s.phys := rfl
@[simp] theorem State.updPier_replies (s : State) (p : Nat) (f : PierState → PierState) : (s.updPier p f).replies = s.replies := rfl
@[simp] theorem State.updPier_tallies (s : State) (p : Nat) (f : PierState → PierState) : (s.updPier p f).tallies = s.tallies := rfl
@[simp] theorem State.updPier_out (s : State) (p : Nat) (f : PierState → PierState) : (s.updPier p f).out = s.out := rfl
@[simp] theorem State.updPier_elapsed (s : State) (p : Nat) (f : PierState → PierState) : (s.updPier p f).elapsed = s.elapsed := rfl
@[simp] theorem State.updPier_freeCtr (s : State) (p : Nat) (f : PierState → PierState) : (s.updPier p f).freeCtr = s.freeCtr := rfl

/-! ### updStack -/

@[simp] theorem State.updStack_pending (s : State) (n : Nat) (f : StackState → StackState) : (s.updStack n f).pending = s.pending := rfl
@[simp] theorem State.updStack_regs (s : State) (n : Nat) (f : StackState → StackState) : (s.updStack n f).regs = s.regs := rfl
@[simp] theorem State.updStack_mem (s : State) (n : Nat) (f : StackState → StackState) : (s.updStack n f).mem = s.mem := rfl
@[simp] theorem State.updStack_badAtoms (s : State) (n : Nat) (f : StackState → StackState) : (s.updStack n f).badAtoms = s.badAtoms := rfl
@[simp] theorem State.updStack_owners (s : State) (n : Nat) (f : StackState → StackState) : (s.updStack n f).owners = s.owners := rfl
@[simp] theorem State.updStack_xlate (s : State) (n : Nat) (f : StackState → StackState) : (s.updStack n f).xlate = s.xlate := rfl
@[simp] theorem State.updStack_piers (s : State) (n : Nat) (f : StackState → StackState) : (s.updStack n f).piers = s.piers := rfl
@[simp] theorem State.updStack_links (s : State) (n : Nat) (f : StackState → StackState) : (s.updStack n f).links = s.links := rfl
@[simp] theorem State.updStack_dies (s : State) (n : Nat) (f : StackState → StackState) : (s.updStack n f).dies = s.dies := rfl
@[simp] theorem State.updStack_colls (s : State) (n : Nat) (f : StackState → StackState) : (s.updStack n f).colls = s.colls := rfl
@[simp] theorem State.updStack_routes (s : State) (n : Nat) (f : StackState → StackState) : (s.updStack n f).routes = s.routes := rfl
@[simp] theorem State.updStack_fast (s : State) (n : Nat) (f : StackState → StackState) : (s.updStack n f).fast = s.fast := rfl
@[simp] theorem State.updStack_left (s : State) (n : Nat) (f : StackState → StackState) : (s.updStack n f).left = s.left := rfl
@[simp] theorem State.updStack_ts (s : State) (n : Nat) (f : StackState → StackState) : (s.updStack n f).ts = s.ts := rfl
@[simp] theorem State.updStack_ks (s : State) (n : Nat) (f : StackState → StackState) : (s.updStack n f).ks = s.ks := rfl
@[simp] theorem State.updStack_hp (s : State) (n : Nat) (f : StackState → StackState) : (s.updStack n f).hp = s.hp := rfl
@[simp] theorem State.updStack_phys (s : State) (n : Nat) (f : StackState → StackState) : (s.updStack n f).phys = s.phys := rfl
@[simp] theorem State.updStack_replies (s : State) (n : Nat) (f : StackState → StackState) : (s.updStack n f).replies = s.replies := rfl
@[simp] theorem State.updStack_tallies (s : State) (n : Nat) (f : StackState → StackState) : (s.updStack n f).tallies = s.tallies := rfl
@[simp] theorem State.updStack_out (s : State) (n : Nat) (f : StackState → StackState) : (s.updStack n f).out = s.out := rfl
@[simp] theorem State.updStack_elapsed (s : State) (n : Nat) (f : StackState → StackState) : (s.updStack n f).elapsed = s.elapsed := rfl
@[simp] theorem State.updStack_freeCtr (s : State) (n : Nat) (f : StackState → StackState) : (s.updStack n f).freeCtr = s.freeCtr := rfl

/-! ### updLink -/

@[simp] theorem State.updLink_pending (s : State) (l : Nat) (f : LinkState → LinkState) : (s.updLink l f).pending = s.pending := rfl
@[simp] theorem State.updLink_regs (s : State) (l : Nat) (f : LinkState → LinkState) : (s.updLink l f).regs = s.regs := rfl
@[simp] theorem State.updLink_mem (s : State) (l : Nat) (f : LinkState → LinkState) : (s.updLink l f).mem = s.mem := rfl
@[simp] theorem State.updLink_badAtoms (s : State) (l : Nat) (f : LinkState → LinkState) : (s.updLink l f).badAtoms = s.badAtoms := rfl
@[simp] theorem State.updLink_owners (s : State) (l : Nat) (f : LinkState → LinkState) : (s.updLink l f).owners = s.owners := rfl
@[simp] theorem State.updLink_xlate (s : State) (l : Nat) (f : LinkState → LinkState) : (s.updLink l f).xlate = s.xlate := rfl
@[simp] theorem State.updLink_piers (s : State) (l : Nat) (f : LinkState → LinkState) : (s.updLink l f).piers = s.piers := rfl
@[simp] theorem State.updLink_stks (s : State) (l : Nat) (f : LinkState → LinkState) : (s.updLink l f).stks = s.stks := rfl
@[simp] theorem State.updLink_dies (s : State) (l : Nat) (f : LinkState → LinkState) : (s.updLink l f).dies = s.dies := rfl
@[simp] theorem State.updLink_colls (s : State) (l : Nat) (f : LinkState → LinkState) : (s.updLink l f).colls = s.colls := rfl
@[simp] theorem State.updLink_routes (s : State) (l : Nat) (f : LinkState → LinkState) : (s.updLink l f).routes = s.routes := rfl
@[simp] theorem State.updLink_fast (s : State) (l : Nat) (f : LinkState → LinkState) : (s.updLink l f).fast = s.fast := rfl
@[simp] theorem State.updLink_left (s : State) (l : Nat) (f : LinkState → LinkState) : (s.updLink l f).left = s.left := rfl
@[simp] theorem State.updLink_ts (s : State) (l : Nat) (f : LinkState → LinkState) : (s.updLink l f).ts = s.ts := rfl
@[simp] theorem State.updLink_ks (s : State) (l : Nat) (f : LinkState → LinkState) : (s.updLink l f).ks = s.ks := rfl
@[simp] theorem State.updLink_hp (s : State) (l : Nat) (f : LinkState → LinkState) : (s.updLink l f).hp = s.hp := rfl
@[simp] theorem State.updLink_phys (s : State) (l : Nat) (f : LinkState → LinkState) : (s.updLink l f).phys = s.phys := rfl
@[simp] theorem State.updLink_replies (s : State) (l : Nat) (f : LinkState → LinkState) : (s.updLink l f).replies = s.replies := rfl
@[simp] theorem State.updLink_tallies (s : State) (l : Nat) (f : LinkState → LinkState) : (s.updLink l f).tallies = s.tallies := rfl
@[simp] theorem State.updLink_out (s : State) (l : Nat) (f : LinkState → LinkState) : (s.updLink l f).out = s.out := rfl
@[simp] theorem State.updLink_elapsed (s : State) (l : Nat) (f : LinkState → LinkState) : (s.updLink l f).elapsed = s.elapsed := rfl
@[simp] theorem State.updLink_freeCtr (s : State) (l : Nat) (f : LinkState → LinkState) : (s.updLink l f).freeCtr = s.freeCtr := rfl

/-! ### updDie -/

@[simp] theorem State.updDie_pending (s : State) (k : Nat) (f : DieState → DieState) : (s.updDie k f).pending = s.pending := rfl
@[simp] theorem State.updDie_regs (s : State) (k : Nat) (f : DieState → DieState) : (s.updDie k f).regs = s.regs := rfl
@[simp] theorem State.updDie_mem (s : State) (k : Nat) (f : DieState → DieState) : (s.updDie k f).mem = s.mem := rfl
@[simp] theorem State.updDie_badAtoms (s : State) (k : Nat) (f : DieState → DieState) : (s.updDie k f).badAtoms = s.badAtoms := rfl
@[simp] theorem State.updDie_owners (s : State) (k : Nat) (f : DieState → DieState) : (s.updDie k f).owners = s.owners := rfl
@[simp] theorem State.updDie_xlate (s : State) (k : Nat) (f : DieState → DieState) : (s.updDie k f).xlate = s.xlate := rfl
@[simp] theorem State.updDie_piers (s : State) (k : Nat) (f : DieState → DieState) : (s.updDie k f).piers = s.piers := rfl
@[simp] theorem State.updDie_stks (s : State) (k : Nat) (f : DieState → DieState) : (s.updDie k f).stks = s.stks := rfl
@[simp] theorem State.updDie_links (s : State) (k : Nat) (f : DieState → DieState) : (s.updDie k f).links = s.links := rfl
@[simp] theorem State.updDie_colls (s : State) (k : Nat) (f : DieState → DieState) : (s.updDie k f).colls = s.colls := rfl
@[simp] theorem State.updDie_routes (s : State) (k : Nat) (f : DieState → DieState) : (s.updDie k f).routes = s.routes := rfl
@[simp] theorem State.updDie_fast (s : State) (k : Nat) (f : DieState → DieState) : (s.updDie k f).fast = s.fast := rfl
@[simp] theorem State.updDie_left (s : State) (k : Nat) (f : DieState → DieState) : (s.updDie k f).left = s.left := rfl
@[simp] theorem State.updDie_ts (s : State) (k : Nat) (f : DieState → DieState) : (s.updDie k f).ts = s.ts := rfl
@[simp] theorem State.updDie_ks (s : State) (k : Nat) (f : DieState → DieState) : (s.updDie k f).ks = s.ks := rfl
@[simp] theorem State.updDie_hp (s : State) (k : Nat) (f : DieState → DieState) : (s.updDie k f).hp = s.hp := rfl
@[simp] theorem State.updDie_phys (s : State) (k : Nat) (f : DieState → DieState) : (s.updDie k f).phys = s.phys := rfl
@[simp] theorem State.updDie_replies (s : State) (k : Nat) (f : DieState → DieState) : (s.updDie k f).replies = s.replies := rfl
@[simp] theorem State.updDie_tallies (s : State) (k : Nat) (f : DieState → DieState) : (s.updDie k f).tallies = s.tallies := rfl
@[simp] theorem State.updDie_out (s : State) (k : Nat) (f : DieState → DieState) : (s.updDie k f).out = s.out := rfl
@[simp] theorem State.updDie_elapsed (s : State) (k : Nat) (f : DieState → DieState) : (s.updDie k f).elapsed = s.elapsed := rfl
@[simp] theorem State.updDie_freeCtr (s : State) (k : Nat) (f : DieState → DieState) : (s.updDie k f).freeCtr = s.freeCtr := rfl

/-! ### updColl -/

@[simp] theorem State.updColl_pending (s : State) (d : Nat) (f : Collective → Collective) : (s.updColl d f).pending = s.pending := rfl
@[simp] theorem State.updColl_regs (s : State) (d : Nat) (f : Collective → Collective) : (s.updColl d f).regs = s.regs := rfl
@[simp] theorem State.updColl_mem (s : State) (d : Nat) (f : Collective → Collective) : (s.updColl d f).mem = s.mem := rfl
@[simp] theorem State.updColl_badAtoms (s : State) (d : Nat) (f : Collective → Collective) : (s.updColl d f).badAtoms = s.badAtoms := rfl
@[simp] theorem State.updColl_owners (s : State) (d : Nat) (f : Collective → Collective) : (s.updColl d f).owners = s.owners := rfl
@[simp] theorem State.updColl_xlate (s : State) (d : Nat) (f : Collective → Collective) : (s.updColl d f).xlate = s.xlate := rfl
@[simp] theorem State.updColl_piers (s : State) (d : Nat) (f : Collective → Collective) : (s.updColl d f).piers = s.piers := rfl
@[simp] theorem State.updColl_stks (s : State) (d : Nat) (f : Collective → Collective) : (s.updColl d f).stks = s.stks := rfl
@[simp] theorem State.updColl_links (s : State) (d : Nat) (f : Collective → Collective) : (s.updColl d f).links = s.links := rfl
@[simp] theorem State.updColl_dies (s : State) (d : Nat) (f : Collective → Collective) : (s.updColl d f).dies = s.dies := rfl
@[simp] theorem State.updColl_routes (s : State) (d : Nat) (f : Collective → Collective) : (s.updColl d f).routes = s.routes := rfl
@[simp] theorem State.updColl_fast (s : State) (d : Nat) (f : Collective → Collective) : (s.updColl d f).fast = s.fast := rfl
@[simp] theorem State.updColl_left (s : State) (d : Nat) (f : Collective → Collective) : (s.updColl d f).left = s.left := rfl
@[simp] theorem State.updColl_ts (s : State) (d : Nat) (f : Collective → Collective) : (s.updColl d f).ts = s.ts := rfl
@[simp] theorem State.updColl_ks (s : State) (d : Nat) (f : Collective → Collective) : (s.updColl d f).ks = s.ks := rfl
@[simp] theorem State.updColl_hp (s : State) (d : Nat) (f : Collective → Collective) : (s.updColl d f).hp = s.hp := rfl
@[simp] theorem State.updColl_phys (s : State) (d : Nat) (f : Collective → Collective) : (s.updColl d f).phys = s.phys := rfl
@[simp] theorem State.updColl_replies (s : State) (d : Nat) (f : Collective → Collective) : (s.updColl d f).replies = s.replies := rfl
@[simp] theorem State.updColl_tallies (s : State) (d : Nat) (f : Collective → Collective) : (s.updColl d f).tallies = s.tallies := rfl
@[simp] theorem State.updColl_out (s : State) (d : Nat) (f : Collective → Collective) : (s.updColl d f).out = s.out := rfl
@[simp] theorem State.updColl_elapsed (s : State) (d : Nat) (f : Collective → Collective) : (s.updColl d f).elapsed = s.elapsed := rfl
@[simp] theorem State.updColl_freeCtr (s : State) (d : Nat) (f : Collective → Collective) : (s.updColl d f).freeCtr = s.freeCtr := rfl

/-! ### updKs -/

@[simp] theorem State.updKs_pending (s : State) (f : Keystone → Keystone) : (s.updKs f).pending = s.pending := rfl
@[simp] theorem State.updKs_regs (s : State) (f : Keystone → Keystone) : (s.updKs f).regs = s.regs := rfl
@[simp] theorem State.updKs_mem (s : State) (f : Keystone → Keystone) : (s.updKs f).mem = s.mem := rfl
@[simp] theorem State.updKs_badAtoms (s : State) (f : Keystone → Keystone) : (s.updKs f).badAtoms = s.badAtoms := rfl
@[simp] theorem State.updKs_owners (s : State) (f : Keystone → Keystone) : (s.updKs f).owners = s.owners := rfl
@[simp] theorem State.updKs_xlate (s : State) (f : Keystone → Keystone) : (s.updKs f).xlate = s.xlate := rfl
@[simp] theorem State.updKs_piers (s : State) (f : Keystone → Keystone) : (s.updKs f).piers = s.piers := rfl
@[simp] theorem State.updKs_stks (s : State) (f : Keystone → Keystone) : (s.updKs f).stks = s.stks := rfl
@[simp] theorem State.updKs_links (s : State) (f : Keystone → Keystone) : (s.updKs f).links = s.links := rfl
@[simp] theorem State.updKs_dies (s : State) (f : Keystone → Keystone) : (s.updKs f).dies = s.dies := rfl
@[simp] theorem State.updKs_colls (s : State) (f : Keystone → Keystone) : (s.updKs f).colls = s.colls := rfl
@[simp] theorem State.updKs_routes (s : State) (f : Keystone → Keystone) : (s.updKs f).routes = s.routes := rfl
@[simp] theorem State.updKs_fast (s : State) (f : Keystone → Keystone) : (s.updKs f).fast = s.fast := rfl
@[simp] theorem State.updKs_left (s : State) (f : Keystone → Keystone) : (s.updKs f).left = s.left := rfl
@[simp] theorem State.updKs_ts (s : State) (f : Keystone → Keystone) : (s.updKs f).ts = s.ts := rfl
@[simp] theorem State.updKs_hp (s : State) (f : Keystone → Keystone) : (s.updKs f).hp = s.hp := rfl
@[simp] theorem State.updKs_phys (s : State) (f : Keystone → Keystone) : (s.updKs f).phys = s.phys := rfl
@[simp] theorem State.updKs_replies (s : State) (f : Keystone → Keystone) : (s.updKs f).replies = s.replies := rfl
@[simp] theorem State.updKs_tallies (s : State) (f : Keystone → Keystone) : (s.updKs f).tallies = s.tallies := rfl
@[simp] theorem State.updKs_out (s : State) (f : Keystone → Keystone) : (s.updKs f).out = s.out := rfl
@[simp] theorem State.updKs_elapsed (s : State) (f : Keystone → Keystone) : (s.updKs f).elapsed = s.elapsed := rfl
@[simp] theorem State.updKs_freeCtr (s : State) (f : Keystone → Keystone) : (s.updKs f).freeCtr = s.freeCtr := rfl

/-! ### updCtx -/

@[simp] theorem State.updCtx_pending (s : State) (c : Nat) (f : Context → Context) : (s.updCtx c f).pending = s.pending := rfl
@[simp] theorem State.updCtx_regs (s : State) (c : Nat) (f : Context → Context) : (s.updCtx c f).regs = s.regs := rfl
@[simp] theorem State.updCtx_mem (s : State) (c : Nat) (f : Context → Context) : (s.updCtx c f).mem = s.mem := rfl
@[simp] theorem State.updCtx_badAtoms (s : State) (c : Nat) (f : Context → Context) : (s.updCtx c f).badAtoms = s.badAtoms := rfl
@[simp] theorem State.updCtx_owners (s : State) (c : Nat) (f : Context → Context) : (s.updCtx c f).owners = s.owners := rfl
@[simp] theorem State.updCtx_xlate (s : State) (c : Nat) (f : Context → Context) : (s.updCtx c f).xlate = s.xlate := rfl
@[simp] theorem State.updCtx_piers (s : State) (c : Nat) (f : Context → Context) : (s.updCtx c f).piers = s.piers := rfl
@[simp] theorem State.updCtx_stks (s : State) (c : Nat) (f : Context → Context) : (s.updCtx c f).stks = s.stks := rfl
@[simp] theorem State.updCtx_links (s : State) (c : Nat) (f : Context → Context) : (s.updCtx c f).links = s.links := rfl
@[simp] theorem State.updCtx_dies (s : State) (c : Nat) (f : Context → Context) : (s.updCtx c f).dies = s.dies := rfl
@[simp] theorem State.updCtx_colls (s : State) (c : Nat) (f : Context → Context) : (s.updCtx c f).colls = s.colls := rfl
@[simp] theorem State.updCtx_routes (s : State) (c : Nat) (f : Context → Context) : (s.updCtx c f).routes = s.routes := rfl
@[simp] theorem State.updCtx_fast (s : State) (c : Nat) (f : Context → Context) : (s.updCtx c f).fast = s.fast := rfl
@[simp] theorem State.updCtx_left (s : State) (c : Nat) (f : Context → Context) : (s.updCtx c f).left = s.left := rfl
@[simp] theorem State.updCtx_ts (s : State) (c : Nat) (f : Context → Context) : (s.updCtx c f).ts = s.ts := rfl
@[simp] theorem State.updCtx_hp (s : State) (c : Nat) (f : Context → Context) : (s.updCtx c f).hp = s.hp := rfl
@[simp] theorem State.updCtx_phys (s : State) (c : Nat) (f : Context → Context) : (s.updCtx c f).phys = s.phys := rfl
@[simp] theorem State.updCtx_replies (s : State) (c : Nat) (f : Context → Context) : (s.updCtx c f).replies = s.replies := rfl
@[simp] theorem State.updCtx_tallies (s : State) (c : Nat) (f : Context → Context) : (s.updCtx c f).tallies = s.tallies := rfl
@[simp] theorem State.updCtx_out (s : State) (c : Nat) (f : Context → Context) : (s.updCtx c f).out = s.out := rfl
@[simp] theorem State.updCtx_elapsed (s : State) (c : Nat) (f : Context → Context) : (s.updCtx c f).elapsed = s.elapsed := rfl
@[simp] theorem State.updCtx_freeCtr (s : State) (c : Nat) (f : Context → Context) : (s.updCtx c f).freeCtr = s.freeCtr := rfl

/-! ### updMb -/

@[simp] theorem State.updMb_pending (s : State) (m : Nat) (f : Mailbox → Mailbox) : (s.updMb m f).pending = s.pending := rfl
@[simp] theorem State.updMb_regs (s : State) (m : Nat) (f : Mailbox → Mailbox) : (s.updMb m f).regs = s.regs := rfl
@[simp] theorem State.updMb_mem (s : State) (m : Nat) (f : Mailbox → Mailbox) : (s.updMb m f).mem = s.mem := rfl
@[simp] theorem State.updMb_badAtoms (s : State) (m : Nat) (f : Mailbox → Mailbox) : (s.updMb m f).badAtoms = s.badAtoms := rfl
@[simp] theorem State.updMb_owners (s : State) (m : Nat) (f : Mailbox → Mailbox) : (s.updMb m f).owners = s.owners := rfl
@[simp] theorem State.updMb_xlate (s : State) (m : Nat) (f : Mailbox → Mailbox) : (s.updMb m f).xlate = s.xlate := rfl
@[simp] theorem State.updMb_piers (s : State) (m : Nat) (f : Mailbox → Mailbox) : (s.updMb m f).piers = s.piers := rfl
@[simp] theorem State.updMb_stks (s : State) (m : Nat) (f : Mailbox → Mailbox) : (s.updMb m f).stks = s.stks := rfl
@[simp] theorem State.updMb_links (s : State) (m : Nat) (f : Mailbox → Mailbox) : (s.updMb m f).links = s.links := rfl
@[simp] theorem State.updMb_dies (s : State) (m : Nat) (f : Mailbox → Mailbox) : (s.updMb m f).dies = s.dies := rfl
@[simp] theorem State.updMb_colls (s : State) (m : Nat) (f : Mailbox → Mailbox) : (s.updMb m f).colls = s.colls := rfl
@[simp] theorem State.updMb_routes (s : State) (m : Nat) (f : Mailbox → Mailbox) : (s.updMb m f).routes = s.routes := rfl
@[simp] theorem State.updMb_fast (s : State) (m : Nat) (f : Mailbox → Mailbox) : (s.updMb m f).fast = s.fast := rfl
@[simp] theorem State.updMb_left (s : State) (m : Nat) (f : Mailbox → Mailbox) : (s.updMb m f).left = s.left := rfl
@[simp] theorem State.updMb_ts (s : State) (m : Nat) (f : Mailbox → Mailbox) : (s.updMb m f).ts = s.ts := rfl
@[simp] theorem State.updMb_hp (s : State) (m : Nat) (f : Mailbox → Mailbox) : (s.updMb m f).hp = s.hp := rfl
@[simp] theorem State.updMb_phys (s : State) (m : Nat) (f : Mailbox → Mailbox) : (s.updMb m f).phys = s.phys := rfl
@[simp] theorem State.updMb_replies (s : State) (m : Nat) (f : Mailbox → Mailbox) : (s.updMb m f).replies = s.replies := rfl
@[simp] theorem State.updMb_tallies (s : State) (m : Nat) (f : Mailbox → Mailbox) : (s.updMb m f).tallies = s.tallies := rfl
@[simp] theorem State.updMb_out (s : State) (m : Nat) (f : Mailbox → Mailbox) : (s.updMb m f).out = s.out := rfl
@[simp] theorem State.updMb_elapsed (s : State) (m : Nat) (f : Mailbox → Mailbox) : (s.updMb m f).elapsed = s.elapsed := rfl
@[simp] theorem State.updMb_freeCtr (s : State) (m : Nat) (f : Mailbox → Mailbox) : (s.updMb m f).freeCtr = s.freeCtr := rfl

/-! ### updStream -/

@[simp] theorem State.updStream_pending (s : State) (i : Nat) (f : Stream → Stream) : (s.updStream i f).pending = s.pending := rfl
@[simp] theorem State.updStream_regs (s : State) (i : Nat) (f : Stream → Stream) : (s.updStream i f).regs = s.regs := rfl
@[simp] theorem State.updStream_mem (s : State) (i : Nat) (f : Stream → Stream) : (s.updStream i f).mem = s.mem := rfl
@[simp] theorem State.updStream_badAtoms (s : State) (i : Nat) (f : Stream → Stream) : (s.updStream i f).badAtoms = s.badAtoms := rfl
@[simp] theorem State.updStream_owners (s : State) (i : Nat) (f : Stream → Stream) : (s.updStream i f).owners = s.owners := rfl
@[simp] theorem State.updStream_xlate (s : State) (i : Nat) (f : Stream → Stream) : (s.updStream i f).xlate = s.xlate := rfl
@[simp] theorem State.updStream_piers (s : State) (i : Nat) (f : Stream → Stream) : (s.updStream i f).piers = s.piers := rfl
@[simp] theorem State.updStream_stks (s : State) (i : Nat) (f : Stream → Stream) : (s.updStream i f).stks = s.stks := rfl
@[simp] theorem State.updStream_links (s : State) (i : Nat) (f : Stream → Stream) : (s.updStream i f).links = s.links := rfl
@[simp] theorem State.updStream_dies (s : State) (i : Nat) (f : Stream → Stream) : (s.updStream i f).dies = s.dies := rfl
@[simp] theorem State.updStream_colls (s : State) (i : Nat) (f : Stream → Stream) : (s.updStream i f).colls = s.colls := rfl
@[simp] theorem State.updStream_routes (s : State) (i : Nat) (f : Stream → Stream) : (s.updStream i f).routes = s.routes := rfl
@[simp] theorem State.updStream_fast (s : State) (i : Nat) (f : Stream → Stream) : (s.updStream i f).fast = s.fast := rfl
@[simp] theorem State.updStream_left (s : State) (i : Nat) (f : Stream → Stream) : (s.updStream i f).left = s.left := rfl
@[simp] theorem State.updStream_ts (s : State) (i : Nat) (f : Stream → Stream) : (s.updStream i f).ts = s.ts := rfl
@[simp] theorem State.updStream_hp (s : State) (i : Nat) (f : Stream → Stream) : (s.updStream i f).hp = s.hp := rfl
@[simp] theorem State.updStream_phys (s : State) (i : Nat) (f : Stream → Stream) : (s.updStream i f).phys = s.phys := rfl
@[simp] theorem State.updStream_replies (s : State) (i : Nat) (f : Stream → Stream) : (s.updStream i f).replies = s.replies := rfl
@[simp] theorem State.updStream_tallies (s : State) (i : Nat) (f : Stream → Stream) : (s.updStream i f).tallies = s.tallies := rfl
@[simp] theorem State.updStream_out (s : State) (i : Nat) (f : Stream → Stream) : (s.updStream i f).out = s.out := rfl
@[simp] theorem State.updStream_elapsed (s : State) (i : Nat) (f : Stream → Stream) : (s.updStream i f).elapsed = s.elapsed := rfl
@[simp] theorem State.updStream_freeCtr (s : State) (i : Nat) (f : Stream → Stream) : (s.updStream i f).freeCtr = s.freeCtr := rfl

/-! ### emit -/

@[simp] theorem State.emit_pending (s : State) (o : Out) : (s.emit o).pending = s.pending := rfl
@[simp] theorem State.emit_regs (s : State) (o : Out) : (s.emit o).regs = s.regs := rfl
@[simp] theorem State.emit_mem (s : State) (o : Out) : (s.emit o).mem = s.mem := rfl
@[simp] theorem State.emit_badAtoms (s : State) (o : Out) : (s.emit o).badAtoms = s.badAtoms := rfl
@[simp] theorem State.emit_owners (s : State) (o : Out) : (s.emit o).owners = s.owners := rfl
@[simp] theorem State.emit_xlate (s : State) (o : Out) : (s.emit o).xlate = s.xlate := rfl
@[simp] theorem State.emit_piers (s : State) (o : Out) : (s.emit o).piers = s.piers := rfl
@[simp] theorem State.emit_stks (s : State) (o : Out) : (s.emit o).stks = s.stks := rfl
@[simp] theorem State.emit_links (s : State) (o : Out) : (s.emit o).links = s.links := rfl
@[simp] theorem State.emit_dies (s : State) (o : Out) : (s.emit o).dies = s.dies := rfl
@[simp] theorem State.emit_colls (s : State) (o : Out) : (s.emit o).colls = s.colls := rfl
@[simp] theorem State.emit_routes (s : State) (o : Out) : (s.emit o).routes = s.routes := rfl
@[simp] theorem State.emit_fast (s : State) (o : Out) : (s.emit o).fast = s.fast := rfl
@[simp] theorem State.emit_left (s : State) (o : Out) : (s.emit o).left = s.left := rfl
@[simp] theorem State.emit_ts (s : State) (o : Out) : (s.emit o).ts = s.ts := rfl
@[simp] theorem State.emit_ks (s : State) (o : Out) : (s.emit o).ks = s.ks := rfl
@[simp] theorem State.emit_hp (s : State) (o : Out) : (s.emit o).hp = s.hp := rfl
@[simp] theorem State.emit_phys (s : State) (o : Out) : (s.emit o).phys = s.phys := rfl
@[simp] theorem State.emit_replies (s : State) (o : Out) : (s.emit o).replies = s.replies := rfl
@[simp] theorem State.emit_tallies (s : State) (o : Out) : (s.emit o).tallies = s.tallies := rfl
@[simp] theorem State.emit_elapsed (s : State) (o : Out) : (s.emit o).elapsed = s.elapsed := rfl
@[simp] theorem State.emit_freeCtr (s : State) (o : Out) : (s.emit o).freeCtr = s.freeCtr := rfl

/-! ### setOwner -/

@[simp] theorem State.setOwner_pending (s : State) (page w : Nat) : (s.setOwner page w).pending = s.pending := rfl
@[simp] theorem State.setOwner_regs (s : State) (page w : Nat) : (s.setOwner page w).regs = s.regs := rfl
@[simp] theorem State.setOwner_mem (s : State) (page w : Nat) : (s.setOwner page w).mem = s.mem := rfl
@[simp] theorem State.setOwner_badAtoms (s : State) (page w : Nat) : (s.setOwner page w).badAtoms = s.badAtoms := rfl
@[simp] theorem State.setOwner_xlate (s : State) (page w : Nat) : (s.setOwner page w).xlate = s.xlate := rfl
@[simp] theorem State.setOwner_piers (s : State) (page w : Nat) : (s.setOwner page w).piers = s.piers := rfl
@[simp] theorem State.setOwner_stks (s : State) (page w : Nat) : (s.setOwner page w).stks = s.stks := rfl
@[simp] theorem State.setOwner_links (s : State) (page w : Nat) : (s.setOwner page w).links = s.links := rfl
@[simp] theorem State.setOwner_dies (s : State) (page w : Nat) : (s.setOwner page w).dies = s.dies := rfl
@[simp] theorem State.setOwner_colls (s : State) (page w : Nat) : (s.setOwner page w).colls = s.colls := rfl
@[simp] theorem State.setOwner_routes (s : State) (page w : Nat) : (s.setOwner page w).routes = s.routes := rfl
@[simp] theorem State.setOwner_fast (s : State) (page w : Nat) : (s.setOwner page w).fast = s.fast := rfl
@[simp] theorem State.setOwner_left (s : State) (page w : Nat) : (s.setOwner page w).left = s.left := rfl
@[simp] theorem State.setOwner_ts (s : State) (page w : Nat) : (s.setOwner page w).ts = s.ts := rfl
@[simp] theorem State.setOwner_ks (s : State) (page w : Nat) : (s.setOwner page w).ks = s.ks := rfl
@[simp] theorem State.setOwner_hp (s : State) (page w : Nat) : (s.setOwner page w).hp = s.hp := rfl
@[simp] theorem State.setOwner_phys (s : State) (page w : Nat) : (s.setOwner page w).phys = s.phys := rfl
@[simp] theorem State.setOwner_replies (s : State) (page w : Nat) : (s.setOwner page w).replies = s.replies := rfl
@[simp] theorem State.setOwner_tallies (s : State) (page w : Nat) : (s.setOwner page w).tallies = s.tallies := rfl
@[simp] theorem State.setOwner_out (s : State) (page w : Nat) : (s.setOwner page w).out = s.out := rfl
@[simp] theorem State.setOwner_elapsed (s : State) (page w : Nat) : (s.setOwner page w).elapsed = s.elapsed := rfl
@[simp] theorem State.setOwner_freeCtr (s : State) (page w : Nat) : (s.setOwner page w).freeCtr = s.freeCtr := rfl

/-! ### setRfld -/

@[simp] theorem State.setRfld_pending (s : State) (off lo n v : Nat) : (s.setRfld off lo n v).pending = s.pending := rfl
@[simp] theorem State.setRfld_mem (s : State) (off lo n v : Nat) : (s.setRfld off lo n v).mem = s.mem := rfl
@[simp] theorem State.setRfld_badAtoms (s : State) (off lo n v : Nat) : (s.setRfld off lo n v).badAtoms = s.badAtoms := rfl
@[simp] theorem State.setRfld_owners (s : State) (off lo n v : Nat) : (s.setRfld off lo n v).owners = s.owners := rfl
@[simp] theorem State.setRfld_xlate (s : State) (off lo n v : Nat) : (s.setRfld off lo n v).xlate = s.xlate := rfl
@[simp] theorem State.setRfld_piers (s : State) (off lo n v : Nat) : (s.setRfld off lo n v).piers = s.piers := rfl
@[simp] theorem State.setRfld_stks (s : State) (off lo n v : Nat) : (s.setRfld off lo n v).stks = s.stks := rfl
@[simp] theorem State.setRfld_links (s : State) (off lo n v : Nat) : (s.setRfld off lo n v).links = s.links := rfl
@[simp] theorem State.setRfld_dies (s : State) (off lo n v : Nat) : (s.setRfld off lo n v).dies = s.dies := rfl
@[simp] theorem State.setRfld_colls (s : State) (off lo n v : Nat) : (s.setRfld off lo n v).colls = s.colls := rfl
@[simp] theorem State.setRfld_routes (s : State) (off lo n v : Nat) : (s.setRfld off lo n v).routes = s.routes := rfl
@[simp] theorem State.setRfld_fast (s : State) (off lo n v : Nat) : (s.setRfld off lo n v).fast = s.fast := rfl
@[simp] theorem State.setRfld_left (s : State) (off lo n v : Nat) : (s.setRfld off lo n v).left = s.left := rfl
@[simp] theorem State.setRfld_ts (s : State) (off lo n v : Nat) : (s.setRfld off lo n v).ts = s.ts := rfl
@[simp] theorem State.setRfld_ks (s : State) (off lo n v : Nat) : (s.setRfld off lo n v).ks = s.ks := rfl
@[simp] theorem State.setRfld_hp (s : State) (off lo n v : Nat) : (s.setRfld off lo n v).hp = s.hp := rfl
@[simp] theorem State.setRfld_phys (s : State) (off lo n v : Nat) : (s.setRfld off lo n v).phys = s.phys := rfl
@[simp] theorem State.setRfld_replies (s : State) (off lo n v : Nat) : (s.setRfld off lo n v).replies = s.replies := rfl
@[simp] theorem State.setRfld_tallies (s : State) (off lo n v : Nat) : (s.setRfld off lo n v).tallies = s.tallies := rfl
@[simp] theorem State.setRfld_out (s : State) (off lo n v : Nat) : (s.setRfld off lo n v).out = s.out := rfl
@[simp] theorem State.setRfld_elapsed (s : State) (off lo n v : Nat) : (s.setRfld off lo n v).elapsed = s.elapsed := rfl
@[simp] theorem State.setRfld_freeCtr (s : State) (off lo n v : Nat) : (s.setRfld off lo n v).freeCtr = s.freeCtr := rfl

/-! ### orReg -/

@[simp] theorem State.orReg_pending (s : State) (off m : Nat) : (s.orReg off m).pending = s.pending := rfl
@[simp] theorem State.orReg_mem (s : State) (off m : Nat) : (s.orReg off m).mem = s.mem := rfl
@[simp] theorem State.orReg_badAtoms (s : State) (off m : Nat) : (s.orReg off m).badAtoms = s.badAtoms := rfl
@[simp] theorem State.orReg_owners (s : State) (off m : Nat) : (s.orReg off m).owners = s.owners := rfl
@[simp] theorem State.orReg_xlate (s : State) (off m : Nat) : (s.orReg off m).xlate = s.xlate := rfl
@[simp] theorem State.orReg_piers (s : State) (off m : Nat) : (s.orReg off m).piers = s.piers := rfl
@[simp] theorem State.orReg_stks (s : State) (off m : Nat) : (s.orReg off m).stks = s.stks := rfl
@[simp] theorem State.orReg_links (s : State) (off m : Nat) : (s.orReg off m).links = s.links := rfl
@[simp] theorem State.orReg_dies (s : State) (off m : Nat) : (s.orReg off m).dies = s.dies := rfl
@[simp] theorem State.orReg_colls (s : State) (off m : Nat) : (s.orReg off m).colls = s.colls := rfl
@[simp] theorem State.orReg_routes (s : State) (off m : Nat) : (s.orReg off m).routes = s.routes := rfl
@[simp] theorem State.orReg_fast (s : State) (off m : Nat) : (s.orReg off m).fast = s.fast := rfl
@[simp] theorem State.orReg_left (s : State) (off m : Nat) : (s.orReg off m).left = s.left := rfl
@[simp] theorem State.orReg_ts (s : State) (off m : Nat) : (s.orReg off m).ts = s.ts := rfl
@[simp] theorem State.orReg_ks (s : State) (off m : Nat) : (s.orReg off m).ks = s.ks := rfl
@[simp] theorem State.orReg_hp (s : State) (off m : Nat) : (s.orReg off m).hp = s.hp := rfl
@[simp] theorem State.orReg_phys (s : State) (off m : Nat) : (s.orReg off m).phys = s.phys := rfl
@[simp] theorem State.orReg_replies (s : State) (off m : Nat) : (s.orReg off m).replies = s.replies := rfl
@[simp] theorem State.orReg_tallies (s : State) (off m : Nat) : (s.orReg off m).tallies = s.tallies := rfl
@[simp] theorem State.orReg_out (s : State) (off m : Nat) : (s.orReg off m).out = s.out := rfl
@[simp] theorem State.orReg_elapsed (s : State) (off m : Nat) : (s.orReg off m).elapsed = s.elapsed := rfl
@[simp] theorem State.orReg_freeCtr (s : State) (off m : Nat) : (s.orReg off m).freeCtr = s.freeCtr := rfl

/-! ### bump -/

@[simp] theorem State.bump_pending (s : State) (off n : Nat) : (s.bump off n).pending = s.pending := rfl
@[simp] theorem State.bump_mem (s : State) (off n : Nat) : (s.bump off n).mem = s.mem := rfl
@[simp] theorem State.bump_badAtoms (s : State) (off n : Nat) : (s.bump off n).badAtoms = s.badAtoms := rfl
@[simp] theorem State.bump_owners (s : State) (off n : Nat) : (s.bump off n).owners = s.owners := rfl
@[simp] theorem State.bump_xlate (s : State) (off n : Nat) : (s.bump off n).xlate = s.xlate := rfl
@[simp] theorem State.bump_piers (s : State) (off n : Nat) : (s.bump off n).piers = s.piers := rfl
@[simp] theorem State.bump_stks (s : State) (off n : Nat) : (s.bump off n).stks = s.stks := rfl
@[simp] theorem State.bump_links (s : State) (off n : Nat) : (s.bump off n).links = s.links := rfl
@[simp] theorem State.bump_dies (s : State) (off n : Nat) : (s.bump off n).dies = s.dies := rfl
@[simp] theorem State.bump_colls (s : State) (off n : Nat) : (s.bump off n).colls = s.colls := rfl
@[simp] theorem State.bump_routes (s : State) (off n : Nat) : (s.bump off n).routes = s.routes := rfl
@[simp] theorem State.bump_fast (s : State) (off n : Nat) : (s.bump off n).fast = s.fast := rfl
@[simp] theorem State.bump_left (s : State) (off n : Nat) : (s.bump off n).left = s.left := rfl
@[simp] theorem State.bump_ts (s : State) (off n : Nat) : (s.bump off n).ts = s.ts := rfl
@[simp] theorem State.bump_ks (s : State) (off n : Nat) : (s.bump off n).ks = s.ks := rfl
@[simp] theorem State.bump_hp (s : State) (off n : Nat) : (s.bump off n).hp = s.hp := rfl
@[simp] theorem State.bump_phys (s : State) (off n : Nat) : (s.bump off n).phys = s.phys := rfl
@[simp] theorem State.bump_replies (s : State) (off n : Nat) : (s.bump off n).replies = s.replies := rfl
@[simp] theorem State.bump_tallies (s : State) (off n : Nat) : (s.bump off n).tallies = s.tallies := rfl
@[simp] theorem State.bump_out (s : State) (off n : Nat) : (s.bump off n).out = s.out := rfl
@[simp] theorem State.bump_elapsed (s : State) (off n : Nat) : (s.bump off n).elapsed = s.elapsed := rfl
@[simp] theorem State.bump_freeCtr (s : State) (off n : Nat) : (s.bump off n).freeCtr = s.freeCtr := rfl

/-! ### setReg64 -/

@[simp] theorem State.setReg64_pending (s : State) (off v : Nat) : (s.setReg64 off v).pending = s.pending := rfl
@[simp] theorem State.setReg64_mem (s : State) (off v : Nat) : (s.setReg64 off v).mem = s.mem := rfl
@[simp] theorem State.setReg64_badAtoms (s : State) (off v : Nat) : (s.setReg64 off v).badAtoms = s.badAtoms := rfl
@[simp] theorem State.setReg64_owners (s : State) (off v : Nat) : (s.setReg64 off v).owners = s.owners := rfl
@[simp] theorem State.setReg64_xlate (s : State) (off v : Nat) : (s.setReg64 off v).xlate = s.xlate := rfl
@[simp] theorem State.setReg64_piers (s : State) (off v : Nat) : (s.setReg64 off v).piers = s.piers := rfl
@[simp] theorem State.setReg64_stks (s : State) (off v : Nat) : (s.setReg64 off v).stks = s.stks := rfl
@[simp] theorem State.setReg64_links (s : State) (off v : Nat) : (s.setReg64 off v).links = s.links := rfl
@[simp] theorem State.setReg64_dies (s : State) (off v : Nat) : (s.setReg64 off v).dies = s.dies := rfl
@[simp] theorem State.setReg64_colls (s : State) (off v : Nat) : (s.setReg64 off v).colls = s.colls := rfl
@[simp] theorem State.setReg64_routes (s : State) (off v : Nat) : (s.setReg64 off v).routes = s.routes := rfl
@[simp] theorem State.setReg64_fast (s : State) (off v : Nat) : (s.setReg64 off v).fast = s.fast := rfl
@[simp] theorem State.setReg64_left (s : State) (off v : Nat) : (s.setReg64 off v).left = s.left := rfl
@[simp] theorem State.setReg64_ts (s : State) (off v : Nat) : (s.setReg64 off v).ts = s.ts := rfl
@[simp] theorem State.setReg64_ks (s : State) (off v : Nat) : (s.setReg64 off v).ks = s.ks := rfl
@[simp] theorem State.setReg64_hp (s : State) (off v : Nat) : (s.setReg64 off v).hp = s.hp := rfl
@[simp] theorem State.setReg64_phys (s : State) (off v : Nat) : (s.setReg64 off v).phys = s.phys := rfl
@[simp] theorem State.setReg64_replies (s : State) (off v : Nat) : (s.setReg64 off v).replies = s.replies := rfl
@[simp] theorem State.setReg64_tallies (s : State) (off v : Nat) : (s.setReg64 off v).tallies = s.tallies := rfl
@[simp] theorem State.setReg64_out (s : State) (off v : Nat) : (s.setReg64 off v).out = s.out := rfl
@[simp] theorem State.setReg64_elapsed (s : State) (off v : Nat) : (s.setReg64 off v).elapsed = s.elapsed := rfl
@[simp] theorem State.setReg64_freeCtr (s : State) (off v : Nat) : (s.setReg64 off v).freeCtr = s.freeCtr := rfl

/-! ### add64 -/

@[simp] theorem State.add64_pending (s : State) (off n : Nat) : (s.add64 off n).pending = s.pending := rfl
@[simp] theorem State.add64_mem (s : State) (off n : Nat) : (s.add64 off n).mem = s.mem := rfl
@[simp] theorem State.add64_badAtoms (s : State) (off n : Nat) : (s.add64 off n).badAtoms = s.badAtoms := rfl
@[simp] theorem State.add64_owners (s : State) (off n : Nat) : (s.add64 off n).owners = s.owners := rfl
@[simp] theorem State.add64_xlate (s : State) (off n : Nat) : (s.add64 off n).xlate = s.xlate := rfl
@[simp] theorem State.add64_piers (s : State) (off n : Nat) : (s.add64 off n).piers = s.piers := rfl
@[simp] theorem State.add64_stks (s : State) (off n : Nat) : (s.add64 off n).stks = s.stks := rfl
@[simp] theorem State.add64_links (s : State) (off n : Nat) : (s.add64 off n).links = s.links := rfl
@[simp] theorem State.add64_dies (s : State) (off n : Nat) : (s.add64 off n).dies = s.dies := rfl
@[simp] theorem State.add64_colls (s : State) (off n : Nat) : (s.add64 off n).colls = s.colls := rfl
@[simp] theorem State.add64_routes (s : State) (off n : Nat) : (s.add64 off n).routes = s.routes := rfl
@[simp] theorem State.add64_fast (s : State) (off n : Nat) : (s.add64 off n).fast = s.fast := rfl
@[simp] theorem State.add64_left (s : State) (off n : Nat) : (s.add64 off n).left = s.left := rfl
@[simp] theorem State.add64_ts (s : State) (off n : Nat) : (s.add64 off n).ts = s.ts := rfl
@[simp] theorem State.add64_ks (s : State) (off n : Nat) : (s.add64 off n).ks = s.ks := rfl
@[simp] theorem State.add64_hp (s : State) (off n : Nat) : (s.add64 off n).hp = s.hp := rfl
@[simp] theorem State.add64_phys (s : State) (off n : Nat) : (s.add64 off n).phys = s.phys := rfl
@[simp] theorem State.add64_replies (s : State) (off n : Nat) : (s.add64 off n).replies = s.replies := rfl
@[simp] theorem State.add64_tallies (s : State) (off n : Nat) : (s.add64 off n).tallies = s.tallies := rfl
@[simp] theorem State.add64_out (s : State) (off n : Nat) : (s.add64 off n).out = s.out := rfl
@[simp] theorem State.add64_elapsed (s : State) (off n : Nat) : (s.add64 off n).elapsed = s.elapsed := rfl
@[simp] theorem State.add64_freeCtr (s : State) (off n : Nat) : (s.add64 off n).freeCtr = s.freeCtr := rfl

/-! ### tcAdd -/

@[simp] theorem State.tcAdd_pending (s : State) (p t : Nat) (i : Int) : (s.tcAdd p t i).pending = s.pending := rfl
@[simp] theorem State.tcAdd_regs (s : State) (p t : Nat) (i : Int) : (s.tcAdd p t i).regs = s.regs := rfl
@[simp] theorem State.tcAdd_mem (s : State) (p t : Nat) (i : Int) : (s.tcAdd p t i).mem = s.mem := rfl
@[simp] theorem State.tcAdd_badAtoms (s : State) (p t : Nat) (i : Int) : (s.tcAdd p t i).badAtoms = s.badAtoms := rfl
@[simp] theorem State.tcAdd_owners (s : State) (p t : Nat) (i : Int) : (s.tcAdd p t i).owners = s.owners := rfl
@[simp] theorem State.tcAdd_xlate (s : State) (p t : Nat) (i : Int) : (s.tcAdd p t i).xlate = s.xlate := rfl
@[simp] theorem State.tcAdd_stks (s : State) (p t : Nat) (i : Int) : (s.tcAdd p t i).stks = s.stks := rfl
@[simp] theorem State.tcAdd_links (s : State) (p t : Nat) (i : Int) : (s.tcAdd p t i).links = s.links := rfl
@[simp] theorem State.tcAdd_dies (s : State) (p t : Nat) (i : Int) : (s.tcAdd p t i).dies = s.dies := rfl
@[simp] theorem State.tcAdd_colls (s : State) (p t : Nat) (i : Int) : (s.tcAdd p t i).colls = s.colls := rfl
@[simp] theorem State.tcAdd_routes (s : State) (p t : Nat) (i : Int) : (s.tcAdd p t i).routes = s.routes := rfl
@[simp] theorem State.tcAdd_fast (s : State) (p t : Nat) (i : Int) : (s.tcAdd p t i).fast = s.fast := rfl
@[simp] theorem State.tcAdd_left (s : State) (p t : Nat) (i : Int) : (s.tcAdd p t i).left = s.left := rfl
@[simp] theorem State.tcAdd_ts (s : State) (p t : Nat) (i : Int) : (s.tcAdd p t i).ts = s.ts := rfl
@[simp] theorem State.tcAdd_ks (s : State) (p t : Nat) (i : Int) : (s.tcAdd p t i).ks = s.ks := rfl
@[simp] theorem State.tcAdd_hp (s : State) (p t : Nat) (i : Int) : (s.tcAdd p t i).hp = s.hp := rfl
@[simp] theorem State.tcAdd_phys (s : State) (p t : Nat) (i : Int) : (s.tcAdd p t i).phys = s.phys := rfl
@[simp] theorem State.tcAdd_replies (s : State) (p t : Nat) (i : Int) : (s.tcAdd p t i).replies = s.replies := rfl
@[simp] theorem State.tcAdd_tallies (s : State) (p t : Nat) (i : Int) : (s.tcAdd p t i).tallies = s.tallies := rfl
@[simp] theorem State.tcAdd_out (s : State) (p t : Nat) (i : Int) : (s.tcAdd p t i).out = s.out := rfl
@[simp] theorem State.tcAdd_elapsed (s : State) (p t : Nat) (i : Int) : (s.tcAdd p t i).elapsed = s.elapsed := rfl
@[simp] theorem State.tcAdd_freeCtr (s : State) (p t : Nat) (i : Int) : (s.tcAdd p t i).freeCtr = s.freeCtr := rfl

/-! ### tcSet -/

@[simp] theorem State.tcSet_pending (s : State) (p t v : Nat) : (s.tcSet p t v).pending = s.pending := rfl
@[simp] theorem State.tcSet_regs (s : State) (p t v : Nat) : (s.tcSet p t v).regs = s.regs := rfl
@[simp] theorem State.tcSet_mem (s : State) (p t v : Nat) : (s.tcSet p t v).mem = s.mem := rfl
@[simp] theorem State.tcSet_badAtoms (s : State) (p t v : Nat) : (s.tcSet p t v).badAtoms = s.badAtoms := rfl
@[simp] theorem State.tcSet_owners (s : State) (p t v : Nat) : (s.tcSet p t v).owners = s.owners := rfl
@[simp] theorem State.tcSet_xlate (s : State) (p t v : Nat) : (s.tcSet p t v).xlate = s.xlate := rfl
@[simp] theorem State.tcSet_stks (s : State) (p t v : Nat) : (s.tcSet p t v).stks = s.stks := rfl
@[simp] theorem State.tcSet_links (s : State) (p t v : Nat) : (s.tcSet p t v).links = s.links := rfl
@[simp] theorem State.tcSet_dies (s : State) (p t v : Nat) : (s.tcSet p t v).dies = s.dies := rfl
@[simp] theorem State.tcSet_colls (s : State) (p t v : Nat) : (s.tcSet p t v).colls = s.colls := rfl
@[simp] theorem State.tcSet_routes (s : State) (p t v : Nat) : (s.tcSet p t v).routes = s.routes := rfl
@[simp] theorem State.tcSet_fast (s : State) (p t v : Nat) : (s.tcSet p t v).fast = s.fast := rfl
@[simp] theorem State.tcSet_left (s : State) (p t v : Nat) : (s.tcSet p t v).left = s.left := rfl
@[simp] theorem State.tcSet_ts (s : State) (p t v : Nat) : (s.tcSet p t v).ts = s.ts := rfl
@[simp] theorem State.tcSet_ks (s : State) (p t v : Nat) : (s.tcSet p t v).ks = s.ks := rfl
@[simp] theorem State.tcSet_hp (s : State) (p t v : Nat) : (s.tcSet p t v).hp = s.hp := rfl
@[simp] theorem State.tcSet_phys (s : State) (p t v : Nat) : (s.tcSet p t v).phys = s.phys := rfl
@[simp] theorem State.tcSet_replies (s : State) (p t v : Nat) : (s.tcSet p t v).replies = s.replies := rfl
@[simp] theorem State.tcSet_tallies (s : State) (p t v : Nat) : (s.tcSet p t v).tallies = s.tallies := rfl
@[simp] theorem State.tcSet_out (s : State) (p t v : Nat) : (s.tcSet p t v).out = s.out := rfl
@[simp] theorem State.tcSet_elapsed (s : State) (p t v : Nat) : (s.tcSet p t v).elapsed = s.elapsed := rfl
@[simp] theorem State.tcSet_freeCtr (s : State) (p t v : Nat) : (s.tcSet p t v).freeCtr = s.freeCtr := rfl

/-! ### tcSend -/

@[simp] theorem State.tcSend_pending (s : State) (a b c d : Nat) (i : Int) : (s.tcSend a b c d i).pending = s.pending := rfl
@[simp] theorem State.tcSend_regs (s : State) (a b c d : Nat) (i : Int) : (s.tcSend a b c d i).regs = s.regs := rfl
@[simp] theorem State.tcSend_mem (s : State) (a b c d : Nat) (i : Int) : (s.tcSend a b c d i).mem = s.mem := rfl
@[simp] theorem State.tcSend_badAtoms (s : State) (a b c d : Nat) (i : Int) : (s.tcSend a b c d i).badAtoms = s.badAtoms := rfl
@[simp] theorem State.tcSend_owners (s : State) (a b c d : Nat) (i : Int) : (s.tcSend a b c d i).owners = s.owners := rfl
@[simp] theorem State.tcSend_xlate (s : State) (a b c d : Nat) (i : Int) : (s.tcSend a b c d i).xlate = s.xlate := rfl
@[simp] theorem State.tcSend_piers (s : State) (a b c d : Nat) (i : Int) : (s.tcSend a b c d i).piers = s.piers := rfl
@[simp] theorem State.tcSend_stks (s : State) (a b c d : Nat) (i : Int) : (s.tcSend a b c d i).stks = s.stks := rfl
@[simp] theorem State.tcSend_links (s : State) (a b c d : Nat) (i : Int) : (s.tcSend a b c d i).links = s.links := rfl
@[simp] theorem State.tcSend_dies (s : State) (a b c d : Nat) (i : Int) : (s.tcSend a b c d i).dies = s.dies := rfl
@[simp] theorem State.tcSend_colls (s : State) (a b c d : Nat) (i : Int) : (s.tcSend a b c d i).colls = s.colls := rfl
@[simp] theorem State.tcSend_routes (s : State) (a b c d : Nat) (i : Int) : (s.tcSend a b c d i).routes = s.routes := rfl
@[simp] theorem State.tcSend_fast (s : State) (a b c d : Nat) (i : Int) : (s.tcSend a b c d i).fast = s.fast := rfl
@[simp] theorem State.tcSend_left (s : State) (a b c d : Nat) (i : Int) : (s.tcSend a b c d i).left = s.left := rfl
@[simp] theorem State.tcSend_ts (s : State) (a b c d : Nat) (i : Int) : (s.tcSend a b c d i).ts = s.ts := rfl
@[simp] theorem State.tcSend_ks (s : State) (a b c d : Nat) (i : Int) : (s.tcSend a b c d i).ks = s.ks := rfl
@[simp] theorem State.tcSend_hp (s : State) (a b c d : Nat) (i : Int) : (s.tcSend a b c d i).hp = s.hp := rfl
@[simp] theorem State.tcSend_phys (s : State) (a b c d : Nat) (i : Int) : (s.tcSend a b c d i).phys = s.phys := rfl
@[simp] theorem State.tcSend_replies (s : State) (a b c d : Nat) (i : Int) : (s.tcSend a b c d i).replies = s.replies := rfl
@[simp] theorem State.tcSend_out (s : State) (a b c d : Nat) (i : Int) : (s.tcSend a b c d i).out = s.out := rfl
@[simp] theorem State.tcSend_elapsed (s : State) (a b c d : Nat) (i : Int) : (s.tcSend a b c d i).elapsed = s.elapsed := rfl
@[simp] theorem State.tcSend_freeCtr (s : State) (a b c d : Nat) (i : Int) : (s.tcSend a b c d i).freeCtr = s.freeCtr := rfl

/-! ### What the accessors read -/

theorem State.reg_setReg (s : State) (i j : Nat) (v : BitVec 32) :
    (s.setReg i v).reg j = if j = i then v else s.reg j := by
  simp only [State.reg, State.setReg, Tab.find_put]
  split_ifs with h <;> simp_all

@[simp] theorem State.reg_setReg_same (s : State) (i : Nat) (v : BitVec 32) : (s.setReg i v).reg i = v := by
  simp [State.reg_setReg]

theorem State.pier_updPier (s : State) (p q : Nat) (f : PierState → PierState) :
    (s.updPier p f).pier q = if q = p then f (s.pier p) else s.pier q := by
  simp only [State.pier, State.updPier, State.setPier, Tab.get_put]

@[simp] theorem State.pier_updPier_same (s : State) (p : Nat) (f : PierState → PierState) :
    (s.updPier p f).pier p = f (s.pier p) := by simp [State.pier_updPier]

theorem State.stack_updStack (s : State) (n m : Nat) (f : StackState → StackState) :
    (s.updStack n f).stack m = if m = n then f (s.stack n) else s.stack m := by
  simp only [State.stack, State.updStack, Tab.get_put]

theorem State.link_updLink (s : State) (n m : Nat) (f : LinkState → LinkState) :
    (s.updLink n f).link m = if m = n then f (s.link n) else s.link m := by
  simp only [State.link, State.updLink, Tab.get_put]

theorem State.die_updDie (s : State) (n m : Nat) (f : DieState → DieState) :
    (s.updDie n f).die m = if m = n then f (s.die n) else s.die m := by
  simp only [State.die, State.updDie, Tab.get_put]

theorem State.coll_updColl (s : State) (n m : Nat) (f : Collective → Collective) :
    (s.updColl n f).coll m = if m = n then f (s.coll n) else s.coll m := by
  simp only [State.coll, State.updColl, Tab.get_put]

theorem State.ctx_updCtx (s : State) (n m : Nat) (f : Context → Context) :
    (s.updCtx n f).ctx m = if m = n then f (s.ctx n) else s.ctx m := by
  simp only [State.ctx, State.updCtx, State.updKs, Tab.get_put]

theorem State.mb_updMb (s : State) (n m : Nat) (f : Mailbox → Mailbox) :
    (s.updMb n f).mb m = if m = n then f (s.mb n) else s.mb m := by
  simp only [State.mb, State.updMb, State.updKs, Tab.get_put]

theorem State.stream_updStream (s : State) (n m : Nat) (f : Stream → Stream) :
    (s.updStream n f).stream m = if m = n then f (s.stream n) else s.stream m := by
  simp only [State.stream, State.updStream, State.updKs, Tab.get_put]

theorem State.win_updWin (s : State) (n w : Nat) (f : Window → Window) :
    (s.updWin n w f).win n w = f (s.win n w) := by
  simp [State.win, State.updWin, State.stack_updStack]

/-! ### Accessors that an update of another part leaves alone -/

@[simp] theorem State.pier_setReg (s : State) (off : Nat) (v : BitVec 32) (q : Nat) : (s.setReg off v).pier q = s.pier q := rfl
@[simp] theorem State.stack_setReg (s : State) (off : Nat) (v : BitVec 32) (n' : Nat) : (s.setReg off v).stack n' = s.stack n' := rfl
@[simp] theorem State.link_setReg (s : State) (off : Nat) (v : BitVec 32) (l' : Nat) : (s.setReg off v).link l' = s.link l' := rfl
@[simp] theorem State.die_setReg (s : State) (off : Nat) (v : BitVec 32) (k' : Nat) : (s.setReg off v).die k' = s.die k' := rfl
@[simp] theorem State.coll_setReg (s : State) (off : Nat) (v : BitVec 32) (d' : Nat) : (s.setReg off v).coll d' = s.coll d' := rfl
@[simp] theorem State.ctx_setReg (s : State) (off : Nat) (v : BitVec 32) (c' : Nat) : (s.setReg off v).ctx c' = s.ctx c' := rfl
@[simp] theorem State.mb_setReg (s : State) (off : Nat) (v : BitVec 32) (m' : Nat) : (s.setReg off v).mb m' = s.mb m' := rfl
@[simp] theorem State.stream_setReg (s : State) (off : Nat) (v : BitVec 32) (i' : Nat) : (s.setReg off v).stream i' = s.stream i' := rfl
@[simp] theorem State.reg_setPier (s : State) (p : Nat) (x : PierState) (o' : Nat) : (s.setPier p x).reg o' = s.reg o' := rfl
@[simp] theorem State.stack_setPier (s : State) (p : Nat) (x : PierState) (n' : Nat) : (s.setPier p x).stack n' = s.stack n' := rfl
@[simp] theorem State.link_setPier (s : State) (p : Nat) (x : PierState) (l' : Nat) : (s.setPier p x).link l' = s.link l' := rfl
@[simp] theorem State.die_setPier (s : State) (p : Nat) (x : PierState) (k' : Nat) : (s.setPier p x).die k' = s.die k' := rfl
@[simp] theorem State.coll_setPier (s : State) (p : Nat) (x : PierState) (d' : Nat) : (s.setPier p x).coll d' = s.coll d' := rfl
@[simp] theorem State.ctx_setPier (s : State) (p : Nat) (x : PierState) (c' : Nat) : (s.setPier p x).ctx c' = s.ctx c' := rfl
@[simp] theorem State.mb_setPier (s : State) (p : Nat) (x : PierState) (m' : Nat) : (s.setPier p x).mb m' = s.mb m' := rfl
@[simp] theorem State.stream_setPier (s : State) (p : Nat) (x : PierState) (i' : Nat) : (s.setPier p x).stream i' = s.stream i' := rfl
@[simp] theorem State.reg_updPier (s : State) (p : Nat) (f : PierState → PierState) (o' : Nat) : (s.updPier p f).reg o' = s.reg o' := rfl
@[simp] theorem State.stack_updPier (s : State) (p : Nat) (f : PierState → PierState) (n' : Nat) : (s.updPier p f).stack n' = s.stack n' := rfl
@[simp] theorem State.link_updPier (s : State) (p : Nat) (f : PierState → PierState) (l' : Nat) : (s.updPier p f).link l' = s.link l' := rfl
@[simp] theorem State.die_updPier (s : State) (p : Nat) (f : PierState → PierState) (k' : Nat) : (s.updPier p f).die k' = s.die k' := rfl
@[simp] theorem State.coll_updPier (s : State) (p : Nat) (f : PierState → PierState) (d' : Nat) : (s.updPier p f).coll d' = s.coll d' := rfl
@[simp] theorem State.ctx_updPier (s : State) (p : Nat) (f : PierState → PierState) (c' : Nat) : (s.updPier p f).ctx c' = s.ctx c' := rfl
@[simp] theorem State.mb_updPier (s : State) (p : Nat) (f : PierState → PierState) (m' : Nat) : (s.updPier p f).mb m' = s.mb m' := rfl
@[simp] theorem State.stream_updPier (s : State) (p : Nat) (f : PierState → PierState) (i' : Nat) : (s.updPier p f).stream i' = s.stream i' := rfl
@[simp] theorem State.reg_updStack (s : State) (n : Nat) (f : StackState → StackState) (o' : Nat) : (s.updStack n f).reg o' = s.reg o' := rfl
@[simp] theorem State.pier_updStack (s : State) (n : Nat) (f : StackState → StackState) (q : Nat) : (s.updStack n f).pier q = s.pier q := rfl
@[simp] theorem State.link_updStack (s : State) (n : Nat) (f : StackState → StackState) (l' : Nat) : (s.updStack n f).link l' = s.link l' := rfl
@[simp] theorem State.die_updStack (s : State) (n : Nat) (f : StackState → StackState) (k' : Nat) : (s.updStack n f).die k' = s.die k' := rfl
@[simp] theorem State.coll_updStack (s : State) (n : Nat) (f : StackState → StackState) (d' : Nat) : (s.updStack n f).coll d' = s.coll d' := rfl
@[simp] theorem State.ctx_updStack (s : State) (n : Nat) (f : StackState → StackState) (c' : Nat) : (s.updStack n f).ctx c' = s.ctx c' := rfl
@[simp] theorem State.mb_updStack (s : State) (n : Nat) (f : StackState → StackState) (m' : Nat) : (s.updStack n f).mb m' = s.mb m' := rfl
@[simp] theorem State.stream_updStack (s : State) (n : Nat) (f : StackState → StackState) (i' : Nat) : (s.updStack n f).stream i' = s.stream i' := rfl
@[simp] theorem State.reg_updLink (s : State) (l : Nat) (f : LinkState → LinkState) (o' : Nat) : (s.updLink l f).reg o' = s.reg o' := rfl
@[simp] theorem State.pier_updLink (s : State) (l : Nat) (f : LinkState → LinkState) (q : Nat) : (s.updLink l f).pier q = s.pier q := rfl
@[simp] theorem State.stack_updLink (s : State) (l : Nat) (f : LinkState → LinkState) (n' : Nat) : (s.updLink l f).stack n' = s.stack n' := rfl
@[simp] theorem State.die_updLink (s : State) (l : Nat) (f : LinkState → LinkState) (k' : Nat) : (s.updLink l f).die k' = s.die k' := rfl
@[simp] theorem State.coll_updLink (s : State) (l : Nat) (f : LinkState → LinkState) (d' : Nat) : (s.updLink l f).coll d' = s.coll d' := rfl
@[simp] theorem State.ctx_updLink (s : State) (l : Nat) (f : LinkState → LinkState) (c' : Nat) : (s.updLink l f).ctx c' = s.ctx c' := rfl
@[simp] theorem State.mb_updLink (s : State) (l : Nat) (f : LinkState → LinkState) (m' : Nat) : (s.updLink l f).mb m' = s.mb m' := rfl
@[simp] theorem State.stream_updLink (s : State) (l : Nat) (f : LinkState → LinkState) (i' : Nat) : (s.updLink l f).stream i' = s.stream i' := rfl
@[simp] theorem State.reg_updDie (s : State) (k : Nat) (f : DieState → DieState) (o' : Nat) : (s.updDie k f).reg o' = s.reg o' := rfl
@[simp] theorem State.pier_updDie (s : State) (k : Nat) (f : DieState → DieState) (q : Nat) : (s.updDie k f).pier q = s.pier q := rfl
@[simp] theorem State.stack_updDie (s : State) (k : Nat) (f : DieState → DieState) (n' : Nat) : (s.updDie k f).stack n' = s.stack n' := rfl
@[simp] theorem State.link_updDie (s : State) (k : Nat) (f : DieState → DieState) (l' : Nat) : (s.updDie k f).link l' = s.link l' := rfl
@[simp] theorem State.coll_updDie (s : State) (k : Nat) (f : DieState → DieState) (d' : Nat) : (s.updDie k f).coll d' = s.coll d' := rfl
@[simp] theorem State.ctx_updDie (s : State) (k : Nat) (f : DieState → DieState) (c' : Nat) : (s.updDie k f).ctx c' = s.ctx c' := rfl
@[simp] theorem State.mb_updDie (s : State) (k : Nat) (f : DieState → DieState) (m' : Nat) : (s.updDie k f).mb m' = s.mb m' := rfl
@[simp] theorem State.stream_updDie (s : State) (k : Nat) (f : DieState → DieState) (i' : Nat) : (s.updDie k f).stream i' = s.stream i' := rfl
@[simp] theorem State.reg_updColl (s : State) (d : Nat) (f : Collective → Collective) (o' : Nat) : (s.updColl d f).reg o' = s.reg o' := rfl
@[simp] theorem State.pier_updColl (s : State) (d : Nat) (f : Collective → Collective) (q : Nat) : (s.updColl d f).pier q = s.pier q := rfl
@[simp] theorem State.stack_updColl (s : State) (d : Nat) (f : Collective → Collective) (n' : Nat) : (s.updColl d f).stack n' = s.stack n' := rfl
@[simp] theorem State.link_updColl (s : State) (d : Nat) (f : Collective → Collective) (l' : Nat) : (s.updColl d f).link l' = s.link l' := rfl
@[simp] theorem State.die_updColl (s : State) (d : Nat) (f : Collective → Collective) (k' : Nat) : (s.updColl d f).die k' = s.die k' := rfl
@[simp] theorem State.ctx_updColl (s : State) (d : Nat) (f : Collective → Collective) (c' : Nat) : (s.updColl d f).ctx c' = s.ctx c' := rfl
@[simp] theorem State.mb_updColl (s : State) (d : Nat) (f : Collective → Collective) (m' : Nat) : (s.updColl d f).mb m' = s.mb m' := rfl
@[simp] theorem State.stream_updColl (s : State) (d : Nat) (f : Collective → Collective) (i' : Nat) : (s.updColl d f).stream i' = s.stream i' := rfl
@[simp] theorem State.reg_updKs (s : State) (f : Keystone → Keystone) (o' : Nat) : (s.updKs f).reg o' = s.reg o' := rfl
@[simp] theorem State.pier_updKs (s : State) (f : Keystone → Keystone) (q : Nat) : (s.updKs f).pier q = s.pier q := rfl
@[simp] theorem State.stack_updKs (s : State) (f : Keystone → Keystone) (n' : Nat) : (s.updKs f).stack n' = s.stack n' := rfl
@[simp] theorem State.link_updKs (s : State) (f : Keystone → Keystone) (l' : Nat) : (s.updKs f).link l' = s.link l' := rfl
@[simp] theorem State.die_updKs (s : State) (f : Keystone → Keystone) (k' : Nat) : (s.updKs f).die k' = s.die k' := rfl
@[simp] theorem State.coll_updKs (s : State) (f : Keystone → Keystone) (d' : Nat) : (s.updKs f).coll d' = s.coll d' := rfl
@[simp] theorem State.reg_updCtx (s : State) (c : Nat) (f : Context → Context) (o' : Nat) : (s.updCtx c f).reg o' = s.reg o' := rfl
@[simp] theorem State.pier_updCtx (s : State) (c : Nat) (f : Context → Context) (q : Nat) : (s.updCtx c f).pier q = s.pier q := rfl
@[simp] theorem State.stack_updCtx (s : State) (c : Nat) (f : Context → Context) (n' : Nat) : (s.updCtx c f).stack n' = s.stack n' := rfl
@[simp] theorem State.link_updCtx (s : State) (c : Nat) (f : Context → Context) (l' : Nat) : (s.updCtx c f).link l' = s.link l' := rfl
@[simp] theorem State.die_updCtx (s : State) (c : Nat) (f : Context → Context) (k' : Nat) : (s.updCtx c f).die k' = s.die k' := rfl
@[simp] theorem State.coll_updCtx (s : State) (c : Nat) (f : Context → Context) (d' : Nat) : (s.updCtx c f).coll d' = s.coll d' := rfl
@[simp] theorem State.reg_updMb (s : State) (m : Nat) (f : Mailbox → Mailbox) (o' : Nat) : (s.updMb m f).reg o' = s.reg o' := rfl
@[simp] theorem State.pier_updMb (s : State) (m : Nat) (f : Mailbox → Mailbox) (q : Nat) : (s.updMb m f).pier q = s.pier q := rfl
@[simp] theorem State.stack_updMb (s : State) (m : Nat) (f : Mailbox → Mailbox) (n' : Nat) : (s.updMb m f).stack n' = s.stack n' := rfl
@[simp] theorem State.link_updMb (s : State) (m : Nat) (f : Mailbox → Mailbox) (l' : Nat) : (s.updMb m f).link l' = s.link l' := rfl
@[simp] theorem State.die_updMb (s : State) (m : Nat) (f : Mailbox → Mailbox) (k' : Nat) : (s.updMb m f).die k' = s.die k' := rfl
@[simp] theorem State.coll_updMb (s : State) (m : Nat) (f : Mailbox → Mailbox) (d' : Nat) : (s.updMb m f).coll d' = s.coll d' := rfl
@[simp] theorem State.reg_updStream (s : State) (i : Nat) (f : Stream → Stream) (o' : Nat) : (s.updStream i f).reg o' = s.reg o' := rfl
@[simp] theorem State.pier_updStream (s : State) (i : Nat) (f : Stream → Stream) (q : Nat) : (s.updStream i f).pier q = s.pier q := rfl
@[simp] theorem State.stack_updStream (s : State) (i : Nat) (f : Stream → Stream) (n' : Nat) : (s.updStream i f).stack n' = s.stack n' := rfl
@[simp] theorem State.link_updStream (s : State) (i : Nat) (f : Stream → Stream) (l' : Nat) : (s.updStream i f).link l' = s.link l' := rfl
@[simp] theorem State.die_updStream (s : State) (i : Nat) (f : Stream → Stream) (k' : Nat) : (s.updStream i f).die k' = s.die k' := rfl
@[simp] theorem State.coll_updStream (s : State) (i : Nat) (f : Stream → Stream) (d' : Nat) : (s.updStream i f).coll d' = s.coll d' := rfl
@[simp] theorem State.reg_emit (s : State) (o : Out) (o' : Nat) : (s.emit o).reg o' = s.reg o' := rfl
@[simp] theorem State.pier_emit (s : State) (o : Out) (q : Nat) : (s.emit o).pier q = s.pier q := rfl
@[simp] theorem State.stack_emit (s : State) (o : Out) (n' : Nat) : (s.emit o).stack n' = s.stack n' := rfl
@[simp] theorem State.link_emit (s : State) (o : Out) (l' : Nat) : (s.emit o).link l' = s.link l' := rfl
@[simp] theorem State.die_emit (s : State) (o : Out) (k' : Nat) : (s.emit o).die k' = s.die k' := rfl
@[simp] theorem State.coll_emit (s : State) (o : Out) (d' : Nat) : (s.emit o).coll d' = s.coll d' := rfl
@[simp] theorem State.ctx_emit (s : State) (o : Out) (c' : Nat) : (s.emit o).ctx c' = s.ctx c' := rfl
@[simp] theorem State.mb_emit (s : State) (o : Out) (m' : Nat) : (s.emit o).mb m' = s.mb m' := rfl
@[simp] theorem State.stream_emit (s : State) (o : Out) (i' : Nat) : (s.emit o).stream i' = s.stream i' := rfl
@[simp] theorem State.reg_setOwner (s : State) (page w : Nat) (o' : Nat) : (s.setOwner page w).reg o' = s.reg o' := rfl
@[simp] theorem State.pier_setOwner (s : State) (page w : Nat) (q : Nat) : (s.setOwner page w).pier q = s.pier q := rfl
@[simp] theorem State.stack_setOwner (s : State) (page w : Nat) (n' : Nat) : (s.setOwner page w).stack n' = s.stack n' := rfl
@[simp] theorem State.link_setOwner (s : State) (page w : Nat) (l' : Nat) : (s.setOwner page w).link l' = s.link l' := rfl
@[simp] theorem State.die_setOwner (s : State) (page w : Nat) (k' : Nat) : (s.setOwner page w).die k' = s.die k' := rfl
@[simp] theorem State.coll_setOwner (s : State) (page w : Nat) (d' : Nat) : (s.setOwner page w).coll d' = s.coll d' := rfl
@[simp] theorem State.ctx_setOwner (s : State) (page w : Nat) (c' : Nat) : (s.setOwner page w).ctx c' = s.ctx c' := rfl
@[simp] theorem State.mb_setOwner (s : State) (page w : Nat) (m' : Nat) : (s.setOwner page w).mb m' = s.mb m' := rfl
@[simp] theorem State.stream_setOwner (s : State) (page w : Nat) (i' : Nat) : (s.setOwner page w).stream i' = s.stream i' := rfl
@[simp] theorem State.pier_setRfld (s : State) (off lo n v : Nat) (q : Nat) : (s.setRfld off lo n v).pier q = s.pier q := rfl
@[simp] theorem State.stack_setRfld (s : State) (off lo n v : Nat) (n' : Nat) : (s.setRfld off lo n v).stack n' = s.stack n' := rfl
@[simp] theorem State.link_setRfld (s : State) (off lo n v : Nat) (l' : Nat) : (s.setRfld off lo n v).link l' = s.link l' := rfl
@[simp] theorem State.die_setRfld (s : State) (off lo n v : Nat) (k' : Nat) : (s.setRfld off lo n v).die k' = s.die k' := rfl
@[simp] theorem State.coll_setRfld (s : State) (off lo n v : Nat) (d' : Nat) : (s.setRfld off lo n v).coll d' = s.coll d' := rfl
@[simp] theorem State.ctx_setRfld (s : State) (off lo n v : Nat) (c' : Nat) : (s.setRfld off lo n v).ctx c' = s.ctx c' := rfl
@[simp] theorem State.mb_setRfld (s : State) (off lo n v : Nat) (m' : Nat) : (s.setRfld off lo n v).mb m' = s.mb m' := rfl
@[simp] theorem State.stream_setRfld (s : State) (off lo n v : Nat) (i' : Nat) : (s.setRfld off lo n v).stream i' = s.stream i' := rfl
@[simp] theorem State.pier_orReg (s : State) (off m : Nat) (q : Nat) : (s.orReg off m).pier q = s.pier q := rfl
@[simp] theorem State.stack_orReg (s : State) (off m : Nat) (n' : Nat) : (s.orReg off m).stack n' = s.stack n' := rfl
@[simp] theorem State.link_orReg (s : State) (off m : Nat) (l' : Nat) : (s.orReg off m).link l' = s.link l' := rfl
@[simp] theorem State.die_orReg (s : State) (off m : Nat) (k' : Nat) : (s.orReg off m).die k' = s.die k' := rfl
@[simp] theorem State.coll_orReg (s : State) (off m : Nat) (d' : Nat) : (s.orReg off m).coll d' = s.coll d' := rfl
@[simp] theorem State.ctx_orReg (s : State) (off m : Nat) (c' : Nat) : (s.orReg off m).ctx c' = s.ctx c' := rfl
@[simp] theorem State.mb_orReg (s : State) (off m : Nat) (m' : Nat) : (s.orReg off m).mb m' = s.mb m' := rfl
@[simp] theorem State.stream_orReg (s : State) (off m : Nat) (i' : Nat) : (s.orReg off m).stream i' = s.stream i' := rfl
@[simp] theorem State.pier_bump (s : State) (off n : Nat) (q : Nat) : (s.bump off n).pier q = s.pier q := rfl
@[simp] theorem State.stack_bump (s : State) (off n : Nat) (n' : Nat) : (s.bump off n).stack n' = s.stack n' := rfl
@[simp] theorem State.link_bump (s : State) (off n : Nat) (l' : Nat) : (s.bump off n).link l' = s.link l' := rfl
@[simp] theorem State.die_bump (s : State) (off n : Nat) (k' : Nat) : (s.bump off n).die k' = s.die k' := rfl
@[simp] theorem State.coll_bump (s : State) (off n : Nat) (d' : Nat) : (s.bump off n).coll d' = s.coll d' := rfl
@[simp] theorem State.ctx_bump (s : State) (off n : Nat) (c' : Nat) : (s.bump off n).ctx c' = s.ctx c' := rfl
@[simp] theorem State.mb_bump (s : State) (off n : Nat) (m' : Nat) : (s.bump off n).mb m' = s.mb m' := rfl
@[simp] theorem State.stream_bump (s : State) (off n : Nat) (i' : Nat) : (s.bump off n).stream i' = s.stream i' := rfl
@[simp] theorem State.pier_setReg64 (s : State) (off v : Nat) (q : Nat) : (s.setReg64 off v).pier q = s.pier q := rfl
@[simp] theorem State.stack_setReg64 (s : State) (off v : Nat) (n' : Nat) : (s.setReg64 off v).stack n' = s.stack n' := rfl
@[simp] theorem State.link_setReg64 (s : State) (off v : Nat) (l' : Nat) : (s.setReg64 off v).link l' = s.link l' := rfl
@[simp] theorem State.die_setReg64 (s : State) (off v : Nat) (k' : Nat) : (s.setReg64 off v).die k' = s.die k' := rfl
@[simp] theorem State.coll_setReg64 (s : State) (off v : Nat) (d' : Nat) : (s.setReg64 off v).coll d' = s.coll d' := rfl
@[simp] theorem State.ctx_setReg64 (s : State) (off v : Nat) (c' : Nat) : (s.setReg64 off v).ctx c' = s.ctx c' := rfl
@[simp] theorem State.mb_setReg64 (s : State) (off v : Nat) (m' : Nat) : (s.setReg64 off v).mb m' = s.mb m' := rfl
@[simp] theorem State.stream_setReg64 (s : State) (off v : Nat) (i' : Nat) : (s.setReg64 off v).stream i' = s.stream i' := rfl
@[simp] theorem State.pier_add64 (s : State) (off n : Nat) (q : Nat) : (s.add64 off n).pier q = s.pier q := rfl
@[simp] theorem State.stack_add64 (s : State) (off n : Nat) (n' : Nat) : (s.add64 off n).stack n' = s.stack n' := rfl
@[simp] theorem State.link_add64 (s : State) (off n : Nat) (l' : Nat) : (s.add64 off n).link l' = s.link l' := rfl
@[simp] theorem State.die_add64 (s : State) (off n : Nat) (k' : Nat) : (s.add64 off n).die k' = s.die k' := rfl
@[simp] theorem State.coll_add64 (s : State) (off n : Nat) (d' : Nat) : (s.add64 off n).coll d' = s.coll d' := rfl
@[simp] theorem State.ctx_add64 (s : State) (off n : Nat) (c' : Nat) : (s.add64 off n).ctx c' = s.ctx c' := rfl
@[simp] theorem State.mb_add64 (s : State) (off n : Nat) (m' : Nat) : (s.add64 off n).mb m' = s.mb m' := rfl
@[simp] theorem State.stream_add64 (s : State) (off n : Nat) (i' : Nat) : (s.add64 off n).stream i' = s.stream i' := rfl
@[simp] theorem State.reg_tcAdd (s : State) (p t : Nat) (i : Int) (o' : Nat) : (s.tcAdd p t i).reg o' = s.reg o' := rfl
@[simp] theorem State.stack_tcAdd (s : State) (p t : Nat) (i : Int) (n' : Nat) : (s.tcAdd p t i).stack n' = s.stack n' := rfl
@[simp] theorem State.link_tcAdd (s : State) (p t : Nat) (i : Int) (l' : Nat) : (s.tcAdd p t i).link l' = s.link l' := rfl
@[simp] theorem State.die_tcAdd (s : State) (p t : Nat) (i : Int) (k' : Nat) : (s.tcAdd p t i).die k' = s.die k' := rfl
@[simp] theorem State.coll_tcAdd (s : State) (p t : Nat) (i : Int) (d' : Nat) : (s.tcAdd p t i).coll d' = s.coll d' := rfl
@[simp] theorem State.ctx_tcAdd (s : State) (p t : Nat) (i : Int) (c' : Nat) : (s.tcAdd p t i).ctx c' = s.ctx c' := rfl
@[simp] theorem State.mb_tcAdd (s : State) (p t : Nat) (i : Int) (m' : Nat) : (s.tcAdd p t i).mb m' = s.mb m' := rfl
@[simp] theorem State.stream_tcAdd (s : State) (p t : Nat) (i : Int) (i' : Nat) : (s.tcAdd p t i).stream i' = s.stream i' := rfl
@[simp] theorem State.reg_tcSet (s : State) (p t v : Nat) (o' : Nat) : (s.tcSet p t v).reg o' = s.reg o' := rfl
@[simp] theorem State.stack_tcSet (s : State) (p t v : Nat) (n' : Nat) : (s.tcSet p t v).stack n' = s.stack n' := rfl
@[simp] theorem State.link_tcSet (s : State) (p t v : Nat) (l' : Nat) : (s.tcSet p t v).link l' = s.link l' := rfl
@[simp] theorem State.die_tcSet (s : State) (p t v : Nat) (k' : Nat) : (s.tcSet p t v).die k' = s.die k' := rfl
@[simp] theorem State.coll_tcSet (s : State) (p t v : Nat) (d' : Nat) : (s.tcSet p t v).coll d' = s.coll d' := rfl
@[simp] theorem State.ctx_tcSet (s : State) (p t v : Nat) (c' : Nat) : (s.tcSet p t v).ctx c' = s.ctx c' := rfl
@[simp] theorem State.mb_tcSet (s : State) (p t v : Nat) (m' : Nat) : (s.tcSet p t v).mb m' = s.mb m' := rfl
@[simp] theorem State.stream_tcSet (s : State) (p t v : Nat) (i' : Nat) : (s.tcSet p t v).stream i' = s.stream i' := rfl
@[simp] theorem State.reg_tcSend (s : State) (a b c d : Nat) (i : Int) (o' : Nat) : (s.tcSend a b c d i).reg o' = s.reg o' := rfl
@[simp] theorem State.pier_tcSend (s : State) (a b c d : Nat) (i : Int) (q : Nat) : (s.tcSend a b c d i).pier q = s.pier q := rfl
@[simp] theorem State.stack_tcSend (s : State) (a b c d : Nat) (i : Int) (n' : Nat) : (s.tcSend a b c d i).stack n' = s.stack n' := rfl
@[simp] theorem State.link_tcSend (s : State) (a b c d : Nat) (i : Int) (l' : Nat) : (s.tcSend a b c d i).link l' = s.link l' := rfl
@[simp] theorem State.die_tcSend (s : State) (a b c d : Nat) (i : Int) (k' : Nat) : (s.tcSend a b c d i).die k' = s.die k' := rfl
@[simp] theorem State.coll_tcSend (s : State) (a b c d : Nat) (i : Int) (d' : Nat) : (s.tcSend a b c d i).coll d' = s.coll d' := rfl
@[simp] theorem State.ctx_tcSend (s : State) (a b c d : Nat) (i : Int) (c' : Nat) : (s.tcSend a b c d i).ctx c' = s.ctx c' := rfl
@[simp] theorem State.mb_tcSend (s : State) (a b c d : Nat) (i : Int) (m' : Nat) : (s.tcSend a b c d i).mb m' = s.mb m' := rfl
@[simp] theorem State.stream_tcSend (s : State) (a b c d : Nat) (i : Int) (i' : Nat) : (s.tcSend a b c d i).stream i' = s.stream i' := rfl

/-! ### Counters and fields -/

theorem State.reg_setReg64 (s : State) (o v j : Nat) :
    (s.setReg64 o v).reg j =
      if j = o + 4 then BitVec.ofNat 32 (v / 2 ^ 32) else if j = o then BitVec.ofNat 32 v else s.reg j := by
  simp only [State.setReg64, State.reg_setReg]

theorem State.reg64_setReg64 (s : State) (o v : Nat) (h : v < 2 ^ 64) : (s.setReg64 o v).reg64 o = v := by
  simp only [State.reg64, State.reg_setReg64]
  simp
  omega

theorem State.reg64_add64 (s : State) (o n : Nat) : (s.add64 o n).reg64 o = (s.reg64 o + n) % 2 ^ 64 := by
  exact State.reg64_setReg64 s o _ (Nat.mod_lt _ (by norm_num))

theorem State.reg_add64_of_ne (s : State) (o n j : Nat) (h : j ≠ o) (h' : j ≠ o + 4) :
    (s.add64 o n).reg j = s.reg j := by simp [State.add64, State.reg_setReg64, h, h']

theorem State.toNat_reg_bump (s : State) (o n : Nat) :
    ((s.bump o n).reg o).toNat = min ((s.reg o).toNat + n) 0xFFFFFFFF := by
  simp only [State.bump, State.reg_setReg_same, BitVec.toNat_ofNat, sat32]
  omega

theorem State.reg_bump_of_ne (s : State) (o n j : Nat) (h : j ≠ o) : (s.bump o n).reg j = s.reg j := by
  simp [State.bump, State.reg_setReg, h]

theorem State.reg_setRfld_of_ne (s : State) (o lo n v j : Nat) (h : j ≠ o) : (s.setRfld o lo n v).reg j = s.reg j := by
  simp [State.setRfld, State.reg_setReg, h]

theorem State.reg_orReg_of_ne (s : State) (o m j : Nat) (h : j ≠ o) : (s.orReg o m).reg j = s.reg j := by
  simp [State.orReg, State.reg_setReg, h]

end Sys2Proof.Machine
end

