-- ==== Sys2Proof/Laws/Ops.lean ====
section
/-! SUPPORT. What each operation that the meanings share can do, said once: dispatch and completion of the pier sequencer,
faulting a task, records and stamps, the completion of a mailbox command, and accesses of memory. -/
namespace Sys2Proof.Machine
open Sys2Proof

/-! ## Frames -/

theorem State.regsBut_trans {s t u : State} {l m : List Nat} (h : s.regsBut t l) (h' : t.regsBut u m) :
    s.regsBut u (l ++ m) := fun o ho => by
  rw [List.mem_append, not_or] at ho
  rw [h' o ho.2, h o ho.1]

theorem State.regsBut_mono {s t : State} {l m : List Nat} (h : s.regsBut t l) (hs : ∀ o ∈ l, o ∈ m) : s.regsBut t m :=
  fun o ho => h o fun hl => ho (hs o hl)

theorem State.regsBut_of_regs {s t : State} (h : t.regs = s.regs) (l : List Nat) : s.regsBut t l := fun o _ => by
  simp [State.reg, h]

theorem State.regsOnly_bump (s : State) (o n : Nat) : s.regsOnly (s.bump o n) [o] :=
  ⟨fun j hj => State.reg_bump_of_ne s o n j (by simpa using hj), rfl⟩

theorem State.regsOnly_orReg (s : State) (o m : Nat) : s.regsOnly (s.orReg o m) [o] :=
  ⟨fun j hj => State.reg_orReg_of_ne s o m j (by simpa using hj), rfl⟩

theorem State.regsOnly_setRfld (s : State) (o lo n v : Nat) : s.regsOnly (s.setRfld o lo n v) [o] :=
  ⟨fun j hj => State.reg_setRfld_of_ne s o lo n v j (by simpa using hj), rfl⟩

theorem State.regsOnly_add64 (s : State) (o n : Nat) : s.regsOnly (s.add64 o n) [o, o + 4] :=
  ⟨fun j hj => by
    simp only [List.mem_cons, List.not_mem_nil, or_false, not_or] at hj
    exact State.reg_add64_of_ne s o n j hj.1 hj.2, rfl⟩

/-- An update of pier p changes that pier only, and no register. -/
theorem State.pierOnly_updPier (s : State) (p : Nat) (f : PierState → PierState) : s.pierOnly (s.updPier p f) p [] :=
  ⟨fun q hq => by rw [State.pier_updPier, if_neg hq], fun _ _ => rfl, rfl⟩

/-! ## Dispatch and completion (R115, R119, R135, R148) -/

/-- The sequencer stands at an instruction that the command runs. -/
theorem State.dispatch_at {s u : State} {p : Nat} {r : RunTask} {w0 w1 : Nat} {mine : Nat → Bool}
    {k : State → RunTask → Nat → Nat → State} (h : s.atInstr p r w0 w1 u) (hm : mine (opc w0) = true) :
    s.dispatch p mine k = k u r w0 w1 := by
  obtain ⟨h1, h2, h3, h4⟩ := h
  simp [State.dispatch, h1, h2, h3, h4, hm]

/-- The sequencer stands at another legal instruction: nothing happens (log entry 1). -/
theorem State.dispatch_other {s u : State} {p : Nat} {r : RunTask} {w0 w1 : Nat} {mine : Nat → Bool}
    {k : State → RunTask → Nat → Nat → State} (h : s.atInstr p r w0 w1 u) (hm : mine (opc w0) = false) :
    s.dispatch p mine k = s := by
  obtain ⟨h1, h2, h3, h4⟩ := h
  simp [State.dispatch, h1, h2, h3, h4, hm]

/-- A sequencer that is not RUNNING, waits, or has no task dispatches nothing. -/
theorem State.dispatch_idle {s : State} {p : Nat} {mine : Nat → Bool} {k : State → RunTask → Nat → Nat → State}
    (h : (s.pier p).seq ≠ .running ∨ (s.pier p).hold ≠ none ∨ (s.pier p).run = none) : s.dispatch p mine k = s := by
  unfold State.dispatch
  cases hs : (s.pier p).seq <;> cases hh : (s.pier p).hold <;> cases hr : (s.pier p).run <;> simp_all

/-- A word that cannot be fetched or decoded faults the task, whichever command asks (R118). -/
theorem State.dispatch_fault {s u : State} {p : Nat} {r : RunTask} {code under va : Nat} {mine : Nat → Bool}
    {k : State → RunTask → Nat → Nat → State} (hs : (s.pier p).seq = .running) (hh : (s.pier p).hold = none)
    (hr : (s.pier p).run = some r) (hf : s.fetchInstr p r = (.fault code under va, u)) :
    s.dispatch p mine k = u.seqFault p r.task.ser 13 r.pc ⟨code, va, 0⟩ under [] := by
  simp [State.dispatch, hs, hh, hr, hf]

/-- A control instruction whose reserved fields are zero runs. -/
theorem State.control_at {s u : State} {p : Nat} {r : RunTask} {w o : Nat} {k : State → RunTask → Nat → State}
    (h : s.atInstr p r w 0 u) (hm : opc w = o) (hf : onlyFields w (ctlFields o) = true) :
    s.control p o k = k u r w := by
  unfold State.control
  rw [State.dispatch_at h (by simp [hm]), if_pos hf]

/-- A control instruction with a reserved bit set faults with 0x0521 (R119). -/
theorem State.control_bad {s u : State} {p : Nat} {r : RunTask} {w o : Nat} {k : State → RunTask → Nat → State}
    (h : s.atInstr p r w 0 u) (hm : opc w = o) (hf : onlyFields w (ctlFields o) = false) :
    s.control p o k = u.seqFaultCode p r.task.ser 13 r.pc 0x0521 [] := by
  unfold State.control
  rw [State.dispatch_at h (by simp [hm]), if_neg (by simp [hf])]

theorem State.progressed_add64 {u s : State} (p : Nat) (h : s.regs = u.regs) (n : Nat) :
    u.progressed (s.add64 (psqOff p + 0x58) n) p n := by
  have : s.reg64 (psqOff p + 0x58) = u.reg64 (psqOff p + 0x58) := by simp [State.reg64, State.reg, h]
  simp only [State.progressed, State.reg64_add64, this]

/-- A change of pier p alone, counted by PSQ_PROGRESS, is what an instruction that completes at dispatch makes. -/
theorem State.feOnly_add64 {u s : State} {p : Nat} (h : u.pierOnly s p []) (hr : s.regs = u.regs) :
    u.feOnly (s.add64 (psqOff p + 0x58) 1) p := by
  obtain ⟨hp, -, hs⟩ := h
  refine ⟨State.progressed_add64 p hr 1, ?_, ?_, ?_⟩
  · simpa using hp
  · intro o ho
    simp only [List.mem_cons, List.not_mem_nil, or_false, not_or] at ho
    rw [State.reg_add64_of_ne _ _ _ _ ho.1 (by omega)]
    simp [State.reg, hr]
  · exact hs

/-- An instruction that takes effect at dispatch changes its pier alone. -/
theorem State.feOnly_feDone (u : State) (p : Nat) (f : PierState → PierState) (r : RunTask) :
    u.feOnly ((u.updPier p f).feDone p r) p := by
  refine State.feOnly_add64 ⟨fun q hq => ?_, fun _ _ => rfl, rfl⟩ rfl
  simp [State.setRun, State.pier_updPier, hq]

/-- The pier after an instruction that takes effect at dispatch. -/
@[simp] theorem State.pier_feDone (u : State) (p : Nat) (r : RunTask) :
    (u.feDone p r).pier p = { u.pier p with run := some (r.advance 1) } := by
  simp [State.feDone, State.setRun]

/-- A queue with room takes the entry. -/
theorem State.enqueue_room {s : State} {p q n : Nat} {r : RunTask} {e : Entry} {also : PierState → PierState}
    (h : ((s.pier p).queue q).length < queueCap q) :
    s.enqueue p q n r e also = s.updPier p fun x =>
      { (also x).setQueue q ((also x).queue q ++ [e]) with
        run := some (r.advance n),
        started := (also x).started.map fun t => if t.ser = e.ser then { t with left := t.left + 1 } else t } := by
  rw [State.enqueue, if_neg (Nat.not_le.2 h)]

/-- A full queue stops dispatch and counts the cycle (R143). -/
theorem State.enqueue_full {s : State} {p q n : Nat} {r : RunTask} {e : Entry} {also : PierState → PierState}
    (h : queueCap q ≤ ((s.pier p).queue q).length) : s.enqueue p q n r e also = s.bump (psqOff p + 0x50) 1 := by
  rw [State.enqueue, if_pos h]

/-- Tasks that complete take their stamps: the pier, the stamps of its source and the free counter change. -/
theorem State.pierStamped_stampTasks (u : State) (p : Nat) : u.pierStamped (u.stampTasks p) p [] := by
  unfold State.stampTasks
  generalize (u.pier p).started.filter (fun t => t.ended && t.left = 0 && t.stamp.isNone) = l
  have key (l : List StartedTask) : ∀ s : State, u.pierStamped s p [] → u.pierStamped (l.foldl (fun s t =>
      let (v, s) := s.stamp 1 p
      s.updPier p fun x => { x with started := x.started.map fun y =>
        if y.ser = t.ser then { y with stamp := some v } else y }) s) p [] := by
    induction l with
    | nil => intro s h; exact h
    | cons t r ih =>
      intro s h
      rw [List.foldl_cons]
      refine ih _ ?_
      obtain ⟨h1, h2, h3, h4⟩ := h
      refine ⟨fun q hq => ?_, ?_, ?_, ?_⟩
      · have : ((s.stamp 1 p).2.pier q) = s.pier q := rfl
        simp only [State.pier_updPier, if_neg hq, this, h1 q hq]
      · intro o ho
        exact h2 o ho
      · exact h3
      · exact h4
  exact key l u ⟨fun _ _ => rfl, fun _ _ => rfl, rfl, rfl⟩

/-- A pier whose tasks all run on, or have their stamps, gives none. -/
theorem State.stampTasks_none {u : State} {p : Nat}
    (h : ∀ t ∈ (u.pier p).started, t.ended = true → t.left = 0 → t.stamp ≠ none) : u.stampTasks p = u := by
  have : (u.pier p).started.filter (fun t => t.ended && t.left = 0 && t.stamp.isNone) = [] := by
    rw [List.filter_eq_nil_iff]
    intro t ht
    have := h t ht
    cases h1 : t.ended <;> cases h2 : t.stamp <;> simp_all
  simp [State.stampTasks, this]

/-- A completed instruction changes its pier, PSQ_PROGRESS, and the stamp of a task that it completes (R116, R164). -/
theorem State.pierStamped_complete (u : State) (p ser : Nat) :
    u.pierStamped (u.complete p ser) p [psqOff p + 0x58, psqOff p + 0x5C] := by
  obtain ⟨h1, h2, h3, h4⟩ := State.pierStamped_stampTasks ((u.updPier p fun x => x.less ser).add64 (psqOff p + 0x58) 1) p
  obtain ⟨g1, g2⟩ := State.feOnly_add64 (State.pierOnly_updPier u p fun x => x.less ser) rfl
  refine ⟨fun q hq => (h1 q hq).trans (g2.1 q hq), fun o ho => (h2 o List.not_mem_nil).trans (g2.2.1 o ho), ?_, h4⟩
  have := congrArg (fun s : State => ({ s with piers := u.piers, regs := u.regs } : State)) h3
  exact this

/-- The first fault of a sequencer stops it from the faulting task on and is kept; nothing but the pier changes (R158). -/
theorem State.seqFault_first {s : State} {p ser qsel word under : Nat} {f : MemFault} {bits : List (Nat × Nat)}
    (h : (s.pier p).fault = none) :
    s.seqFault p ser qsel word f under bits = s.updPier p fun x => { x.stopFrom ser f.code 0x0528 with
      fault := some { ser := ser, id := x.taskId ser, code := f.code, qsel := qsel, word := word,
                      detail := s.faultDetail ((s.pier p).taskId ser) qsel p word f under, bits := bits } } := by
  simp only [State.seqFault, h]

/-- What stands in the pier after its first fault. -/
theorem State.pier_seqFaultCode {s : State} {p ser qsel word code : Nat} {bits : List (Nat × Nat)}
    (h : (s.pier p).fault = none) :
    let x := (s.seqFaultCode p ser qsel word code bits).pier p
    x.seq = .faulting ∧ x.run = none ∧ x.hold = none ∧ x.taskQueue = [] ∧
      ∃ f, x.fault = some f ∧ f.ser = ser ∧ f.code = code ∧ f.qsel = qsel ∧ f.word = word ∧ f.bits = bits := by
  simp [State.seqFaultCode, State.seqFault_first h, PierState.stopFrom]

/-! ## Stamps and records (R26 to R28, R439) -/

/-- A stamp changes the source's last stamp and draws a free value. -/
theorem State.stamp_frame (s : State) (kind inst : Nat) :
    ({ (s.stamp kind inst).2 with ts := s.ts, freeCtr := s.freeCtr } : State) = s ∧
      ({ (s.stamp kind inst).2.ts with stamps := s.ts.stamps } : SpanTime) = s.ts := ⟨rfl, rfl⟩

/-- The stamps of one source never fall. -/
theorem State.stamp_rises (s : State) (kind inst : Nat) :
    s.ts.stamps.get 0 (kind * 4096 + inst) ≤ (s.stamp kind inst).1 := le_max_right _ _

/-- A stamp is the source's last one from then on. -/
theorem State.stamp_kept (s : State) (kind inst : Nat) :
    (s.stamp kind inst).2.ts.stamps.get 0 (kind * 4096 + inst) = (s.stamp kind inst).1 := by
  simp [State.stamp]

/-- The score changes only the inspection record. -/
theorem State.score_frame (s : State) (i w n : Nat) :
    ({ s.score i w n with ks := s.ks } : State) = s ∧
      ({ (s.score i w n).ks with insp := s.ks.insp } : Keystone) = s.ks := ⟨rfl, rfl⟩

/-- A noted error changes only contexts. -/
theorem State.noteUncorrected_frame (s : State) (own : Option Nat) (code : Nat) (error : Bool) (tag : Option Nat) :
    ({ s.noteUncorrected own code error tag with ks := s.ks } : State) = s ∧
      ({ (s.noteUncorrected own code error tag).ks with ctxs := s.ks.ctxs } : Keystone) = s.ks := by
  unfold State.noteUncorrected
  cases tag with
  | none => exact ⟨rfl, rfl⟩
  | some t =>
    simp only
    split_ifs
    · exact ⟨rfl, rfl⟩
    · exact ⟨rfl, rfl⟩

/-- A record with a stamp adds itself to those on their way, and changes beside them only the score and an open step. -/
theorem State.recordFor_frame (s : State) (own : Option Nat) (st kind inst code : Nat) (error : Bool) (tag : Option Nat) (d : List Byte) :
    ({ s.recordFor own st kind inst code error tag d with ks := s.ks } : State) = s ∧
      ({ (s.recordFor own st kind inst code error tag d).ks with
         ctxs := s.ks.ctxs, insp := s.ks.insp, records := s.ks.records } : Keystone) = s.ks ∧
      (s.recordFor own st kind inst code error tag d).ks.records = s.ks.records ++
        [{ stamp := st, source := s.moduleId * 2 ^ 19 + kind * 2 ^ 15 + inst, code := code, error := error, tag := tag,
           detail := sliceBytes d 0 40 }] := by
  have key (t : State) (h1 : ({ t with ks := s.ks } : State) = s)
      (h2 : ({ t.ks with insp := s.ks.insp } : Keystone) = s.ks) :
      ({ t.noteUncorrected own code error tag with ks := s.ks } : State) = s ∧
      ({ (t.noteUncorrected own code error tag).ks with ctxs := s.ks.ctxs, insp := s.ks.insp } : Keystone) = s.ks := by
    obtain ⟨g1, g2⟩ := State.noteUncorrected_frame t own code error tag
    constructor
    · calc ({ t.noteUncorrected own code error tag with ks := s.ks } : State)
          = { ({ t.noteUncorrected own code error tag with ks := t.ks } : State) with ks := s.ks } := rfl
        _ = { t with ks := s.ks } := by rw [g1]
        _ = s := h1
    · calc ({ (t.noteUncorrected own code error tag).ks with ctxs := s.ks.ctxs, insp := s.ks.insp } : Keystone)
          = { ({ (t.noteUncorrected own code error tag).ks with ctxs := t.ks.ctxs } : Keystone) with
                ctxs := s.ks.ctxs, insp := s.ks.insp } := rfl
        _ = { t.ks with ctxs := s.ks.ctxs, insp := s.ks.insp } := by rw [g2]
        _ = { ({ t.ks with insp := s.ks.insp } : Keystone) with ctxs := s.ks.ctxs } := rfl
        _ = s.ks := by rw [h2]
  have done (t : State) (h : ({ t.noteUncorrected own code error tag with ks := s.ks } : State) = s ∧
      ({ (t.noteUncorrected own code error tag).ks with ctxs := s.ks.ctxs, insp := s.ks.insp } : Keystone) = s.ks) :
      let v := t.noteUncorrected own code error tag
      let w := v.updKs fun k => { k with records := k.records ++
        [{ stamp := st, source := v.moduleId * 2 ^ 19 + kind * 2 ^ 15 + inst, code := code, error := error, tag := tag,
           detail := sliceBytes d 0 40 }] }
      ({ w with ks := s.ks } : State) = s ∧
      ({ w.ks with ctxs := s.ks.ctxs, insp := s.ks.insp, records := s.ks.records } : Keystone) = s.ks ∧
      w.ks.records = s.ks.records ++
        [{ stamp := st, source := s.moduleId * 2 ^ 19 + kind * 2 ^ 15 + inst, code := code, error := error, tag := tag,
           detail := sliceBytes d 0 40 }] := by
    intro v w
    have hm := congrArg State.moduleId h.1
    have hr := congrArg Keystone.records h.2
    change v.moduleId = s.moduleId at hm
    change v.ks.records = s.ks.records at hr
    refine ⟨h.1, ?_, ?_⟩
    · calc ({ w.ks with ctxs := s.ks.ctxs, insp := s.ks.insp, records := s.ks.records } : Keystone)
          = { ({ v.ks with ctxs := s.ks.ctxs, insp := s.ks.insp } : Keystone) with records := s.ks.records } := rfl
        _ = s.ks := by rw [h.2]
    · show v.ks.records ++ _ = _
      rw [hr, hm]
  unfold State.recordFor
  cases scoreOf code with
  | none => exact done s (key s rfl rfl)
  | some x =>
    obtain ⟨i, w⟩ := x
    cases error with
    | false => exact done s (key s rfl rfl)
    | true => exact done (s.score i w 1) (key (s.score i w 1) rfl rfl)

/-- A record that its source raises itself. -/
theorem State.recordAt_frame (s : State) (st kind inst code : Nat) (error : Bool) (tag : Option Nat) (d : List Byte) :
    ({ s.recordAt st kind inst code error tag d with ks := s.ks } : State) = s ∧
      ({ (s.recordAt st kind inst code error tag d).ks with
         ctxs := s.ks.ctxs, insp := s.ks.insp, records := s.ks.records } : Keystone) = s.ks ∧
      (s.recordAt st kind inst code error tag d).ks.records = s.ks.records ++
        [{ stamp := st, source := s.moduleId * 2 ^ 19 + kind * 2 ^ 15 + inst, code := code, error := error, tag := tag,
           detail := sliceBytes d 0 40 }] := State.recordFor_frame s _ st kind inst code error tag d

/-- A record raised now changes the source's stamp, the free counter, the records, the score and an open step. -/
theorem State.record_frame (s : State) (kind inst code : Nat) (error : Bool) (tag : Option Nat) (d : List Byte) :
    ({ s.record kind inst code error tag d with ks := s.ks, ts := s.ts, freeCtr := s.freeCtr } : State) = s ∧
      ({ (s.record kind inst code error tag d).ks with
         ctxs := s.ks.ctxs, insp := s.ks.insp, records := s.ks.records } : Keystone) = s.ks ∧
      ({ (s.record kind inst code error tag d).ts with stamps := s.ts.stamps } : SpanTime) = s.ts ∧
      ∃ st, (s.record kind inst code error tag d).ks.records = s.ks.records ++
        [{ stamp := st, source := s.moduleId * 2 ^ 19 + kind * 2 ^ 15 + inst, code := code, error := error, tag := tag,
           detail := sliceBytes d 0 40 }] := by
  obtain ⟨h1, h2, h3⟩ :=
    State.recordAt_frame (s.stamp kind inst).2 (s.stamp kind inst).1 kind inst code error tag d
  have ht := congrArg State.ts h1
  refine ⟨?_, h2, ?_, _, h3⟩
  · calc ({ s.record kind inst code error tag d with ks := s.ks, ts := s.ts, freeCtr := s.freeCtr } : State)
        = { ({ (s.stamp kind inst).2.recordAt (s.stamp kind inst).1 kind inst code error tag d with
                ks := (s.stamp kind inst).2.ks } : State) with ks := s.ks, ts := s.ts, freeCtr := s.freeCtr } := rfl
      _ = { (s.stamp kind inst).2 with ks := s.ks, ts := s.ts, freeCtr := s.freeCtr } := by rw [h1]
      _ = s := rfl
  · have : (s.record kind inst code error tag d).ts = (s.stamp kind inst).2.ts := ht
    rw [this]
    rfl

/-! ## Mailbox commands (R430, R432, R433) -/

/-- The immediate part of a command that stands ready runs. -/
theorem State.command_at {s : State} {m op : Nat} {k : Taken} {f : State → Taken → State} (h : s.cmd m op k) :
    s.command m op f = f s k := by
  obtain ⟨h1, h2, h3, h4⟩ := h
  have h5 : (k.ask.isSome && k.data.isNone) = false := by
    rcases h4 with h4 | h4
    · simp [h4]
    · cases hd : k.data <;> simp_all
  simp [State.command, State.takenCmd, h1, h2, h3, h5]

/-- A command that waits for its completion changes its mailbox alone. -/
theorem State.mbWait_frame (s : State) (m : Nat) (f : Taken → Taken) :
    ((s.mbWait m f).mb m).taken = (s.mb m).taken.map (fun t => { f t with waits := true }) ∧
      ((s.mbWait m f).mb m).owner = (s.mb m).owner ∧ ((s.mbWait m f).mb m).bytes = (s.mb m).bytes ∧
      (∀ j, j ≠ m → (s.mbWait m f).mb j = s.mb j) ∧
      ({ s.mbWait m f with ks := { (s.mbWait m f).ks with mbs := s.ks.mbs } } : State) = s := by
  refine ⟨?_, ?_, ?_, fun j hj => ?_, rfl⟩ <;> simp [State.mbWait, State.mb_updMb]
  intro h
  exact absurd h hj

/-! ## Memory (R249, R262) -/

/-- Memory that serves a request answers ok and changes nothing. -/
theorem State.serve_ok {s : State} {n la tag : Nat} {peer : Bool} (h : s.stackServes n la tag peer) :
    s.serve la tag peer = (.ok, s) := by
  obtain ⟨⟨o, ho⟩, hu, hf, hs, ht, hp⟩ := h
  have hb : (peer && !bit (s.owner (pageOf la)) 21) = false := by
    cases peer with
    | false => rfl
    | true => simp [hp rfl]
  simp [State.serve, State.ownerRule, ho, hu, hf, hs, ht, hb]

/-- The owner rule touches only registers. -/
theorem State.serve_mem (s : State) (la tag : Nat) (peer : Bool) : (s.serve la tag peer).2.mem = s.mem := by
  have ho (n : Nat) : (s.ownerRule n la tag peer).2.mem = s.mem := by
    unfold State.ownerRule
    dsimp only
    split_ifs <;> simp
  unfold State.serve
  split
  · split_ifs
    · rfl
    · simp
    · exact ho _
  · exact ho _
  · rfl

/-- An injected error touches only registers. -/
theorem State.inject_mem (s : State) (kinds : List Nat) (target la : Nat) : (s.inject kinds target la).2.mem = s.mem := by
  unfold State.inject
  dsimp only
  split_ifs <;> simp

theorem State.recordFor_mem (s : State) (own : Option Nat) (st kind inst code : Nat) (error : Bool) (tag : Option Nat)
    (d : List Byte) : (s.recordFor own st kind inst code error tag d).mem = s.mem := by
  have h := congrArg State.mem (State.recordFor_frame s own st kind inst code error tag d).1
  exact h

theorem State.record_mem (s : State) (kind inst code : Nat) (error : Bool) (tag : Option Nat) (d : List Byte) :
    (s.record kind inst code error tag d).mem = s.mem := by
  have h := congrArg State.mem (State.record_frame s kind inst code error tag d).1
  exact h

theorem State.stamp_mem (s : State) (kind inst : Nat) : (s.stamp kind inst).2.mem = s.mem := rfl

theorem State.noteFailed_mem (s : State) (n mask : Nat) : (s.noteFailed n mask).mem = s.mem := by
  unfold State.noteFailed
  split_ifs <;> rfl

theorem State.records_mem (l : List Nat) (f : State → Nat → State) (h : ∀ s t, (f s t).mem = s.mem) (s : State) :
    (l.foldl f s).mem = s.mem := by
  induction l generalizing s with
  | nil => rfl
  | cons a r ih => rw [List.foldl_cons, ih, h]

theorem State.channelFail_mem (s : State) (n c k : Nat) : (s.channelFail n c k).mem = s.mem := by
  unfold State.channelFail
  dsimp only
  rw [State.records_mem _ _ fun s t => State.record_mem s _ _ _ _ _ _]
  simp [State.noteFailed_mem]

theorem State.noteUe_mem (s : State) (n o : Nat) : (s.noteUe n o).mem = s.mem := by
  unfold State.noteUe
  dsimp only
  split_ifs <;> simp [State.channelFail_mem]

theorem State.noteCe_mem (s : State) (n la : Nat) : (s.noteCe n la).mem = s.mem := by
  unfold State.noteCe
  dsimp only
  have h : (((s.add64 (dmcOff n + 0x30) 64).bump (dmcOff n + 0x38) 1).score 0 16 1).mem = s.mem := rfl
  split_ifs <;> simp only [State.updStack_mem, State.record_mem] <;> exact h

/-- The check of an atom leaves every byte as it was. -/
theorem State.checkAtom_mem (s : State) (k la : Nat) (ecc : Ecc) : (s.checkAtom k la ecc).2.mem = s.mem := by
  have hi := State.inject_mem s [1, 2] k la
  unfold State.checkAtom
  rcases h : s.inject [1, 2] k la with ⟨inj, u⟩
  rw [h] at hi
  change u.mem = s.mem at hi
  simp only
  split_ifs
  · simp [State.noteUe_mem, hi]
  · simp [State.noteCe_mem, hi]
  · exact hi

/-- A read leaves every byte as it was. -/
theorem State.readAtom_mem (s : State) (la n tag : Nat) (peer : Bool) (ecc : Ecc) (va : Nat) :
    (s.readAtom la n tag peer ecc va).2.mem = s.mem := by
  have hs := State.serve_mem s la tag peer
  unfold State.readAtom
  rcases h : s.serve la tag peer with ⟨r, u⟩
  rw [h] at hs
  change u.mem = s.mem at hs
  cases r with
  | stale => exact hs
  | fault c => exact hs
  | ok =>
    simp only
    split
    · rename_i k o _
      have hc := State.checkAtom_mem (u.add64 (dmcOff k + 0x28) 64) k la ecc
      rcases hx : (u.add64 (dmcOff k + 0x28) 64).checkAtom k la ecc with ⟨b, v⟩
      rw [hx] at hc
      cases b <;> simpa using hc.trans hs
    · exact hs
    · exact hs

/-- A write of bytes inside one atom either leaves memory as it was or writes exactly the masked bytes. -/
theorem State.writeAtom_mem (s : State) (who : Client) (la : Nat) (d : List (Byte × Bool)) (tag : Nat) (peer : Bool)
    (ecc : Ecc) (va : Nat) :
    ((s.writeAtom who la d tag peer ecc va).1 ≠ none → (s.writeAtom who la d tag peer ecc va).2.mem = s.mem) ∧
      ((s.writeAtom who la d tag peer ecc va).1 = none →
        (s.writeAtom who la d tag peer ecc va).2.mem = Memory.writeMasked s.mem la d) := by
  have hs := State.serve_mem s la tag peer
  unfold State.writeAtom
  rcases h : s.serve la tag peer with ⟨r, u⟩
  rw [h] at hs
  change u.mem = s.mem at hs
  cases r with
  | stale => simp [hs]
  | fault c => simp [hs]
  | ok =>
    simp only
    split
    · split_ifs <;> simp [State.recordFor_mem, State.noteUe_mem, State.stamp_mem, hs]
    · simp [State.noteSram, hs]
    · simp [hs]

/-- Memory stays canonical through a read. -/
theorem State.memOk_readAtom {s : State} (h : s.memOk) (la n tag : Nat) (peer : Bool) (ecc : Ecc) (va : Nat) :
    (s.readAtom la n tag peer ecc va).2.memOk := by
  simpa [State.memOk, State.readAtom_mem] using h

/-- Memory stays canonical through a write. -/
theorem State.memOk_writeAtom {s : State} (h : s.memOk) (who : Client) (la : Nat) (d : List (Byte × Bool)) (tag : Nat)
    (peer : Bool) (ecc : Ecc) (va : Nat) : (s.writeAtom who la d tag peer ecc va).2.memOk := by
  obtain ⟨h1, h2⟩ := State.writeAtom_mem s who la d tag peer ecc va
  unfold State.memOk at h ⊢
  by_cases hn : (s.writeAtom who la d tag peer ecc va).1 = none
  · rw [h2 hn]
    exact Memory.wf_writeMasked h la d
  · rw [h1 hn]
    exact h

/-- A die's translation cache is no memory. -/
theorem State.translateFor_mem (s : State) (who : Client) (tag va : Nat) (perm : Perm) :
    (s.translateFor who tag va perm).2.mem = s.mem := by
  have hc (p i : Nat) : (s.cacheFill p i).mem = s.mem := by
    unfold State.cacheFill
    dsimp only
    split_ifs <;> rfl
  unfold State.translateFor State.translateAt
  split
  · split
    · rfl
    · exact hc _ _
  · rfl

/-- A read of a range leaves every byte as it was. -/
theorem State.readVaFuel_mem (who : Client) (tag : Nat) (reach : Place → Bool) (code : Nat) (fuel : Nat) :
    ∀ (s : State) (va n : Nat), (State.readVaFuel who tag reach code s fuel va n).2.mem = s.mem := by
  induction fuel with
  | zero => intro s va n; rfl
  | succ k ih =>
    intro s va n
    unfold State.readVaFuel
    split_ifs
    · rfl
    · have ht := State.translateFor_mem s who tag va .rd
      rcases hx : s.translateFor who tag va .rd with ⟨x, w⟩
      rw [hx] at ht
      change w.mem = s.mem at ht
      cases x with
      | fault c => exact ht
      | far m l t => exact ht
      | here la =>
        simp only
        split_ifs
        · exact ht
        · have hr := State.readAtom_mem w la (atomPart va n) tag false .clean va
          rcases hy : w.readAtom la (atomPart va n) tag false .clean va with ⟨r, u⟩
          rw [hy] at hr
          cases r with
          | error f => exact hr.trans ht
          | ok d =>
            simp only
            have hi := ih u (va + atomPart va n) (n - atomPart va n)
            rcases hz : State.readVaFuel who tag reach code u k (va + atomPart va n) (n - atomPart va n) with ⟨r', v⟩
            rw [hz] at hi
            cases r' with
            | error f => exact hi.trans (hr.trans ht)
            | ok e => exact hi.trans (hr.trans ht)

theorem State.readVa_mem (s : State) (who : Client) (tag : Nat) (reach : Place → Bool) (code va n : Nat) :
    (s.readVa who tag reach code va n).2.mem = s.mem := State.readVaFuel_mem who tag reach code _ s va n

/-- Memory stays canonical through a write of a range. -/
theorem State.memOk_writeVaFuel (who : Client) (tag : Nat) (reach : Place → Bool) (code : Nat) (fuel : Nat) :
    ∀ (s : State) (va : Nat) (d : List Byte), s.memOk → (State.writeVaFuel who tag reach code s fuel va d).2.memOk := by
  induction fuel with
  | zero => intro s va d h; exact h
  | succ k ih =>
    intro s va d h
    unfold State.writeVaFuel
    split_ifs
    · exact h
    · have ht := State.translateFor_mem s who tag va .wr
      rcases hx : s.translateFor who tag va .wr with ⟨x, w⟩
      rw [hx] at ht
      have hw : w.memOk := by
        change w.mem = s.mem at ht
        simpa [State.memOk, ht] using h
      cases x with
      | fault c => exact hw
      | far m l t => exact hw
      | here la =>
        simp only
        split_ifs
        · exact hw
        · have hv := State.memOk_writeAtom hw who la ((d.take (atomPart va d.length)).map fun b => (b, true)) tag false
            .clean va
          rcases hy : w.writeAtom who la ((d.take (atomPart va d.length)).map fun b => (b, true)) tag false .clean va with
            ⟨r, u⟩
          rw [hy] at hv
          cases r with
          | some f => exact hv
          | none => exact ih u _ _ hv

theorem State.memOk_writeVa {s : State} (h : s.memOk) (who : Client) (tag : Nat) (reach : Place → Bool) (code va : Nat)
    (d : List Byte) : (s.writeVa who tag reach code va d).2.memOk :=
  State.memOk_writeVaFuel who tag reach code _ s va d h

end Sys2Proof.Machine
end

