-- ==== Sys2Proof/Laws/Net.lean ====
section
/-! SUPPORT. What sending can do: a packet, a message, a vector or a mailbox's completion moves registers, dies, links,
the host port, records, stamps, free values and outward effects, and nothing else. -/
namespace Sys2Proof.Machine
open Sys2Proof

/-- The state without the parts that sending may move. -/
def State.still (s : State) : State :=
  { s with
    ks := { s.ks with records := [], txid := 0 }, ts := { s.ts with stamps := [] },
    regs := [], dies := [], links := [], out := [], hp := HostPort.reset, freeCtr := 0 }

theorem State.still_bump (s : State) (o n : Nat) : (s.bump o n).still = s.still := rfl
theorem State.still_orReg (s : State) (o m : Nat) : (s.orReg o m).still = s.still := rfl
theorem State.still_add64 (s : State) (o n : Nat) : (s.add64 o n).still = s.still := rfl
theorem State.still_emit (s : State) (o : Out) : (s.emit o).still = s.still := rfl
theorem State.still_updLink (s : State) (l : Nat) (f : LinkState → LinkState) : (s.updLink l f).still = s.still := rfl
theorem State.still_updDie (s : State) (k : Nat) (f : DieState → DieState) : (s.updDie k f).still = s.still := rfl
theorem State.still_swStale (s : State) (k : Nat) : (s.swStale k).still = s.still := rfl
theorem State.still_stamp (s : State) (kind inst : Nat) : (s.stamp kind inst).2.still = s.still := rfl

/-- A record of no memory error and no input of the score moves only the records, the stamps and the free counter. -/
theorem State.still_record (s : State) (kind inst code : Nat) (error : Bool) (tag : Option Nat) (d : List Byte)
    (h1 : scoreOf code = none) (h2 : error = false ∨ code / 256 ≠ 3) :
    (s.record kind inst code error tag d).still = s.still := by
  have hn (t : State) (own : Option Nat) : t.noteUncorrected own code error tag = t := by
    unfold State.noteUncorrected
    cases tag with
    | none => rfl
    | some g => rcases h2 with h2 | h2 <;> simp [h2]
  simp only [State.record, State.recordAt, State.recordFor, h1, hn]
  rfl

theorem State.still_forward (s : State) (p : Packet) (inp : Option Nat) (l : Nat) :
    (s.forward p inp l).still = s.still := rfl

theorem State.still_deliver (s : State) (k : Nat) (p : Packet) : (s.deliver k p).still = s.still := by
  unfold State.deliver
  split_ifs <;> rfl

theorem State.still_routeAnswer (s : State) (k : Nat) (p : Packet) : (s.routeAnswer k p).still = s.still := by
  unfold State.routeAnswer
  cases s.routeOf p <;> simp only [apply_ite State.still, State.still_swStale, State.still_deliver,
    State.still_add64, State.still_forward, State.still_bump, ite_self]

theorem State.still_answer (s : State) (k : Nat) (q : Packet) (type status : Nat) (d : List Byte) :
    (s.answer k q type status d).still = s.still := State.still_routeAnswer s k _

theorem State.still_routeDrop (s : State) (k : Nat) (p : Packet) (inp : Option Nat) (code cnt e : Nat)
    (h1 : scoreOf code = none) (h2 : code / 256 ≠ 3) : (s.routeDrop k p inp code cnt e).still = s.still := by
  unfold State.routeDrop State.nack
  by_cases h : p.isReq = true
  · simp only [h, if_true]
    rw [State.still_answer, State.still_record _ _ _ _ _ _ _ h1 (.inr h2)]
    rfl
  · simp only [h]
    rfl

/-- Routing a packet of a unit. -/
theorem State.still_routeUnit (s : State) (k : Nat) (p : Packet) : (s.routeUnit k p).still = s.still := by
  unfold State.routeUnit
  have h0 := State.still_routeDrop s k p none 0x0410 0x1C 0 (by decide) (by decide)
  have h1 := State.still_routeDrop s k p none 0x0411 0x20 1 (by decide) (by decide)
  cases s.routeOf p <;> simp only [apply_ite State.still, State.still_swStale, State.still_deliver,
    State.still_add64, State.still_forward, h0, h1, ite_self]

/-- Routing a packet that came in on a link. -/
theorem State.still_routeLink (s : State) (l : Nat) (p : Packet) : (s.routeLink l p).still = s.still := by
  have key (t : State) (h : t.still = s.still) : (match t.routeOf p with
      | .here => (t.freeEntries l p).deliver (l / 6) p
      | .out m => (t.forward p (some l) m).add64 (swOff (l / 6) + 0x10) 1
      | .noRoute => (t.freeEntries l p).routeDrop (l / 6) p (some l) 0x0410 0x1C 0
      | .hopLimit => (t.freeEntries l p).routeDrop (l / 6) p (some l) 0x0411 0x20 1).still = s.still := by
    have hf : (t.freeEntries l p).still = t.still := rfl
    rw [← h, ← hf]
    split
    · exact State.still_deliver _ _ p
    · rw [State.still_add64, State.still_forward, hf]
    · exact State.still_routeDrop _ _ p _ _ _ _ (by decide) (by decide)
    · exact State.still_routeDrop _ _ p _ _ _ _ (by decide) (by decide)
  unfold State.routeLink
  dsimp only
  split_ifs
  · rfl
  · exact key s rfl
  · exact key _ rfl

/-- A far request that is sent. -/
theorem State.still_farSend (s : State) (k : Nat) (q : Packet) (raddr : Nat) (unit : FarUnit)
    (relay : Option (Nat × Nat × Nat)) (off : Nat) : (s.farSend k q raddr unit relay off).2.still = s.still := by
  unfold State.farSend State.farKeep
  dsimp only
  rw [State.still_routeUnit]
  rfl

theorem State.still_sendMsg (s : State) (k dst mcode : Nat) (d : List Byte) : (s.sendMsg k dst mcode d).still = s.still :=
  State.still_farSend s k _ _ _ _ _

/-- A write to host memory. -/
theorem State.still_hostWrite (s : State) (addr : Nat) (d : List Byte) : (s.hostWrite addr d).still = s.still := by
  unfold State.hostWrite
  split_ifs
  · rw [State.still_add64, State.still_sendMsg]
  · rfl
  · rfl

/-- A vector that is raised. -/
theorem State.still_msix (s : State) (v : Nat) : (s.msix v).still = s.still := by
  unfold State.msix State.msixDue State.msixSend
  dsimp only
  split_ifs <;> first | rfl | exact State.still_sendMsg s _ _ _ _

/-! ## Completing a mailbox command (R432) -/

/-- What a mailbox command's completion does, whatever its flags are: STATUS is written, OWN is clear, every other byte
from PROG on stands, every other mailbox stands, and beside the mailbox only what sending moves has moved. -/
theorem State.mbDone_completed {s : State} {m status : Nat} {k : Taken} (hk : (s.mb m).taken = some k)
    (hs : status < 2 ^ 16) : s.completed (s.mbDone m status) m status := by
  -- the state after the mailbox has been given back
  let a : State := (s.stamp 11 m).2.updMb m fun x =>
    { (x.write 0x10 (toBytes status 2)).write 0x18 (toBytes (s.stamp 11 m).1 8) with
      owner := false, cancel := false, taken := none }
  let b : State := if bit k.flags 0 then
      a.record 11 m 0x0511 false (if k.ctx < 64 then some k.tag else none)
        (detail [(m, 2), (k.opcode, 2), (k.seq, 4), (status, 2)])
    else a
  have ht : s.mbDone m status = if bit k.flags 1 && (b.mb m).vector ≠ 0xFFFF then b.msix (b.mb m).vector else b := by
    simp only [State.mbDone, hk, b, a]
  have hb : b.still = a.still := by
    by_cases hf : bit k.flags 0 = true
    · simp only [b, hf, if_true]
      exact State.still_record _ _ _ _ _ _ _ (by decide) (.inl rfl)
    · simp only [b, hf]
      rfl
  have hc : (s.mbDone m status).still = a.still := by
    rw [ht]
    split_ifs
    · rw [State.still_msix, hb]
    · exact hb
  have hmbs : (s.mbDone m status).ks.mbs = a.ks.mbs := congrArg (fun x => x.ks.mbs) hc
  have hmb (j : Nat) : (s.mbDone m status).mb j = a.mb j := by simp only [State.mb, hmbs]
  have hj (j : Nat) (h : j ≠ m) : a.mb j = s.mb j := by
    simp only [a, State.mb_updMb, if_neg h]
    rfl
  have hm : a.mb m = { ((s.mb m).write 0x10 (toBytes status 2)).write 0x18 (toBytes (s.stamp 11 m).1 8) with
      owner := false, cancel := false, taken := none } := by
    simp only [a, State.mb_updMb, if_true]
    rfl
  have h0 : BitVec.toNat (BitVec.ofNat 8 status) + 256 * BitVec.toNat (BitVec.ofNat 8 (status / 256)) = status := by
    simp only [BitVec.toNat_ofNat]
    omega
  refine ⟨⟨⟨?_, ?_, ?_⟩, fun j h => ?_, ?_, ?_, ?_, ?_⟩, fun o ho => ?_⟩
  · rw [hmb, hm]
  · rw [hmb, hm]
  · rw [hmb, hm]
    simp [Mailbox.read, Mailbox.write, Tab.get_putList, toBytes, ofBytes]
    omega
  · rw [hmb, hj j h]
  · have h := congrArg (fun x => ({ x.ks with mbs := s.ks.mbs, records := s.ks.records, txid := s.ks.txid } : Keystone)) hc
    exact h
  · have h := congrArg (fun x => ({ x.ts with stamps := s.ts.stamps } : SpanTime)) hc
    exact h
  · have h := congrArg (fun x => ({ x with
      ks := s.ks, ts := s.ts, regs := s.regs, dies := s.dies, links := s.links, out := s.out, hp := s.hp,
      freeCtr := s.freeCtr } : State)) hc
    exact h
  · intro k' hk' hf
    have : k' = k := Option.some.inj (hk'.symm.trans hk)
    subst this
    rw [ht, hf, Bool.false_and, if_neg (by simp)]
    by_cases hg : bit k'.flags 0 = true
    · simp only [b, hg, if_true]
      have h := (State.record_frame a 11 m 0x0511 false (if k'.ctx < 64 then some k'.tag else none)
        (detail [(m, 2), (k'.opcode, 2), (k'.seq, 4), (status, 2)])).1
      have h' := congrArg (fun x => ({ x with ks := s.ks, ts := s.ts, freeCtr := s.freeCtr } : State)) h
      exact h'
    · simp only [b, hg]
      rfl
  · rw [hmb, hm]
    simp only [Mailbox.write, Tab.get_putList, toBytes, List.length_cons, List.length_nil]
    rw [if_neg (by omega), if_neg (by omega)]

end Sys2Proof.Machine
end

