-- ==== Sys2Proof/WellFormed.lean ====
section
/-! DEFINITION. The shape of a command's operands that the spec fixes and the types of Syntax do not: lengths,
alignments, ranges and the values a reserved field may not take. The machine does not rely on it: exec gives every term of
Instr a meaning. -/
namespace Sys2Proof

/-- A byte string is n bytes. -/
def lenIs (n : Nat) (d : List Byte) : Bool := d.length = n

/-- The bytes of a chunk: at most 4 KiB of source, indices only where the chunk is indexed, and a rank of 13 bits
(R274, R308). -/
def ChunkReq.wf (c : ChunkReq) : Bool :=
  decide (c.data.length ≤ 4096) && (c.indexed || c.indices = []) && decide (c.rank < 8192) && decide (c.dst.toNat % 64 = 0)

/-- A window descriptor is 64 bytes; a re-arm names 1 to 8,192 ranks (R272). -/
def WindowOp.wf : WindowOp → Bool
  | .opn d => lenIs 64 d
  | .rearm _ n => decide (1 ≤ n ∧ n ≤ 8192)
  | .close => true

/-- A slot's body is 256 bytes (R293, R294). -/
def Slot.wf (x : Slot) : Bool := lenIs 256 x.body

/-- The fields of a TIME frame: 67-bit times, 6-bit depth (R340). -/
def TimeFrame.wf (f : TimeFrame) : Bool :=
  decide (f.tx < 2 ^ 67) && decide (f.echo < 2 ^ 67) && decide (f.rx < 2 ^ 67) && decide (f.depth < 64)

/-- The accumulator rows read in one array cycle hold at most 256 words of 64 bits (R37, R41). -/
def ArrayStep.wf : ArrayStep → Bool
  | .cycle corrected _ => decide (corrected ≤ 256)
  | .weight | .stream | .side | .write | .parity _ => true

/-- A write accepted at BAR0: 4 or 8 bytes, naturally aligned, or any bytes of one mailbox (R423). -/
def barWriteWf (off n : Nat) : Bool :=
  ((n = 4 || n = 8) && off % n = 0) || (decide (off < 0x100000) && decide (1 ≤ n) && decide (off % 4096 + n ≤ 4096))

/-- The trained host port: SPEED 1 to 6 and 1 to 16 lanes (R452). -/
def portWf (speed width : Nat) : Bool := decide (1 ≤ speed ∧ speed ≤ 6) && decide (1 ≤ width ∧ width ≤ 16)

/-- A row of a settings copy lies in its table (R456). -/
def StoreCopy.wf (c : StoreCopy) : Bool :=
  (c.words.all fun x => x.1 % 4 = 0) && (c.routes.all fun x => decide (x.1 < 8192)) &&
    (c.fast.all fun x => decide (x.1 < 6144))

/-- The operands of a command have the shape the spec gives them. -/
def Instr.wf : Instr → Bool
  | .passAdmission _ _ l | .passEndMarker _ _ l | .drainComplete _ _ l | .overflowReissue _ _ l
  | .passCompletion _ _ l => l.all ArrayStep.wf
  | .registerWrite _ off data => barWriteWf off.toNat data.length
  | .counterSnapshotRead off => off.toNat % 4 = 0
  | .write r _ _ => decide (r.addr.toNat % 64 = 0)
  | .read r => decide (r.addr.toNat % 64 = 0)
  | .plain r _ _ data => decide (r.addr.toNat % 2 = 0) && decide (1 ≤ data.length ∧ data.length ≤ 64)
  | .chunk c => c.wf
  | .window _ _ op => op.wf
  | .patrolScrub _ found => found.all fun x => decide (x.1.toNat < 24576 * 2 ^ 21)
  | .slotReceived _ x => x.wf
  | .resync _ frame => lenIs 31 frame
  | .truss _ frame => lenIs 31 frame
  | .time _ f => f.wf
  | .headerFlit _ header _ => lenIs 64 header
  | .twinRootArrival _ _ root => lenIs 64 root
  | .badWidthAccess a => !(((a.size = 4 || a.size = 8) && a.off.toNat % a.size = 0))
  | .bayApertureAccess off _ data => decide (1 ≤ data.length) && decide (off.toNat % 2 ^ 30 + data.length ≤ 2 ^ 30)
  | .scrub _ found => found.all fun x => decide (x.1.toNat < 2 ^ 40)
  | .inputUndervoltage v => decide (380 ≤ v.toNat ∧ v.toNat < 400)
  | .perstDeassert speed width _ => portWf speed.toNat width.toNat
  | .settingsLoad a b => a.wf && b.wf
  | .sensorThresholdCrossing id => decide (1 ≤ id.toNat ∧ id.toNat ≤ 59)
  | .nop _ | .endTask _ | .setb _ | .addb _ | .loop _ | .br _ | .twait _ | .twaitRelease _ _ | .tsig _ _
  | .tset _ | .mark _ _ | .setx _ | .setl _ | .ldd _ | .lddDescriptorsArrive _ | .pass _
  | .accZeroingDone _ _ | .xfer _ _ | .gather _ _ | .reduce _ _ | .taskSubmission _ _ | .taskStart _
  | .taskCompletion _ | .faultedEntry _ | .haltComplete _ | .tallyIncrementReceived _ _ | .vfma _ _ | .vadd _ _
  | .vmul _ _ | .vcmp _ _ | .vspec _ _ | .vact _ _ | .vshf _ _ | .vred _ _ | .vld _ _ | .vst _ _ | .vqst _ _
  | .vopt _ _ | .vectorZeroingDone _ | .gaugeCheck _ | .marCtrlEn _ _ _ | .marCtrlHalt _ _ _
  | .marCtrlCntClr _ _ | .psqCtrlArm _ _ | .psqCtrlHalt _ _ | .psqCtrlAbort _ | .psqCtrlClrFault _
  | .psqCtrlCntClr _ | .psqCtxTag _ _ | .psqTcnWrite _ _ _ | .vecCtrlCntClr _ | .dmcCtrlScrubEn _ _
  | .dmcCtrlCntClr _ | .dmcFenceTag _ _ | .dmcFenceQuiet _ | .zlCtrlEn _ _ | .zlCtrlRetrain _ | .zlCtrlCntClr _
  | .zlSwFenceTag _ _ | .switchFenceQuiet _ | .tsCtrlCntClr | .tsSetCount _ | .rshCtrlEn _ _ | .rshCtrlAbort _
  | .rshCtrlCntClr _ | .rshSubmitAddr _ _ | .zero _ | .channelMapOut _ _ | .zeroComplete _ | .roundFinish _ _
  | .chunkRepeat _ _ | .refreshBandSample _ _ _ | .linkTrainingStep _ _ | .trainingTimeout _ | .trainingRetry _
  | .replayTimeout _ | .lockLoss _ | .sideFrameSilence _ | .writePacket _ | .landingCount _ | .readPacket _
  | .chunkPacket _ | .coll _ | .msg _ | .ack _ | .rdata _ | .refused _ | .nack _ | .farTimeout _ _
  | .collectiveRoundComplete _ | .collChunkRepeat _ | .spanTimeHoldover | .ppsEdge | .ppsMissing | .replicaTrim
  | .shardRefetch _ _ | .shardTimeout _ _ | .shardSeal _ _ | .reshardJobStart _ | .reshardJobComplete _
  | .stepOpen _ | .gateEvaluation _ | .stepLocalCompletion _ | .voteResult _ | .stepComposition _
  | .servingSubmit _ | .servingStepApply _ | .servingStepFail _ | .creditReread _ _ | .streamRecords
  | .recordResend | .mailboxOwnFlip _ | .mailboxCancel _ | .mailboxWriteWhileOwned _ _ | .commandTake
  | .progressUpdate _ _ | .eventRecord | .holdoffExpiry _ | .badOffsetAccess _ | .diagWindowWrite _
  | .bayReadTimeout _ | .bayMsg _ | .nopCommand _ | .identify _ | .bind _ | .eventRing _ | .aperture _
  | .resetCommand _ | .cfgStage _ | .cfgCommit _ | .cfgDiscard _ | .mapRange _ | .map _ | .unmap _
  | .translate _ | .winOpen _ | .winRearm _ | .winClose _ | .memtest _ | .hostCopy _ | .routeStage _
  | .fastStage _ | .groupSet _ | .collOpen _ | .collRearm _ | .collClose _ | .linkCtrl _ | .ctxCreate _
  | .ctxTeardown _ | .piers _ | .replace _ | .tasks _ | .step _ | .seal _ | .shardTable _ | .serveShard _
  | .landing _ | .reshard _ | .updManifest _ _ | .updPiece _ _ | .updActivate _ | .processorSwitch
  | .drainRequest _ | .recoveryLoad _ _ | .recoveryWarmReset | .attest _ | .serveOpen _ | .lane _
  | .admitStream _ | .ring _ | .cancel _ | .adapterLoad _ | .adapterRetire _ | .weightSwap _ | .membership _
  | .inspect _ | .ltEnable _ | .selftest _ _ _ | .ltExpiry | .emulatedSag _ | .heartbeatSample _ | .pierReset _
  | .generationHoldoffExpiry | .fenceTimeout | .keystoneReset | .keystoneRestart | .warmReset _ | .powerOn _
  | .powerLoss | .overvoltage | .keystoneImageAccept _ _ _ | .engineStart _ | .stackBringup _ _
  | .pierBringup _ | .hostPortReset _ | .droopSense _ | .droopSecondStep _ | .droopRecovery _
  | .powerCapStep _ _ | .pierPowerTransition _ | .thermalTrip _ _ | .lidOverMaximum _ _ | .tripCooldownReset
  | .neighbourSuspect _ | .suspectRepeat _ | .trussMessage _ | .recordRequest _ | .recordReply _
  | .membershipInstall | .scoreCompute | .scoreDecay | .probationReport | .probationSelftest _ _ _
  | .dieTemperatureExcursion _ _ | .pldmEventRead | .tapInstruction _ | .hostMemoryAccessDone _ _
  | .settingsCopyWritten | .memtestComplete _ _ | .undervoltageExcursionEnd _ => true

end Sys2Proof
end

