-- ==== Sys2Proof/Tests/Slice0.lean ====
section
/-! SUPPORT. The model's own tests: small states, tests on fixed values whose results come from the spec's examples and
tables or from hand calculation with its rules, the ill-formed terms that WellFormed refuses, and for every statement with
hypotheses a witness that states and operands meeting them exist, clause by clause. -/

namespace Sys2Proof.Tests
open Sys2Proof Sys2Proof.Machine

/-- the tag of context 1 -/
def tg : Nat := 4097
def pg : Nat := 2 * 32768 + 100
def la0 : Nat := pg * 2 ^ 21
/-- a valid local entry of page g with permissions -/
def xle (g : Nat) (kind : Nat) : BitVec 128 := BitVec.ofNat 128 (0xF + kind * 16 + tg * 256 + g * 2 ^ 32)
/-- a remote entry -/
def xlr (g m rtag : Nat) : BitVec 128 := BitVec.ofNat 128 (0xF + 2 * 16 + tg * 256 + g * 2 ^ 32 + m * 2 ^ 64 + rtag * 2 ^ 78)

def demoPier : PierState := { PierState.reset with
  tag := tg, serves := some 1, arrOn := 15, vecOn := true, power := 0, ready := true }

/-- A running module: context 1 is ACTIVE with pier 2, and its first two virtual pages stand in stack 2. -/
def demo : State := { State.reset with
  phys := { Physical.reset with input := true }
  ks := { Keystone.reset with
    phase := .running, bringup := 4
    ctxs := [(1, { Context.reset with phase := .active, gen := 1, lcount := 8, rcount := 4 })] }
  hp := { HostPort.reset with up := true }
  piers := [(2, demoPier)]
  stks := [(2, { StackState.reset with up := true })]
  owners := [(pg, BitVec.ofNat 32 (ownerWord tg 1 true)), (pg + 1, BitVec.ofNat 32 (ownerWord tg 1 false)),
    (524544, BitVec.ofNat 32 (ownerWord tg 1 true))]
  xlate := [(0, xle pg 0), (1, xle (pg + 1) 0), (2, xle 524544 1), (393216, xlr 77 5 9000)]
  regs := [(psqOff 2, 1)] }

def demoTask : Task := { ser := 0, id := 7, start := 0, len := 16 }
def demoRun : RunTask := { task := demoTask, pc := 0, loops := [] }
def started (ser left : Nat) : StartedTask := { ser := ser, id := 7, left := left, ended := false, endCode := 0, status := none, stamp := none }

/-- Pier 2 dispatches a task whose words are these. -/
def running (ws : List Nat) : State := { demo with
  mem := Memory.writeList [] la0 ((ws.map fun w => toBytes w 16).flatten)
  piers := [(2, { demoPier with seq := .running, run := some demoRun, started := [started 0 0], nextSer := 1 })] }

def runningAt (x : PierState → PierState) (ws : List Nat) : State := (running ws).updPier 2 x

def entryN (w0 w1 : Nat) : Entry := { entryOf demoRun w0 w1 with ser := 0 }
/-- Entry e stands at the head of queue q of pier 2, its task started. -/
def queuedAt (q : Nat) (e : Entry) : State := { demo with
  piers := [(2, { demoPier with seq := .running, started := [started 0 1], nextSer := 1, queues := [(q, [e])] })] }
/-- An instruction word from its opcode and fields (position, value). -/
def iw (op : Nat) (l : List (Nat × Nat)) : Nat := op + (l.map fun x => x.2 * 2 ^ x.1).sum
def demoX (f : PierState → PierState) : State := demo.updPier 2 f
/-- The words of a one-row INT4 pass on array 2 with more fields of the first word. -/
def passW (l : List (Nat × Nat)) : Nat := iw 0x40 ([(8, 2), (16, 9), (20, 9), (48, 1), (84, 65536)] ++ l)
def passW1 : Nat := iw 3 [(8, 65552)]
def passE (l : List (Nat × Nat)) : Entry := { entryN (passW l) passW1 with addrs := [2 ^ 22, 2 ^ 22 + 1024] }
def passY (l : List (Nat × Nat)) (ph : PassPhase) : PassRun :=
  { entry := passE l, phase := ph, age := 0, entered := 0, flight := [], out := 0, bias := none, dead := false, start := 0,
    attempts := 0, report := ConvReport.reset, behind := [] }
/-- Array 2 of pier 2 holds these passes, with tile and streamed row in the staging SRAM. -/
def withPasses (ys : List PassRun) (f : Array8 → Array8) : State := { demo with
  regs := [(marOff 2 2, 1), (psqOff 2, 1)]
  mem := Memory.writeList (Memory.writeList [] (2 ^ 40 + 2 ^ 29) [3, 0xFE]) (2 ^ 40 + 2 ^ 29 + 1024) [5]
  piers := [(2, { demoPier with
    seq := .running, started := [started 0 1], nextSer := 1, arrays := [(2, f { Array8.reset with passes := ys })] })] }
def passQueued (e : Entry) (ys : List PassRun) (f : Array8 → Array8) : State :=
  (withPasses ys f).updPier 2 fun x => { x with queues := [(2, [e])] }
/-- Pier 2 with vector instruction w (second word w1, operands addrs) at the head of VQ and vector data in its registers. -/
def vecAt (w w1 : Nat) (addrs : List Nat) : State :=
  ({ queuedAt 8 { entryN w w1 with addrs := addrs } with
     mem := Memory.writeList [] (2 ^ 40 + 2 ^ 29) [0, 0, 0x80, 0x3F, 1, 2, 3, 4, 0xFF, 0xFE] }).updPier 2 fun x => { x with
    vregs := [(2048, 0xC00000003F800000#64), (2049, 0x7F800000#64), (3072, 0x3F00000040400000#64), (4096, 0xBF80000040000000#64)] }
/-- A transfer entry with resolved addresses. -/
def xferE (w : Nat) (w1 : Nat) (addrs : List Nat) : Entry := { entryN w w1 with addrs := addrs }
/-- Engine 1 of pier 2 holds transfer y. -/
def withXfer (y : Transfer) (f : State → State) : State :=
  f (demo.updPier 2 fun x => { x with
    seq := .running, started := [started 0 1], nextSer := 1, transfers := [(1, [y])] })
def xferY (e : Entry) : Transfer :=
  { id := 3, entry := e, tag := tg, fetch := [], begun := true, waiting := [], todo := [], unread := none,
    refused := [], nextRow := 0, row := [], refetch := none, fault := none, behind := [] }
/-- Engine 1 of pier 2 has entry e at its head; bytes stand in the first stack page. -/
def xferAt (e : Entry) : State :=
  { queuedAt 10 e with mem := Memory.writeList [] la0 ((List.range 80).map fun i => BitVec.ofNat 8 (i + 1)) }
/-- n bytes with values at offsets. -/
def bs (n : Nat) (l : List (Nat × Nat)) : List Byte := toBytes (l.map fun x => x.2 * 256 ^ x.1).sum n
/-- The copy of a command of context 1. -/
def tk (op : Nat) (args : List (Nat × Nat)) : Taken :=
  { opcode := op, flags := 0, seq := 1, tag := tg, args := bs 1984 args, ctx := 1, privileged := false, ask := none, data := none,
    waits := false, todo := [], done := 0, total := 0 }
/-- The copy of a privileged command. -/
def tkP (op : Nat) (args : List (Nat × Nat)) : Taken := { tk op args with tag := 0, ctx := 64, privileged := true }
/-- Mailbox 5 holds command k. -/
def cmdAt (k : Taken) (f : State → State) : State :=
  f (demo.updKs fun x => { x with mbs := [(5, { Mailbox.reset with owner := true, taken := some k })] })
/-- Bytes at context-virtual addresses of the first page. -/
def withMem (l : List (Nat × List Byte)) (s : State) : State :=
  { s with mem := l.foldl (fun m x => Memory.writeList m (la0 + x.1) x.2) s.mem }
/-- A decidable head of a conjunction, shown at once, and its tail. -/
theorem head3 {a0 a1 a2 r : Prop} (h : a0 ∧ a1 ∧ a2) (k : r) : a0 ∧ a1 ∧ a2 ∧ r :=
  ⟨h.1, h.2.1, h.2.2, k⟩
/-- A decidable head of a conjunction, shown at once, and its tail. -/
theorem head4 {a0 a1 a2 a3 r : Prop} (h : a0 ∧ a1 ∧ a2 ∧ a3) (k : r) : a0 ∧ a1 ∧ a2 ∧ a3 ∧ r :=
  ⟨h.1, h.2.1, h.2.2.1, h.2.2.2, k⟩
/-- A pair is its first part and whatever the second one is. -/
theorem pair_of_fst {α β : Type} {f : α × β} {a : α} (h : f.1 = a) : f = (a, f.2) := by
  subst h; rfl
end Sys2Proof.Tests

namespace Sys2Proof.Tests
open Sys2Proof Sys2Proof.Machine

/-! ## Ill-formed terms -/

def memReq (a : Nat) : MemReq := { addr := BitVec.ofNat 48 a, tag := 4097, peer := false, pier := none, ecc := .clean }
def chunkReq (dst rank : Nat) (n : Nat) : ChunkReq :=
  { tag := 4097, dst := BitVec.ofNat 48 dst, rank := rank, round := 0, epoch := 0, seg := 0, last := false, indexed := false,
    pair := 0x77, indices := [], data := List.replicate n 0, peer := false, pier := none, ecc := .clean }
def frame (tx depth : Nat) : TimeFrame := { tx := tx, echo := 0, rx := 0, depth := depth, locked := true, t4 := 0 }

theorem test_wf_write_unaligned : (Instr.write (memReq 32) 0 0).wf = false := by decide
theorem test_wf_write_aligned : (Instr.write (memReq 64) 0 0).wf = true := by decide
theorem test_wf_read_unaligned : (Instr.read (memReq 1)).wf = false := by decide
theorem test_wf_plain_odd_address : (Instr.plain (memReq 3) 0x77 false [0]).wf = false := by decide
theorem test_wf_plain_empty : (Instr.plain (memReq 4) 0x77 false []).wf = false := by decide
theorem test_wf_chunk_rank : (Instr.chunk (chunkReq 64 8192 4)).wf = false := by decide
theorem test_wf_chunk_unaligned : (Instr.chunk (chunkReq 4 0 4)).wf = false := by decide
theorem test_wf_chunk : (Instr.chunk (chunkReq 64 8191 4)).wf = true := by decide
theorem test_wf_window_descriptor : (Instr.window 0 0 (.opn [])).wf = false := by decide
theorem test_wf_window_no_ranks : (Instr.window 0 0 (.rearm 0 0)).wf = false := by decide
theorem test_wf_cycle_words : (Instr.drainComplete 0 0 [.cycle 257 false]).wf = false := by decide
theorem test_wf_register_write_narrow : (Instr.registerWrite .host 0x500000 [1, 2]).wf = false := by decide
theorem test_wf_register_write : (Instr.registerWrite .host 0x500000 [1, 2, 3, 4]).wf = true := by decide
theorem test_wf_snapshot_unaligned : (Instr.counterSnapshotRead 2).wf = false := by decide
theorem test_wf_patrol_outside : (Instr.patrolScrub 0 [(0xC00000000, .clean)]).wf = false := by decide
theorem test_wf_slot_short : (Instr.slotReceived 0 ⟨.clean, 0, []⟩).wf = false := by decide
theorem test_wf_resync_short : (Instr.resync 0 [0]).wf = false := by decide
theorem test_wf_truss_short : (Instr.truss 0 [0]).wf = false := by decide
theorem test_wf_time_field : (Instr.time 0 (frame (2 ^ 67) 0)).wf = false := by decide
theorem test_wf_time_depth : (Instr.time 0 (frame 0 64)).wf = false := by decide
theorem test_wf_header_short : (Instr.headerFlit (.link 0) [0] []).wf = false := by decide
theorem test_wf_twin_root_short : (Instr.twinRootArrival 0 0 [0]).wf = false := by decide
theorem test_wf_bad_width_is_good : (Instr.badWidthAccess ⟨8, 4, true⟩).wf = false := by decide
theorem test_wf_bad_width : (Instr.badWidthAccess ⟨8, 2, true⟩).wf = true := by decide
theorem test_wf_bay_aperture_empty : (Instr.bayApertureAccess 0 true []).wf = false := by decide
theorem test_wf_scrub_outside : (Instr.scrub 0 [(0x10000000000, .clean)]).wf = false := by decide
theorem test_wf_undervoltage : (Instr.inputUndervoltage 400).wf = false := by decide
theorem test_wf_port_speed : (Instr.perstDeassert 7 16 true).wf = false := by decide
theorem test_wf_port_width : (Instr.perstDeassert 6 0 true).wf = false := by decide
theorem test_wf_sensor : (Instr.sensorThresholdCrossing 60).wf = false := by decide

/-! ## Number formats: the spec's example of one scaled step and one drain element, and hand calculations -/

def p0 : Fp := (scaleElem (elemVal 3 0x5A) (scaleVal 0 0x7A)).mul (scaleElem (elemVal 3 0xB4) (scaleVal 0 0x81))
def outE4m3 (a : Nat) : ConvResult := convert (convOf 0x03 0) (fp32.decode a) a 0

/-- 20.0 * 2^-5 times -0.75 * 4 added to 10.0 gives 8.125. -/
theorem test_scaled_step : accAdd 7 0x41200000 p0 = 0x41020000 := by decide +kernel
/-- Stage 2 of the example: 1.0625 + 2^-30 under RTO. -/
theorem test_bias_rounds_to_odd : fp32.round 5 ((fp32.decode 0x3F880000).add 0 (fp32.decode 0x30800000)) = 0x3F880001 := by
  decide +kernel
/-- Stage 4 of the example, and what it would have given without round-to-odd. -/
theorem test_drain_element : (outE4m3 0x3F880001).bits = 0x39 ∧ (outE4m3 0x3F880000).bits = 0x38 := by decide +kernel
/-- The running maximum of the example. -/
theorem test_drain_maximum : (outE4m3 0x3F880001).rep.rmax = 0x3F880001#32 := by decide +kernel
/-- The spec's BF16 reduction: 1.0, 2^-24, 2^-24 and -1.0 sum to +0 in rank order. -/
theorem test_reduction_in_rank_order :
    [0x3F80, 0x3380, 0x3380, 0xBF80].foldl (fun a w => accAdd 7 a (elemVal 5 w)) 0 = 0 := by decide +kernel
/-- Under RTO to an integer 2.5 becomes 3, -2.5 becomes -3 and -4.25 becomes -5 (R89). -/
theorem test_integer_round_to_odd :
    ([0x40200000, 0xC0200000, 0xC0880000].map fun a => (convert (convOf 0x5A 0) (fp32.decode a) a 0).bits)
      = [3, 253, 251] := by decide +kernel
/-- 448 is the largest E4M3 value; a larger one saturates, is counted and sets OVERFLOW (R95, R96). -/
theorem test_saturation : (outE4m3 0x44000000).bits = 0x7E ∧ (outE4m3 0x44000000).rep.sat = 1 ∧
    (outE4m3 0x44000000).rep.overflow = true := by decide +kernel
/-- A NaN of FP32 becomes E4M3's 0x7F. -/
theorem test_nan : (outE4m3 0x7FC00000).bits = 0x7F := by decide +kernel
/-- The check value of CRC-32C over the digits 1 to 9. -/
theorem test_crc32c : crcRun 0x82F63B78 0xFFFFFFFF [49, 50, 51, 52, 53, 54, 55, 56, 57] ^^^ 0xFFFFFFFF = 0xE3069283 := by
  decide +kernel
/-- The known answer of SHAKE256 for no data (FIPS 202's published examples). -/
theorem test_shake256_empty : shake256 [] 4 = [0x46, 0xB9, 0xDD, 0x2B] := by decide +kernel
/-- The known tag of AES-256-GCM for a zero key, a zero nonce and no data (the mode's published test case 13). -/
theorem test_gcm_empty : (gcmSeal (List.replicate 32 0) (List.replicate 12 0) []).2.take 4 = [0x53, 0x0F, 0x8A, 0xFB] := by
  decide +kernel
/-- The tree of 8 ranks: rank 6 under 4, rank 4 above 5 and 6. -/
theorem test_tree_places : treeParent 6 = 4 ∧ treeChildren 4 8 = [5, 6] ∧ treeChildren 0 8 = [1, 2, 4] := by decide +kernel

/-! ## One step of a command -/

/-- A part of the next state. -/
def got {α : Type} (o : Host.Outcome State Fault Refusal) (f : State → α) : Option α :=
  match o with
  | .next t => some (f t)
  | _ => none

/-- A command at the front of the queue, run by step. -/
def stepOf (c : Instr) (s : State) : Host.Outcome State Fault Refusal := step { s with pending := [c] }

theorem test_step_takes_front : got (step { State.reset with pending := [.nop 2, .tset 1] }) (fun t => t.pending) = some [.tset 1] := by
  decide +kernel
theorem test_step_idles : got (step State.reset) (fun t => t.ts.count) = some 1 := by decide +kernel

/-- B[5] = IMM. -/
theorem test_setb : got (stepOf (.setb 2) (running [iw 0x0C [(8, 5), (64, 0x1234)]])) (fun t => (t.pier 2).base 5)
    = some 0x1234 := by decide +kernel
/-- IMM is signed and the sum is modulo 2^64. -/
theorem test_addb_wraps : got (stepOf (.addb 2) (running [iw 0x10 [(8, 5), (14, 6), (32, 0xFFFFFFF0)]]))
    (fun t => (t.pier 2).base 5) = some (2 ^ 64 - 16) := by decide +kernel
/-- TSET writes its counter at dispatch. -/
theorem test_tset : got (stepOf (.tset 2) (running [iw 0x24 [(12, 63), (32, 0xFFFFFFFF)]])) (fun t => (t.pier 2).tcs.get 0 63)
    = some 0xFFFFFFFF := by decide +kernel
/-- A LOOP with COUNT 0 skips its body of two words. -/
theorem test_loop_zero : got (stepOf (.loop 2) (running [iw 0x14 [(64, 1)]])) (fun t => (t.pier 2).run.map fun r => r.pc)
    = some (some 3) := by decide +kernel
/-- A branch of one word back from word 0 leaves the block: 0x0524. -/
theorem test_br_outside : got (stepOf (.br 2) (running [iw 0x18 [(32, 0xFFFFFFFF)]])) (fun t => (t.pier 2).fault.map fun f => f.code)
    = some (some 0x0524) := by decide +kernel
/-- A reserved bit of a control word is rejected with 0x0521. -/
theorem test_nop_reserved_bit : got (stepOf (.nop 2) (running [iw 0x04 [(8, 1)]])) (fun t => (t.pier 2).fault.map fun f => f.code)
    = some (some 0x0521) := by decide +kernel
/-- SETL sets the layer tag. -/
theorem test_setl : got (stepOf (.setl 2) (running [iw 0x30 [(8, 0xABCD)]])) (fun t => (t.pier 2).layer) = some 0xABCD := by
  decide +kernel

/-- A write stores the masked bytes of the atom only. -/
theorem test_memory_write_masked :
    got (stepOf (.write (memReq la0) 0x030201#512 0x5#64) demo) (fun t => (Memory.readList t.mem la0 4))
      = some [1, 0, 3, 0] := by decide +kernel
/-- An odd byte of a longer store keeps the canonical form, and writing zero takes its entry away. -/
theorem test_memory_canonical : Memory.write (Memory.write [] 5 7) 5 0 = [] := by decide

/-- NOP completes with status 0 (R437). -/
theorem test_nop_command : got (stepOf (.nopCommand 5) (cmdAt (tk 0x0001 []) id)) (fun t => (t.mb 5).owner) = some false := by
  decide +kernel

/-- After powerLoss nothing of the running module is left. -/
theorem test_power_loss : got (stepOf .powerLoss demo) (fun t => t.ks.bringup) = some 0 := by decide +kernel

theorem test_reset_memory_is_canonical : State.reset.memOk := by
  show Memory.wf _ = true
  decide +kernel

end Sys2Proof.Tests

section
set_option Elab.async false
set_option maxRecDepth 100000

/-! ### States for the statements on the front end: registers, loops, checks, queued control and descriptor loads -/

namespace Sys2Proof.Tests.FrontEndStates
open Sys2Proof Sys2Proof.Machine Sys2Proof.Tests

def st1 : State := running [iw 0x08 [(8, 77)]]
def st2 : State := running [iw 0x0C [(8, 3), (64, 2^40+5)]]
def st4 : State := runningAt (fun x => { x with bases := [(3, 2^64-1), (4, 7)] }) [iw 0x10 [(8,3), (14,4), (20,1), (21,3)]]
def st5 : State := running [iw 0x2C [(8,2), (32,99)]]
def st6 : State := running [iw 0x30 [(8,500)]]
def st7 : State := running [iw 0x24 [(12,63), (32,2^31)]]
def st9 : State := running [iw 0x14 [(32,0), (64,2)]]
def st13 : State := runningAt (fun x => { x with run := some { demoRun with pc := 1, loops := [{ first := 0, last := 1, left := 2 }] } }) [iw 4 [], iw 0x18 [(32, 2^32 - 1)]]
def st14 : State := runningAt (fun x => { x with run := some { demoRun with pc := 1, loops := [{ first := 0, last := 1, left := 2 }] } }) [iw 4 [], iw 4 []]
def st15 : State := running [iw 0x04 [(8,1)]]
def st16 : State := running [iw 0x08 [(24,1)]]
def st17 : State := running [iw 0x0C [(14,1)]]
def st18 : State := running [iw 0x10 [(64,1)]]
def st19 : State := running [iw 0x14 [(80,1)]]
def st20 : State := running [iw 0x18 [(64,1)]]
def st21 : State := running [iw 0x1C [(64,1)]]
def st22 : State := running [iw 0x20 [(64,1)]]
def st23 : State := running [iw 0x24 [(8,1)]]
def st24 : State := running [iw 0x28 [(64,1)]]
def st25 : State := running [iw 0x2C [(64,1)]]
def st26 : State := running [iw 0x30 [(24,1)]]
def st27 : State := running [iw 0x34 [(64,1)]]
def st29 : State := runningAt (fun x => { x with run := some { demoRun with loops := List.replicate 4 { first := 0, last := 9, left := 2 } } }) [iw 0x14 [(32,3), (64,1)]]
def st30 : State := running [iw 0x18 [(8,5)]]
def st31 : State := running [iw 0x18 [(32,16)]]
def st32 : State := running [iw 0x1C [(8,14)]]
def st33 : State := running [iw 0x20 [(8,15)]]
def st35 : State := running [iw 0x28 [(8,1), (12,3)]]
def st36 : State := running [iw 0x34 [(8,60), (14,20)]]
def st37 : State := running [iw 0x1C [(8,1), (12,5), (32,1)]]
def st38 : State := running [iw 0x20 [(8,12), (12,5), (32,1)]]
def st40 : State := running [iw 0x28 [(8,1), (12,1), (16,5)]]
def st41 : State := running [iw 0x1C [(8,13), (12,5)]]
def st42 : State := running [iw 0x20 [(8,13), (12,5), (32,65535)]]
def st43 : State := running [iw 0x34 [(8,3), (14,1), (24,64 * 16)]]
def st48 : State := queuedAt 12 (entryN (iw 0x20 [(8,12), (12,5), (18,3), (22,1), (32,2)]) 0)
def st49 : State := (queuedAt 5 (entryN (iw 0x1C [(8,5), (12,9), (32,7)]) 0)).updPier 2 fun x => { x with tcs := [(9, 7)] }
def st50 : State := runningAt (fun x => { x with hold := some (.twait 9 7 3), tcs := [(9, 2^31+6)] }) []
def st51 : State := queuedAt 2 (entryN (iw 0x28 [(8,2), (16,5), (32,77)]) 0)
def st52 : State := runningAt (fun x => { x with hold := some (.ldd 62 2 64 0) }) [1,2,3,4,5,6,7,8]
def st53 : State := (queuedAt 5 (entryN (iw 0x1C [(8,5), (12,9), (32,7)]) 0)).updPier 2 fun x => { x with
  tcs := [(9, 7)], arrays := [(5, { Array8.reset with passes := [passY [(12,1)] .ended] })] }
/-- A MARK of kind k at the head of array queue 2, over an array. -/
def markAt (k : Nat) (f : Array8 → Array8) : State :=
  (queuedAt 2 (entryN (iw 0x28 [(8,2), (12,k), (16,5), (32,77)]) 0)).updPier 2 fun x => { x with
    arrays := [(2, f Array8.reset)] }
def inArray (ph : PassPhase) (x : Array8) : Array8 := { x with passes := [passY [(12,1)] ph], lastSer := some 0 }

theorem witness_FrontEndRegisters :
    (∃ (p : Pier), ∃ (s u : State), ∃ (r : RunTask), ∃ (w : Nat), s.atInstr p r w 0 u ∧
    onlyFields w (ctlFields (opc w)) = true ∧ opc w = 0x04) ∧
    (∃ (p : Pier), ∃ (s u : State), ∃ (r : RunTask), ∃ (w : Nat), s.atInstr p r w 0 u ∧
    onlyFields w (ctlFields (opc w)) = true ∧ opc w = 0x08) ∧
    (∃ (p : Pier), ∃ (s u : State), ∃ (r : RunTask), ∃ (w : Nat), s.atInstr p r w 0 u ∧
    onlyFields w (ctlFields (opc w)) = true ∧ opc w = 0x0C) ∧
    (∃ (p : Pier), ∃ (s u : State), ∃ (r : RunTask), ∃ (w : Nat), s.atInstr p r w 0 u ∧
    onlyFields w (ctlFields (opc w)) = true ∧ opc w = 0x10) ∧
    (∃ (p : Pier), ∃ (s u : State), ∃ (r : RunTask), ∃ (w : Nat), s.atInstr p r w 0 u ∧
    onlyFields w (ctlFields (opc w)) = true ∧ opc w = 0x2C) ∧
    (∃ (p : Pier), ∃ (s u : State), ∃ (r : RunTask), ∃ (w : Nat), s.atInstr p r w 0 u ∧
    onlyFields w (ctlFields (opc w)) = true ∧ opc w = 0x30) ∧
    (∃ (p : Pier), ∃ (s u : State), ∃ (r : RunTask), ∃ (w : Nat), s.atInstr p r w 0 u ∧
    onlyFields w (ctlFields (opc w)) = true ∧ opc w = 0x24) :=
  ⟨⟨2, st14,
    ((State.fetchInstr st14 2 { task := { ser := 0, id := 7, start := 0, len := 16 }, pc := 1, loops := [{ first := 0, last := 1, left := 2 }] }).2),
    { task := { ser := 0, id := 7, start := 0, len := 16 }, pc := 1, loops := [{ first := 0, last := 1, left := 2 }] },
    4, by unfold State.atInstr; decide +kernel⟩,
    ⟨2, st1, ((State.fetchInstr st1 2 demoRun).2), demoRun, 19720, by unfold State.atInstr; decide +kernel⟩,
    ⟨2, st2, ((State.fetchInstr st2 2 demoRun).2), demoRun, 20282409603743904144315799044876,
    by unfold State.atInstr; decide +kernel⟩,
    ⟨2, st4, ((State.fetchInstr st4 2 demoRun).2), demoRun, 7406352, by unfold State.atInstr; decide +kernel⟩,
    ⟨2, st5, ((State.fetchInstr st5 2 demoRun).2), demoRun, 425201762860, by unfold State.atInstr; decide +kernel⟩,
    ⟨2, st6, ((State.fetchInstr st6 2 demoRun).2), demoRun, 128048, by unfold State.atInstr; decide +kernel⟩,
    ⟨2, st7, ((State.fetchInstr st7 2 demoRun).2), demoRun, 9223372036855033892, by unfold State.atInstr; decide +kernel⟩⟩

theorem witness_LoopAndBranch :
    (∃ (p : Pier), ∃ (s u : State), ∃ (r : RunTask), ∃ (w : Nat), s.atInstr p r w 0 u ∧
    onlyFields w (ctlFields (opc w)) = true ∧ let last := r.pc + 1 + fld w 64 16; opc w = 0x14 ∧ r.loops.length < 4 ∧
    last < r.task.len ∧ (∀ f ∈ r.loops.head?, last ≤ f.last) ∧ u.splitsPair p r last = false) ∧
    (∃ (p : Pier), ∃ (s u : State), ∃ (r : RunTask), ∃ (w : Nat), s.atInstr p r w 0 u ∧
    onlyFields w (ctlFields (opc w)) = true ∧ let target : Int := (r.pc : Int) + sext (fld w 32 32) 32; opc w = 0x18 ∧
    fld w 8 4 < 5 ∧
    (match r.loops with | f :: _ => (f.first : Int) ≤ target ∧ target ≤ (f.last : Int) | [] => 0 ≤ target ∧ target < (r.task.len : Int))) :=
  ⟨⟨2, st9, ((State.fetchInstr st9 2 demoRun).2), demoRun, 36893488147419103252,
    by unfold State.atInstr; decide +kernel⟩,
    ⟨2, st13,
    ((State.fetchInstr st13 2 { task := { ser := 0, id := 7, start := 0, len := 16 }, pc := 1, loops := [{ first := 0, last := 1, left := 2 }] }).2),
    { task := { ser := 0, id := 7, start := 0, len := 16 }, pc := 1, loops := [{ first := 0, last := 1, left := 2 }] },
    18446744069414584344, by unfold State.atInstr; decide +kernel⟩⟩

theorem witness_ControlChecksFault :
    (∃ (p : Pier), ∃ (s u : State), ∃ (r : RunTask), ∃ (w : Nat), s.atInstr p r w 0 u ∧ (u.pier p).fault = none ∧
    onlyFields w (ctlFields (opc w)) = false ∧ opc w = 0x04) ∧
    (∃ (p : Pier), ∃ (s u : State), ∃ (r : RunTask), ∃ (w : Nat), s.atInstr p r w 0 u ∧ (u.pier p).fault = none ∧
    onlyFields w (ctlFields (opc w)) = false ∧ opc w = 0x08) ∧
    (∃ (p : Pier), ∃ (s u : State), ∃ (r : RunTask), ∃ (w : Nat), s.atInstr p r w 0 u ∧ (u.pier p).fault = none ∧
    onlyFields w (ctlFields (opc w)) = false ∧ opc w = 0x0C) ∧
    (∃ (p : Pier), ∃ (s u : State), ∃ (r : RunTask), ∃ (w : Nat), s.atInstr p r w 0 u ∧ (u.pier p).fault = none ∧
    onlyFields w (ctlFields (opc w)) = false ∧ opc w = 0x10) ∧
    (∃ (p : Pier), ∃ (s u : State), ∃ (r : RunTask), ∃ (w : Nat), s.atInstr p r w 0 u ∧ (u.pier p).fault = none ∧
    onlyFields w (ctlFields (opc w)) = false ∧ opc w = 0x14) ∧
    (∃ (p : Pier), ∃ (s u : State), ∃ (r : RunTask), ∃ (w : Nat), s.atInstr p r w 0 u ∧ (u.pier p).fault = none ∧
    onlyFields w (ctlFields (opc w)) = false ∧ opc w = 0x18) ∧
    (∃ (p : Pier), ∃ (s u : State), ∃ (r : RunTask), ∃ (w : Nat), s.atInstr p r w 0 u ∧ (u.pier p).fault = none ∧
    onlyFields w (ctlFields (opc w)) = false ∧ opc w = 0x1C) ∧
    (∃ (p : Pier), ∃ (s u : State), ∃ (r : RunTask), ∃ (w : Nat), s.atInstr p r w 0 u ∧ (u.pier p).fault = none ∧
    onlyFields w (ctlFields (opc w)) = false ∧ opc w = 0x20) ∧
    (∃ (p : Pier), ∃ (s u : State), ∃ (r : RunTask), ∃ (w : Nat), s.atInstr p r w 0 u ∧ (u.pier p).fault = none ∧
    onlyFields w (ctlFields (opc w)) = false ∧ opc w = 0x24) ∧
    (∃ (p : Pier), ∃ (s u : State), ∃ (r : RunTask), ∃ (w : Nat), s.atInstr p r w 0 u ∧ (u.pier p).fault = none ∧
    onlyFields w (ctlFields (opc w)) = false ∧ opc w = 0x28) ∧
    (∃ (p : Pier), ∃ (s u : State), ∃ (r : RunTask), ∃ (w : Nat), s.atInstr p r w 0 u ∧ (u.pier p).fault = none ∧
    onlyFields w (ctlFields (opc w)) = false ∧ opc w = 0x2C) ∧
    (∃ (p : Pier), ∃ (s u : State), ∃ (r : RunTask), ∃ (w : Nat), s.atInstr p r w 0 u ∧ (u.pier p).fault = none ∧
    onlyFields w (ctlFields (opc w)) = false ∧ opc w = 0x30) ∧
    (∃ (p : Pier), ∃ (s u : State), ∃ (r : RunTask), ∃ (w : Nat), s.atInstr p r w 0 u ∧ (u.pier p).fault = none ∧
    onlyFields w (ctlFields (opc w)) = false ∧ opc w = 0x34) ∧
    (∃ (p : Pier), ∃ (s u : State), ∃ (r : RunTask), ∃ (w : Nat), s.atInstr p r w 0 u ∧ (u.pier p).fault = none ∧
    onlyFields w (ctlFields (opc w)) = true ∧ opc w = 0x14 ∧ (4 ≤ r.loops.length ∨ r.task.len ≤ r.pc + 1 + fld w 64 16)) ∧
    (∃ (p : Pier), ∃ (s u : State), ∃ (r : RunTask), ∃ (w : Nat), s.atInstr p r w 0 u ∧ (u.pier p).fault = none ∧
    onlyFields w (ctlFields (opc w)) = true ∧ opc w = 0x18 ∧ 5 ≤ fld w 8 4) ∧
    (∃ (p : Pier), ∃ (s u : State), ∃ (r : RunTask), ∃ (w : Nat), s.atInstr p r w 0 u ∧ (u.pier p).fault = none ∧
    onlyFields w (ctlFields (opc w)) = true ∧ opc w = 0x18 ∧ fld w 8 4 < 5 ∧ r.loops = [] ∧
    (r.task.len : Int) ≤ (r.pc : Int) + sext (fld w 32 32) 32) ∧
    (∃ (p : Pier), ∃ (s u : State), ∃ (r : RunTask), ∃ (w : Nat), s.atInstr p r w 0 u ∧ (u.pier p).fault = none ∧
    onlyFields w (ctlFields (opc w)) = true ∧ opc w = 0x1C ∧ 14 ≤ fld w 8 4) ∧
    (∃ (p : Pier), ∃ (s u : State), ∃ (r : RunTask), ∃ (w : Nat), s.atInstr p r w 0 u ∧ (u.pier p).fault = none ∧
    onlyFields w (ctlFields (opc w)) = true ∧ opc w = 0x20 ∧ 14 ≤ fld w 8 4) ∧
    (∃ (p : Pier), ∃ (s u : State), ∃ (r : RunTask), ∃ (w : Nat), s.atInstr p r w 0 u ∧ (u.pier p).fault = none ∧
    onlyFields w (ctlFields (opc w)) = true ∧ opc w = 0x28 ∧ (14 ≤ fld w 8 4 ∨ fld w 12 2 = 3)) ∧
    (∃ (p : Pier), ∃ (s u : State), ∃ (r : RunTask), ∃ (w : Nat), s.atInstr p r w 0 u ∧ (u.pier p).fault = none ∧
    onlyFields w (ctlFields (opc w)) = true ∧ opc w = 0x34 ∧ 64 < fld w 8 6 + fld w 14 6 + 1) :=
  ⟨⟨2, st15, ((State.fetchInstr st15 2 demoRun).2), demoRun, 260, by unfold State.atInstr; decide +kernel⟩,
    ⟨2, st16, ((State.fetchInstr st16 2 demoRun).2), demoRun, 16777224, by unfold State.atInstr; decide +kernel⟩,
    ⟨2, st17, ((State.fetchInstr st17 2 demoRun).2), demoRun, 16396, by unfold State.atInstr; decide +kernel⟩,
    ⟨2, st18, ((State.fetchInstr st18 2 demoRun).2), demoRun, 18446744073709551632,
    by unfold State.atInstr; decide +kernel⟩,
    ⟨2, st19, ((State.fetchInstr st19 2 demoRun).2), demoRun, 1208925819614629174706196,
    by unfold State.atInstr; decide +kernel⟩,
    ⟨2, st20, ((State.fetchInstr st20 2 demoRun).2), demoRun, 18446744073709551640,
    by unfold State.atInstr; decide +kernel⟩,
    ⟨2, st21, ((State.fetchInstr st21 2 demoRun).2), demoRun, 18446744073709551644,
    by unfold State.atInstr; decide +kernel⟩,
    ⟨2, st22, ((State.fetchInstr st22 2 demoRun).2), demoRun, 18446744073709551648,
    by unfold State.atInstr; decide +kernel⟩,
    ⟨2, st23, ((State.fetchInstr st23 2 demoRun).2), demoRun, 292, by unfold State.atInstr; decide +kernel⟩,
    ⟨2, st24, ((State.fetchInstr st24 2 demoRun).2), demoRun, 18446744073709551656,
    by unfold State.atInstr; decide +kernel⟩,
    ⟨2, st25, ((State.fetchInstr st25 2 demoRun).2), demoRun, 18446744073709551660,
    by unfold State.atInstr; decide +kernel⟩,
    ⟨2, st26, ((State.fetchInstr st26 2 demoRun).2), demoRun, 16777264, by unfold State.atInstr; decide +kernel⟩,
    ⟨2, st27, ((State.fetchInstr st27 2 demoRun).2), demoRun, 18446744073709551668,
    by unfold State.atInstr; decide +kernel⟩,
    ⟨2, st29,
    ((State.fetchInstr st29 2 { task := { ser := 0, id := 7, start := 0, len := 16 }, pc := 0, loops := [{ first := 0, last := 9, left := 2 }, { first := 0, last := 9, left := 2 }, { first := 0, last := 9, left := 2 }, { first := 0, last := 9, left := 2 }] }).2),
    { task := { ser := 0, id := 7, start := 0, len := 16 }, pc := 0, loops := [{ first := 0, last := 9, left := 2 }, { first := 0, last := 9, left := 2 }, { first := 0, last := 9, left := 2 }, { first := 0, last := 9, left := 2 }] },
    18446744086594453524, by unfold State.atInstr; decide +kernel⟩,
    ⟨2, st30, ((State.fetchInstr st30 2 demoRun).2), demoRun, 1304, by unfold State.atInstr; decide +kernel⟩,
    ⟨2, st31, ((State.fetchInstr st31 2 demoRun).2), demoRun, 68719476760, by unfold State.atInstr; decide +kernel⟩,
    ⟨2, st32, ((State.fetchInstr st32 2 demoRun).2), demoRun, 3612, by unfold State.atInstr; decide +kernel⟩,
    ⟨2, st33, ((State.fetchInstr st33 2 demoRun).2), demoRun, 3872, by unfold State.atInstr; decide +kernel⟩,
    ⟨2, st35, ((State.fetchInstr st35 2 demoRun).2), demoRun, 12584, by unfold State.atInstr; decide +kernel⟩,
    ⟨2, st36, ((State.fetchInstr st36 2 demoRun).2), demoRun, 343092, by unfold State.atInstr; decide +kernel⟩⟩

theorem witness_QueuedControl :
    (∃ (p : Pier), ∃ (s u : State), ∃ (r : RunTask), ∃ (w : Nat), s.atInstr p r w 0 u ∧
    onlyFields w (ctlFields (opc w)) = true ∧ let q := fld w 8 4; opc w = 0x1C ∧ q < 13) ∧
    (∃ (p : Pier), ∃ (s u : State), ∃ (r : RunTask), ∃ (w : Nat), s.atInstr p r w 0 u ∧
    onlyFields w (ctlFields (opc w)) = true ∧ let q := fld w 8 4; opc w = 0x20 ∧ q < 13) ∧
    (∃ (p : Pier), ∃ (s u : State), ∃ (r : RunTask), ∃ (w : Nat), s.atInstr p r w 0 u ∧
    onlyFields w (ctlFields (opc w)) = true ∧ let q := fld w 8 4; opc w = 0x28 ∧ q < 13 ∧
    (fld w 12 2 = 0 ∨ (q < 8 ∧ fld w 12 2 < 3))) ∧
    (∃ (p : Pier), ∃ (s u : State), ∃ (r : RunTask), ∃ (w : Nat), s.atInstr p r w 0 u ∧
    onlyFields w (ctlFields (opc w)) = true ∧ let q := fld w 8 4; opc w = 0x1C ∧ q = 13) ∧
    (∃ (p : Pier), ∃ (s u : State), ∃ (r : RunTask), ∃ (w : Nat), s.atInstr p r w 0 u ∧
    onlyFields w (ctlFields (opc w)) = true ∧ let q := fld w 8 4; opc w = 0x20 ∧ q = 13 ∧ bit w 22 = false) ∧
    (∃ (p : Pier), ∃ (q : QSel), ∃ (s : State), ∃ (e : Entry), s.atHead p q 0x20 e ∧ (s.pier p).queueIdle q = true) ∧
    (∃ (p : Pier), ∃ (q : QSel), ∃ (s : State), ∃ (e : Entry), s.atHead p q 0x1C e ∧
    tcHolds (s.tc p (fld e.w0.toNat 12 6)) (fld e.w0.toNat 32 32) = true ∧ (s.pier p).queueIdle q = true) ∧
    (∃ (p : Pier), ∃ (q : QSel), ∃ (s : State), ∃ (e : Entry), s.atHead p q 0x1C e ∧
    tcHolds (s.tc p (fld e.w0.toNat 12 6)) (fld e.w0.toNat 32 32) = true ∧ (s.pier p).queueIdle q = false) ∧
    (∃ (p : Pier), ∃ (s : State), ∃ (tc v word : Nat), (s.pier p).hold = some (.twait tc v word) ∧
    tcHolds (s.tc p tc) v = true) ∧
    (∃ (p : Pier), ∃ (q : QSel), ∃ (s : State), ∃ (e : Entry), s.atHead p q 0x28 e ∧ fld e.w0.toNat 12 2 = 0 ∧
    (s.pier p).queueIdle q = true) ∧
    (∃ (p : Pier), ∃ (q : QSel), ∃ (s : State), ∃ (e : Entry), s.atHead p q 0x28 e ∧ fld e.w0.toNat 12 2 = 1 ∧
    (s.pier p).queueIdle q = false) ∧
    (∃ (p : Pier), ∃ (q : QSel), ∃ (s : State), ∃ (e : Entry), s.atHead p q 0x28 e ∧
    let x := (s.pier p).arrays.get Array8.reset q; fld e.w0.toNat 12 2 = 2 ∧ x.lastSer = some e.ser ∧
    (x.passes.any fun y => y.phase = .entering) = true) ∧
    (∃ (p : Pier), ∃ (q : QSel), ∃ (s : State), ∃ (e : Entry), s.atHead p q 0x28 e ∧
    let x := (s.pier p).arrays.get Array8.reset q; fld e.w0.toNat 12 2 = 2 ∧ x.lastSer = some e.ser ∧
    (x.passes.any fun y => y.phase = .entering) = false ∧ x.lastEnd = some (0, 44)) ∧
    (∃ (p : Pier), ∃ (q : QSel), ∃ (s : State), ∃ (e : Entry), s.atHead p q 0x28 e ∧
    let x := (s.pier p).arrays.get Array8.reset q; fld e.w0.toNat 12 2 = 2 ∧ x.lastSer = some e.ser ∧
    (x.passes.any fun y => y.phase = .entering) = false ∧ x.lastEnd = none) ∧
    (∃ (p : Pier), ∃ (q : QSel), ∃ (s : State), ∃ (e : Entry), s.atHead p q 0x28 e ∧
    let x := (s.pier p).arrays.get Array8.reset q; fld e.w0.toNat 12 2 = 2 ∧ x.lastSer ≠ some e.ser) ∧
    (∃ (p : Pier), ∃ (s u : State), ∃ (r : RunTask), ∃ (w : Nat), s.atInstr p r w 0 u ∧
    onlyFields w (ctlFields 0x34) = true ∧ opc w = 0x34 ∧ fld w 8 6 + fld w 14 6 < 64) ∧
    (∃ (p : Pier), ∃ (s u : State), ∃ (r : RunTask), ∃ (first count a word : Nat), ∃ (d : List Byte),
    (s.pier p).hold = some (.ldd first count a word) ∧ (s.pier p).run = some r ∧
    s.readVa (some (p.val, r.task.id)) (s.pier p).tag reachMemory 0x052B a (32 * count) = (.ok d, u) ∧ d.length = 32 * count) :=
  ⟨⟨2, st37, ((State.fetchInstr st37 2 demoRun).2), demoRun, 4294988060, by unfold State.atInstr; decide +kernel⟩,
    ⟨2, st38, ((State.fetchInstr st38 2 demoRun).2), demoRun, 4294990880, by unfold State.atInstr; decide +kernel⟩,
    ⟨2, st40, ((State.fetchInstr st40 2 demoRun).2), demoRun, 332072, by unfold State.atInstr; decide +kernel⟩,
    ⟨2, st41, ((State.fetchInstr st41 2 demoRun).2), demoRun, 23836, by unfold State.atInstr; decide +kernel⟩,
    ⟨2, st42, ((State.fetchInstr st42 2 demoRun).2), demoRun, 281470681767200, by unfold State.atInstr; decide +kernel⟩,
    ⟨2, 12, st48, _, ⟨rfl, rfl⟩, by decide +kernel⟩,
    ⟨2, 5, st49, _, ⟨rfl, rfl⟩, by decide +kernel⟩,
    ⟨2, 5, st53, _, ⟨rfl, rfl⟩, by decide +kernel⟩,
    ⟨2, st50, 9, 7, 3, by decide +kernel⟩,
    ⟨2, 2, st51, _, ⟨rfl, rfl⟩, by decide +kernel⟩,
    ⟨2, 2, markAt 1 (inArray .ended), _, ⟨rfl, rfl⟩, by decide +kernel⟩,
    ⟨2, 2, markAt 2 (inArray .entering), _, ⟨rfl, rfl⟩, by decide +kernel⟩,
    ⟨2, 2, markAt 2 fun x => { inArray .ended x with lastEnd := some (0, 44) }, _, ⟨rfl, rfl⟩, by decide +kernel⟩,
    ⟨2, 2, markAt 2 (inArray .ended), _, ⟨rfl, rfl⟩, by decide +kernel⟩,
    ⟨2, 2, markAt 2 id, _, ⟨rfl, rfl⟩, by decide +kernel⟩,
    ⟨2, st43, ((State.fetchInstr st43 2 demoRun).2), demoRun, 17179886388, by unfold State.atInstr; decide +kernel⟩,
    ⟨2, st52, _, demoRun, 62, 2, 64, 0,
    ((toBytes 0x8000000000000000000000000000000070000000000000000000000000000000600000000000000000000000000000005 64)),
    by decide +kernel, by decide +kernel, pair_of_fst (by decide +kernel), by decide +kernel⟩⟩

end Sys2Proof.Tests.FrontEndStates

/-! ### States for the statements on tasks, counters and the sequencer -/

namespace Sys2Proof.Tests.TaskStates
open Sys2Proof Sys2Proof.Machine Sys2Proof.Tests

def gs0 : GaugeSample := { no := 0, full := true, tag := 0, array := 0, cls := 0, layer := 0, integer := true, sums := [5#32], products := [[Fp.ofInt 2, Fp.ofInt 3]], signature := 0, thr := 0, mhz := 0, droop := 0 }
def gs1 : GaugeSample := { gs0 with sums := [7#32] }
def st2 : State := demoX fun x => { x with taskQueue := List.replicate 8 demoTask }
def st5 : State := demoX fun x => { x with taskQueue := [{ demoTask with len := 65537 }] }
def st8 : State := demoX fun x => { x with seq := .faulting, started := [{ started 3 0 with ended := true, status := some 0x0521 }, started 4 0], fault := some { ser := 3, id := 7, code := 0x0521, qsel := 13, word := 5, detail := [1,2], bits := [(psqOff 2 + 4, 1)] } }
def st9 : State := demoX fun x => { x with seq := .faulting, started := [{ started 3 0 with ended := true }, started 4 0], fault := some { ser := 4, id := 7, code := 0x0521, qsel := 13, word := 5, detail := [1,2], bits := [] } }
def st11 : State := demoX fun x => { x with seq := .halting }
def st12 : State := demoX fun x => { x with seq := .faulted }
def st13 : State := demoX fun x => { x with seq := .running, started := [started 3 2], taskQueue := [demoTask] }
def st14 : State := demoX fun x => { x with gaugeBuf := some gs0 }
def st15 : State := demoX fun x => { x with gaugeBuf := some gs1 }
def st17 : State := demoX fun x => { x with gaugeBuf := some { gs0 with full := false } }
def st18 : State := demoX fun x => { x with
  started := [{ started 3 0 with ended := true, stamp := some 99 }] }
def tally (src tag : Nat) : Tally := { src := src, dst := 2, tag := tag, tc := 63, inc := -3 }
def st16 : State := { demo with tallies := [tally 35 tg, tally 5 9], dies := [(3, { DieState.reset with fenced := some 9 })] }

theorem witness_TaskLife :
    (∃ (p : Pier), ∃ (s : State), let x := s.pier p; x.taskQueue.length < 8) ∧
    (∃ (p : Pier), ∃ (s : State), let x := s.pier p; 8 ≤ x.taskQueue.length) ∧
    (∃ (p : Pier), ∃ (s : State), ∃ (k : Task), ∃ (rest : List Task), (s.pier p).taskQueue = k :: rest ∧
    (s.pier p).run = none ∧ (s.reg (psqOff p)).getLsbD 0 = true ∧ (s.reg (psqOff p)).getLsbD 1 = false ∧
    ((s.pier p).seq = .idle ∨ (s.pier p).seq = .running) ∧ 1 ≤ k.len ∧ k.len ≤ 65536 ∧ k.start % 16 = 0) ∧
    (∃ (p : Pier), ∃ (s : State), ∃ (k : Task), ∃ (rest : List Task), (s.pier p).taskQueue = k :: rest ∧
    (s.pier p).run = none ∧ (s.reg (psqOff p)).getLsbD 0 = true ∧ (s.reg (psqOff p)).getLsbD 1 = false ∧
    ((s.pier p).seq = .idle ∨ (s.pier p).seq = .running) ∧ (k.len = 0 ∨ 65536 < k.len ∨ k.start % 16 ≠ 0) ∧
    (s.pier p).fault = none) ∧
    (∃ (p : Pier), ∃ (s : State), ∃ (k : StartedTask), ∃ (rest : List StartedTask), (s.pier p).started = k :: rest ∧
    k.ended = true ∧ k.left = 0 ∧ (∀ f ∈ (s.pier p).fault, k.ser < f.ser) ∧ s.ks.fence = none ∧ s.ks.fences = [] ∧
    s.ks.restarting = false ∧ k.stamp = none) ∧
    (∃ (p : Pier), ∃ (s : State), ∃ (k : StartedTask), ∃ (rest : List StartedTask), (s.pier p).started = k :: rest ∧
    k.ended = true ∧ k.left = 0 ∧ (∀ f ∈ (s.pier p).fault, k.ser < f.ser) ∧ s.ks.fence = none ∧ s.ks.fences = [] ∧
    s.ks.restarting = false ∧ k.stamp = some 99) :=
  ⟨⟨15, st16, by decide +kernel⟩,
    ⟨2, st2, by decide +kernel⟩,
    ⟨2, st13, { ser := 0, id := 7, start := 0, len := 16 }, [], by decide +kernel⟩,
    ⟨2, st5, { ser := 0, id := 7, start := 0, len := 65537 }, [], by decide +kernel⟩,
    ⟨2, st9, _, _, rfl, by decide +kernel⟩,
    ⟨2, st18, _, _, rfl, by decide +kernel⟩⟩

theorem witness_FaultTaken :
    (∃ (p : Pier), ∃ (s : State), ∃ (f : SeqFault), (s.pier p).seq = .faulting ∧ (s.pier p).fault = some f ∧
    (∀ k ∈ (s.pier p).started, k.left = 0 ∧ f.ser ≤ k.ser) ∧ s.ks.fence = none ∧ s.ks.fences = [] ∧
    s.ks.restarting = false ∧ (∀ b ∈ f.bits, b.1 ≠ psqOff p + 0xC ∧ b.1 ≠ psqOff p + 0x10 ∧ b.1 ≠ psqOff p + 0x14)) ∧
    (∃ (p : Pier), ∃ (s : State), (s.pier p).seq ≠ .faulting ∨ (s.pier p).fault = none) ∧
    (∃ (p : Pier), ∃ (s : State), ∃ (f : SeqFault), (s.pier p).seq = .faulting ∧ (s.pier p).fault = some f ∧
    (∃ k ∈ (s.pier p).started, k.left ≠ 0 ∨ k.ser < f.ser)) :=
  ⟨⟨2, st8, _, rfl, rfl, by decide +kernel⟩, ⟨2, st11, by decide +kernel⟩, ⟨2, st9, _, rfl, rfl, by decide +kernel⟩⟩

theorem witness_ControlAndCounters :
    (∃ (p : Pier), ∃ (s : State), (s.pier p).seq = .halting ∧ (s.pier p).hold = none ∧
    (∀ q ∈ (s.pier p).queues, q.2 = [])) ∧
    (∃ (p : Pier), ∃ (s : State), (s.pier p).seq = .faulted) ∧
    (∃ (p : Pier), ∃ (s : State), ∃ g, (s.pier p).gaugeBuf = some g ∧ g.full = true ∧
    let bad := ((List.range g.products.length).map g.column).filter fun c => c.miss; bad = []) ∧
    (∃ (p : Pier), ∃ (s : State), ∃ g, (s.pier p).gaugeBuf = some g ∧ g.full = true ∧
    let bad := ((List.range g.products.length).map g.column).filter fun c => c.miss; bad ≠ []) ∧
    (∃ (p : Pier), ∃ (s : State), ∀ g ∈ (s.pier p).gaugeBuf, g.full = false) :=
  ⟨⟨2, st11, by decide +kernel⟩,
    ⟨2, st12, by decide +kernel⟩,
    ⟨2, st14, _, rfl, by decide +kernel⟩,
    ⟨2, st15, _, rfl, by decide +kernel⟩,
    ⟨2, st17, by decide +kernel⟩⟩

theorem witness_AbortTasks :
    (∃ (p : Pier), ∃ (s : State), (s.pier p).started = [] ∧ (s.pier p).taskQueue = []) ∧
    (∃ (p : Pier), ∃ (s : State), (s.pier p).seq = .running ∧ (s.pier p).fault = none ∧
    (∀ k ∈ (s.pier p).started, k.status = none) ∧ (s.pier p).started ++ (s.pier p).taskQueue.map (endedTask 0) ≠ [] ∧
    (s.pier p).started.Pairwise (fun a b => a.ser < b.ser)) :=
  ⟨⟨15, st16, by decide +kernel⟩,
    ⟨2, st13, by decide +kernel⟩⟩

theorem witness_ContextTagAndTallies :
    (∃ (p : Pier), ∃ (s : State), (s.pier p).seq = .idle ∧ (s.pier p).taskQueue = []) ∧
    (∃ (p : Pier), ∃ (s : State), ((s.pier p).seq ≠ .idle ∨ (s.pier p).taskQueue ≠ [])) ∧
    (∃ (p : Pier), ∃ (src : Fin 36), ∃ (s : State), ∃ (k : Tally), (s.tallies.find? (fun k => k.src = src.val ∧ k.dst = p.val) = some k) ∧
    (∀ d ∈ k.cross, (s.die d).fenced ≠ some k.tag) ∧ k.tag = (s.pier p).tag) ∧
    (∃ (p : Pier), ∃ (src : Fin 36), ∃ (s : State), ∃ (k : Tally), (s.tallies.find? (fun k => k.src = src.val ∧ k.dst = p.val) = some k) ∧
    (∀ d ∈ k.cross, (s.die d).fenced ≠ some k.tag) ∧ k.tag ≠ (s.pier p).tag) ∧
    (∃ (p : Pier), ∃ (src : Fin 36), ∃ (s : State), ∃ (k : Tally), (s.tallies.find? (fun k => k.src = src.val ∧ k.dst = p.val) = some k) ∧
    ∃ d ∈ k.cross, (s.die d).fenced = some k.tag) :=
  ⟨⟨15, st16, by decide +kernel⟩,
    ⟨2, st13, by decide +kernel⟩,
    ⟨2, 35, st16, tally 35 tg, by decide +kernel⟩,
    ⟨2, 5, { st16 with dies := [] }, tally 5 9, by decide +kernel⟩,
    ⟨2, 5, st16, tally 5 9, by decide +kernel⟩⟩

end Sys2Proof.Tests.TaskStates

/-! ### States for the statements on the matrix arrays -/

namespace Sys2Proof.Tests.PassStates
open Sys2Proof Sys2Proof.Machine Sys2Proof.Tests

def repE : Entry := { passE [(12,1), (11,1)] with desc := BitVec.ofNat 256 7, addrs := [2^22, 2^22+1024, 0, 2^22 + 4096, 0, 0] }
def st0 : State := runningAt (fun x => { x with descs := [(5, some 0x300000000000000000000000)] }) [passW [(12,1)], passW1]
def st4 : State := running [iw 0x40 [(8,2), (16,9), (20,5)], passW1]
def st5 : State := running [passW [(12,0)], passW1]
def st6 : State := runningAt (fun x => { x with arrOn := 13 }) [passW [(12,1)], passW1]
def st7 : State := runningAt (fun x => { x with descs := [(0, some (BitVec.ofNat 256 (7 + 8 * 2 ^ 128)))] })
  [passW [(12,1), (11,1)], passW1]
def st1 : State := st0.updPier 2 fun x => { x with queues := [(2, List.replicate 16 (passE [(12,1)]))] }
def tileRow : TileRow := { no := 9, k := 0, row := [3], scale := [] }
/-- A pass that entered `age` cycles ago. -/
def older (l : List (Nat × Nat)) (ph : PassPhase) (age : Nat) : PassRun := { passY l ph with age := age, entered := 1 }
/-- Pass 9 at the head of its queue over these passes, its tile row 0 launched. -/
def admitAt (ys : List PassRun) : State :=
  passQueued { passE [(12,1)] with no := 9 } ys fun x => { x with tiles := [(9, [tileRow])] }
def st13 : State := withPasses [passY [(12,1), (122,63)] .retired] id
def st14 : State := withPasses [older [(12,1)] .entering 1] id
/-- The oldest pass with its last row out; a drain-out whose descriptor has step 1. -/
def doneY (l : List (Nat × Nat)) (att : Nat) (ovf : Bool) : PassRun :=
  { older l .ended 600 with
    entry := { passE l with desc := BitVec.ofNat 256 (7 + 2 ^ 192) }, out := 1, attempts := att,
    report := { ConvReport.reset with overflow := ovf } }
def st16 : State := withPasses [{ passY [(12,1), (11,1), (120,0)] .repeatDue with entry := repE }] fun x => { x with acc := [(0, 7), (1, 9)] }
def flightY : PassRun := { older [(12,1)] .ended 600 with flight := [[[5]]] }
def st17 : State := withPasses [flightY] fun x => { x with tiles := [(0, [{ tileRow with no := 0 }])] }
def st18 : State := withPasses [{ passY [(12,1), (11,1)] .repeating with entry := repE }] fun x => { x with acc := [(0, 7)] }
def st19 : State := withPasses [flightY] fun x => { x with inputJoint := [{ no := 0, m := 0, runs := [] }] }

theorem witness_PassDispatch :
    (∃ (p : Pier), ∃ (s u : State), ∃ (r : RunTask), ∃ (w0 w1 : Nat), s.atInstr p r w0 w1 u ∧ opc w0 = 0x40 ∧
    let x := u.pier p; let e := entryOf r w0 w1; let d := x.descs.get none (fld w1 2 6); bit x.arrOn (e.passArray / 2) = true ∧
    e.passCheck (d.map fun b => b.toNat) = none ∧ (x.queue e.passArray).length < 16) ∧
    (∃ (p : Pier), ∃ (s u : State), ∃ (r : RunTask), ∃ (w0 w1 : Nat), s.atInstr p r w0 w1 u ∧ opc w0 = 0x40 ∧
    let x := u.pier p; let e := entryOf r w0 w1; let d := x.descs.get none (fld w1 2 6); bit x.arrOn (e.passArray / 2) = true ∧
    e.passCheck (d.map fun b => b.toNat) = none ∧ 16 ≤ (x.queue e.passArray).length) ∧
    (∃ (p : Pier), ∃ (s u : State), ∃ (r : RunTask), ∃ (w0 w1 : Nat), s.atInstr p r w0 w1 u ∧ opc w0 = 0x40 ∧
    let x := u.pier p; let e := entryOf r w0 w1; let d := x.descs.get none (fld w1 2 6); ∃ c, bit x.arrOn (e.passArray / 2) = true ∧
    e.passCheck (d.map fun b => b.toNat) = some c ∧ x.fault = none) ∧
    (∃ (p : Pier), ∃ (s u : State), ∃ (r : RunTask), ∃ (w0 w1 : Nat), s.atInstr p r w0 w1 u ∧ opc w0 = 0x40 ∧
    let x := u.pier p; let e := entryOf r w0 w1; bit x.arrOn (e.passArray / 2) = false ∧ x.fault = none) ∧
    (∃ (e : Entry), (e.accMode = 3 ∨ e.statSrc = 3 ∨ e.gauge = 3)) ∧
    (∃ (e : Entry), ∃ (d : Option Nat), (¬(e.accMode = 3 ∨ e.statSrc = 3 ∨ e.gauge = 3)) ∧ e.drainOut = true ∧ d = none) ∧
    (∃ (e : Entry), ∃ (d : Option Nat), (¬(e.accMode = 3 ∨ e.statSrc = 3 ∨ e.gauge = 3)) ∧
    (e.drainOut = true → d ≠ none) ∧ passClass e.statFmt e.strmFmt = none) ∧
    (∃ (e : Entry), ∃ (d : Option Nat), (¬(e.accMode = 3 ∨ e.statSrc = 3 ∨ e.gauge = 3)) ∧
    (e.drainOut = true → d ≠ none) ∧ passClass e.statFmt e.strmFmt ≠ none ∧
    (scaleCheck e.statSdesc e.statFmt ≠ none ∨ scaleCheck e.strmSdesc e.strmFmt ≠ none)) ∧
    (∃ (e : Entry), ∃ (d : Option Nat), (¬(e.accMode = 3 ∨ e.statSrc = 3 ∨ e.gauge = 3)) ∧
    (e.drainOut = true → d ≠ none) ∧ passClass e.statFmt e.strmFmt ≠ none ∧ scaleCheck e.statSdesc e.statFmt = none ∧
    scaleCheck e.strmSdesc e.strmFmt = none ∧
    ((e.accMode = 0 ∧ e.drainOut = false) ∨ (e.accMode ≠ 0 ∧ (if e.cls = 4 then 2048 else 4096) < e.accBase + e.mRows))) ∧
    (∃ (e : Entry), ∃ (d : Option Nat), (¬(e.accMode = 3 ∨ e.statSrc = 3 ∨ e.gauge = 3)) ∧
    (e.drainOut = true → d ≠ none) ∧ passClass e.statFmt e.strmFmt ≠ none ∧ scaleCheck e.statSdesc e.statFmt = none ∧
    scaleCheck e.strmSdesc e.strmFmt = none ∧ e.drainOut = false ∧ e.accMode ≠ 0 ∧
    e.accBase + e.mRows ≤ (if e.cls = 4 then 2048 else 4096)) ∧
    (∃ (p : Pier), ∃ (s u : State), ∃ (r : RunTask), ∃ (w0 w1 : Nat), s.atInstr p r w0 w1 u ∧ opc w0 = 0x40 ∧
    let x := u.pier p; let e := entryOf r w0 w1; bit x.arrOn (e.passArray / 2) = true ∧
    (x.queue e.passArray).length < 16 ∧ e.passGood ((x.descs.get none (fld w1 2 6)).map fun b => b.toNat)) :=
  ⟨⟨2, st0, ((State.fetchInstr st0 2 demoRun).2), demoRun, 1267650600228229682971689947712, 16781315,
    by unfold State.atInstr; decide +kernel⟩,
    ⟨2, st1, ((State.fetchInstr st1 2 demoRun).2), demoRun, 1267650600228229682971689947712, 16781315,
    by unfold State.atInstr; decide +kernel⟩,
    ⟨2, st5, ((State.fetchInstr st5 2 demoRun).2), demoRun, 1267650600228229682971689943616, 16781315,
    by unfold State.atInstr; decide +kernel, by decide +kernel, 546, by decide +kernel⟩,
    ⟨2, st6, ((State.fetchInstr st6 2 demoRun).2), demoRun, 1267650600228229682971689947712, 16781315,
    by unfold State.atInstr; decide +kernel⟩,
    ⟨{ ser := 0, word := 0, w0 := 0x3000010000000000001000000990240, w1 := 0x1001003, addrs := [4194304, 4195328], aux := 0, desc := 0, layer := 0, sampled := false, sampleRow := 0, signature := 0, gaugeT := 0, mhz := 0, droop := 0, farAsked := none, no := 0 },
    by decide +kernel⟩,
    ⟨{ ser := 0, word := 0, w0 := 0x10000000000001000000990a40, w1 := 0x1001003, addrs := [4194304, 4195328], aux := 0, desc := 0, layer := 0, sampled := false, sampleRow := 0, signature := 0, gaugeT := 0, mhz := 0, droop := 0, farAsked := none, no := 0 },
    none, by decide +kernel⟩,
    ⟨{ ser := 0, word := 0, w0 := 0x590040, w1 := 0x1001003, addrs := [4194304, 4195328], aux := 0, desc := 0, layer := 0, sampled := false, sampleRow := 0, signature := 0, gaugeT := 0, mhz := 0, droop := 0, farAsked := none, no := 0 },
    (some 268435456), by decide +kernel⟩,
    ⟨{ ser := 0, word := 0, w0 := 0x10000000000001002000991240, w1 := 0x1001003, addrs := [4194304, 4195328], aux := 0, desc := 0, layer := 0, sampled := false, sampleRow := 0, signature := 0, gaugeT := 0, mhz := 0, droop := 0, farAsked := none, no := 0 },
    (some 268435456), by decide +kernel⟩,
    ⟨{ ser := 0, word := 0, w0 := 0x10000fff000501000000991240, w1 := 0x1001003, addrs := [4194304, 4195328], aux := 0, desc := 0, layer := 0, sampled := false, sampleRow := 0, signature := 0, gaugeT := 0, mhz := 0, droop := 0, farAsked := none, no := 0 },
    (some 268435456), by decide +kernel⟩,
    ⟨{ ser := 0, word := 0, w0 := 0x10000fff000001000000991240, w1 := 0x1001003, addrs := [4194304, 4195328], aux := 0, desc := 0, layer := 0, sampled := false, sampleRow := 0, signature := 0, gaugeT := 0, mhz := 0, droop := 0, farAsked := none, no := 0 },
    (some 268435456), by decide +kernel⟩,
    ⟨2, st7, ((State.fetchInstr st7 2 demoRun).2), demoRun, passW [(12,1), (11,1)], passW1,
    by unfold State.atInstr; decide +kernel, head3 (by decide +kernel)
      (head4 (by decide +kernel) (head4 (by decide +kernel)
        fun _ => ⟨7 + 8 * 2 ^ 128, by decide +kernel, by unfold Entry.drainGood; decide +kernel⟩))⟩⟩

theorem witness_PassClasses :
    ∃ (p : Pier), ∃ (s u : State), ∃ (r : RunTask), ∃ (w0 w1 : Nat), s.atInstr p r w0 w1 u ∧ opc w0 = 0x40 ∧
    let x := u.pier p; let e := entryOf r w0 w1; bit x.arrOn (e.passArray / 2) = true ∧ x.fault = none ∧ e.accMode ≠ 3 ∧
    e.statSrc ≠ 3 ∧ e.gauge ≠ 3 ∧ (e.drainOut = true → x.descs.get none (fld w1 2 6) ≠ none) ∧
    passClass e.statFmt e.strmFmt = none :=
  ⟨2, st4, ((State.fetchInstr st4 2 demoRun).2), demoRun, 5833280, 16781315, by unfold State.atInstr; decide +kernel⟩

theorem witness_PassAdmission :
    (∃ (p : Pier), ∃ (a : Arr), ∃ (steps : List ArrayStep), ∃ (s : State), (s.arrayRun p a steps).canAdmit p a ≠ none) ∧
    (∃ (p : Pier), ∃ (a : Arr), ∃ (steps : List ArrayStep), ∃ (s : State), (s.arrayRun p a steps).canAdmit p a = none) ∧
    (∃ (p : Pier), ∃ (a : Arr), ∃ (s : State), ∃ (e : Entry), s.atHead p a 0x40 e ∧
    let x := (s.pier p).array a; s.arrayShut p a = false ∧ (∀ y ∈ x.lastIn,
      y.phase ≠ .entering ∧ (y.dead = true ∨ y.entry.slots ≤ y.front) ∧ y.age % cyclesPerSlot y.entry.cls = 0) ∧
    x.inCore.length < (if e.cls = 0 then 7 else 4) ∧ (¬∃ y ∈ x.lastIn, 2 * y.age < 192 * halfRowTime e.cls) ∧
    (¬∃ y ∈ x.passes, y.entry.drainOut = true ∧ y.phase ≠ .retired ∧ y.dead = false ∧ y.entry.overlaps e = true) ∧
    0 < x.launched e.no) ∧
    (∃ (p : Pier), ∃ (a : Arr), ∃ (s : State), ∃ (e : Entry), s.atHead p a 0x40 e ∧
    let x := (s.pier p).array a; s.arrayShut p a = false ∧ (∀ y ∈ x.lastIn,
      y.phase ≠ .entering ∧ (y.dead = true ∨ y.entry.slots ≤ y.front) ∧ y.age % cyclesPerSlot y.entry.cls = 0) ∧
    x.inCore.length < (if e.cls = 0 then 7 else 4) ∧ (¬∃ y ∈ x.lastIn, 2 * y.age < 192 * halfRowTime e.cls) ∧
    (¬∃ y ∈ x.passes, y.entry.drainOut = true ∧ y.phase ≠ .retired ∧ y.dead = false ∧ y.entry.overlaps e = true) ∧
    x.launched e.no = 0) ∧
    (∃ (p : Pier), ∃ (a : Arr), ∃ (s : State), ∃ (e : Entry), s.atHead p a 0x40 e ∧
    let x := (s.pier p).array a; s.arrayShut p a = false ∧ (∀ y ∈ x.lastIn,
      y.phase ≠ .entering ∧ (y.dead = true ∨ y.entry.slots ≤ y.front) ∧ y.age % cyclesPerSlot y.entry.cls = 0) ∧
    (if e.cls = 0 then 7 else 4) ≤ x.inCore.length) ∧
    (∃ (p : Pier), ∃ (a : Arr), ∃ (s : State), ∃ (e : Entry), s.atHead p a 0x40 e ∧
    let x := (s.pier p).array a; s.arrayShut p a = false ∧ (∀ y ∈ x.lastIn,
      y.phase ≠ .entering ∧ (y.dead = true ∨ y.entry.slots ≤ y.front) ∧ y.age % cyclesPerSlot y.entry.cls = 0) ∧
    x.inCore.length < (if e.cls = 0 then 7 else 4) ∧ ∃ y ∈ x.lastIn, 2 * y.age < 192 * halfRowTime e.cls) ∧
    (∃ (p : Pier), ∃ (a : Arr), ∃ (s : State), ∃ (e : Entry), s.atHead p a 0x40 e ∧
    let x := (s.pier p).array a; s.arrayShut p a = false ∧ (∀ y ∈ x.lastIn,
      y.phase ≠ .entering ∧ (y.dead = true ∨ y.entry.slots ≤ y.front) ∧ y.age % cyclesPerSlot y.entry.cls = 0) ∧
    x.inCore.length < (if e.cls = 0 then 7 else 4) ∧ (¬∃ y ∈ x.lastIn, 2 * y.age < 192 * halfRowTime e.cls) ∧
    ∃ y ∈ x.passes, y.entry.drainOut = true ∧ y.phase ≠ .retired ∧ y.dead = false ∧ y.entry.overlaps e = true) ∧
    (∃ (p : Pier), ∃ (a : Arr), ∃ (s : State), ∃ y ∈ ((s.pier p).array a).passes, y.phase = .repeatDue) ∧
    (∃ (p : Pier), ∃ (a : Arr), ∃ (s : State), (s.reg (marOff p a)).getLsbD 0 = false) :=
  ⟨⟨2, 2, [.cycle 0 false], admitAt [], by decide +kernel⟩,
    ⟨2, 2, [], admitAt [older [(12,1)] .ended 95], by decide +kernel⟩,
    ⟨2, 2, admitAt [older [(12,1)] .ended 96], _, ⟨rfl, rfl⟩, by decide +kernel⟩,
    ⟨2, 2, passQueued { passE [(12,1)] with no := 9 } [] id, _, ⟨rfl, rfl⟩, by decide +kernel⟩,
    ⟨2, 2, admitAt (List.replicate 7 (older [(12,1)] .ended 600)), _, ⟨rfl, rfl⟩, by decide +kernel⟩,
    ⟨2, 2, admitAt [older [(12,1)] .ended 95], _, ⟨rfl, rfl⟩, by decide +kernel⟩,
    ⟨2, 2, admitAt [older [(12,1), (11,1)] .ended 600], _, ⟨rfl, rfl⟩, by decide +kernel⟩,
    ⟨2, 2, st16, by decide +kernel⟩, ⟨2, 3, st16, by decide +kernel⟩⟩

/-- The weight feeder reads the tile's row, the launch bus writes it in the next cycle, and the pass is admitted (R47, R48,
R59). -/
theorem test_admission_after_launch : got (stepOf (.passAdmission 2 2 [.weight, .cycle 0 false])
    (passQueued { passE [(12,1)] with no := 9 } [] id)) (fun t => (((t.pier 2).array 2).passes.length, (t.pier 2).queue 2))
      = some (1, []) := by decide +kernel

theorem witness_PassEndAndCompletion :
    (∃ (p : Pier), ∃ (a : Arr), ∃ (steps : List ArrayStep), ∃ (s : State), (((s.arrayRun p a steps).pier p).array a).endDue ≠ none) ∧
    (∃ (p : Pier), ∃ (a : Arr), ∃ (steps : List ArrayStep), ∃ (s : State), (((s.arrayRun p a steps).pier p).array a).endDue = none) ∧
    (∃ (p : Pier), ∃ (a : Arr), ∃ (steps : List ArrayStep), ∃ (s u : State), ∃ (y : PassRun), ∃ (l : List PassRun),
    let v := s.arrayRun p a steps; let x := (v.pier p).array a; x.passes = y :: l ∧ v.writeFactor p y = (none, u) ∧
    y.phase = .retired ∧ (∀ q ∈ x.drainJoint, q.no ≠ y.entry.no)) ∧
    (∃ (p : Pier), ∃ (a : Arr), ∃ (steps : List ArrayStep), ∃ (s : State), (((s.arrayRun p a steps).pier p).array a).passes = []) ∧
    (∃ (p : Pier), ∃ (a : Arr), ∃ (steps : List ArrayStep), ∃ (s : State), ∃ (y : PassRun), ∃ (l : List PassRun),
    (((s.arrayRun p a steps).pier p).array a).passes = y :: l ∧ y.phase ≠ .retired) :=
  ⟨⟨2, 2, [], st14, by decide +kernel⟩, ⟨2, 2, [], st13, by decide +kernel⟩,
    ⟨2, 2, [], st13, _, _, _, rfl, pair_of_fst (by decide +kernel), by decide +kernel⟩,
    ⟨2, 3, [], st13, by decide +kernel⟩, ⟨2, 2, [], st14, _, _, rfl, by decide +kernel⟩⟩

theorem witness_DrainCompleteAndRepeat :
    (∃ (p : Pier), ∃ (a : Arr), ∃ (steps : List ArrayStep), ∃ (s : State), ∃ y ∈ (((s.arrayRun p a steps).pier p).array a).drainDue,
    y.dead = false ∧ y.entry.drainOut = true ∧ y.report.overflow = true ∧ ddStep y.entry.desc.toNat ≠ 0 ∧ y.attempts < 2) ∧
    (∃ (p : Pier), ∃ (a : Arr), ∃ (steps : List ArrayStep), ∃ (s : State), ∃ y ∈ (((s.arrayRun p a steps).pier p).array a).drainDue,
    y.dead = false ∧ y.entry.drainOut = true ∧ y.report.overflow = true ∧ y.attempts = 2) ∧
    (∃ (p : Pier), ∃ (a : Arr), ∃ (steps : List ArrayStep), ∃ (s : State), ∃ y ∈ (((s.arrayRun p a steps).pier p).array a).drainDue,
    y.dead = false ∧ y.entry.drainOut = true ∧ y.report.overflow = false) ∧
    (∃ (p : Pier), ∃ (a : Arr), ∃ (steps : List ArrayStep), ∃ (s : State), ∃ y ∈ (((s.arrayRun p a steps).pier p).array a).drainDue,
    y.dead = false ∧ y.entry.drainOut = false) ∧
    (∃ (p : Pier), ∃ (a : Arr), ∃ (steps : List ArrayStep), ∃ (s : State), ∃ y ∈ (((s.arrayRun p a steps).pier p).array a).drainDue,
    y.dead = true) ∧
    (∃ (p : Pier), ∃ (a : Arr), ∃ (steps : List ArrayStep), ∃ (s : State), (((s.arrayRun p a steps).pier p).array a).drainDue = none) ∧
    (∃ (p : Pier), ∃ (a : Arr), ∃ (steps : List ArrayStep), ∃ (s : State), (((s.arrayRun p a steps).pier p).array a).reissueDue ≠ none) ∧
    (∃ (p : Pier), ∃ (a : Arr), ∃ (steps : List ArrayStep), ∃ (s : State), (((s.arrayRun p a steps).pier p).array a).reissueDue = none) ∧
    (∃ (p : Pier), ∃ (a : Arr), ∃ (s : State), ∃ (y : PassRun), let x := (s.pier p).array a; y.entry.accMode = 1 ∧
    y.entry.drainOut = false ∧ y.drainOnly = false ∧ (x.sumsOf y).length ≤ 256 ∧ 1 < (x.sumsOf y).length) ∧
    (∃ (p : Pier), ∃ (s u : State), ∃ (y : PassRun), ∃ (b : List Nat), s.biasOf p y = (.ok b, u) ∧ y.drainOnly = true) ∧
    (∃ (p : Pier), ∃ (a : Arr), ∃ (s : State), ∃ (y : PassRun), ∃ (j : Joint), ∃ (no : Nat), (s.pier p).fault = none ∧
    s.sweep p a = s ∧ (s.pier p).jointOwner a j = some no ∧
    (((s.pier p).array a).passes.find? fun z => z.entry.no = no && !z.dead) = some y) ∧
    (∃ (p : Pier), ∃ (a : Arr), ∃ (s : State), ∃ (y : PassRun), ∃ (no row : Nat), ∃ (l : List (Nat × Nat)),
    ((s.pier p).array a).accReads = (no, row) :: l ∧ (s.pier p).fault = none ∧
    (((s.pier p).array a).passes.find? fun z => z.entry.no = no && !z.dead) = some y) :=
  ⟨⟨2, 2, [], withPasses [doneY [(12,1), (11,1)] 0 true] id, by decide +kernel⟩,
    ⟨2, 2, [], withPasses [doneY [(12,1), (11,1)] 2 true] id, by decide +kernel⟩,
    ⟨2, 2, [], withPasses [doneY [(12,1), (11,1)] 0 false] id, by decide +kernel⟩,
    ⟨2, 2, [], withPasses [doneY [(12,1)] 0 false] id, by decide +kernel⟩,
    ⟨2, 2, [], withPasses [{ doneY [(12,1)] 0 false with dead := true }] id, by decide +kernel⟩,
    ⟨2, 2, [], st14, by decide +kernel⟩, ⟨2, 2, [], st16, by decide +kernel⟩, ⟨2, 2, [], st14, by decide +kernel⟩,
    ⟨2, 2, st17, flightY, by decide +kernel⟩,
    ⟨2, st18, _, { passY [(12,1), (11,1)] .repeating with entry := repE }, _, pair_of_fst rfl, by decide +kernel⟩,
    ⟨2, 2, st19, flightY, .input, 0, by decide +kernel⟩,
    ⟨2, 2, st18, _, _, _, _, rfl, by decide +kernel, rfl⟩⟩

/-- 5 times the tile row 3, 0 of an INT4 pass with two columns. -/
theorem test_pass_sums : ((st17.pier 2).array 2).sumsOf flightY = [15, 0] := by decide +kernel

end Sys2Proof.Tests.PassStates

/-! ### States for the statements on the vector engine -/

namespace Sys2Proof.Tests.VectorStates
open Sys2Proof Sys2Proof.Machine Sys2Proof.Tests

def st0 : State := running [iw 0x80 [(8,1),(13,2),(18,3),(23,4),(32,2)]]
def st2 : State := running [iw 0x84 [(8,1),(13,2),(18,3),(32,2)]]
def st4 : State := running [iw 0x88 [(8,1),(13,2),(18,3),(32,2),(43,5)]]
def st6 : State := running [iw 0x8C [(8,1),(13,2),(18,3),(23,4),(32,2),(55,4)]]
def st8 : State := running [iw 0x90 [(8,1),(13,2),(32,2),(55,0)]]
def st10 : State := running [iw 0x94 [(8,1),(13,2),(32,2),(47,1)]]
def st11 : State := vecAt (iw 0x94 [(8,1),(13,2),(32,2),(47,1)]) 0 []
def st12 : State := running [iw 0x98 [(8,1),(13,2),(32,2),(47,1),(55,1)]]
def st14 : State := running [iw 0x9C [(8,1),(13,2),(32,3),(47,1),(55,0)]]
def st16 : State := running [iw 0xA0 [(8,1),(28,2),(32,3),(47,9),(64,65536)], 3]
def st19 : State := running [iw 0xA4 [(13,2),(32,2),(47,7),(64,65536), (29,1),(12,2)], 3]
def st20 : State := running [iw 0xA8 [(13,2),(32,2),(47,3),(64,65536),(88,65552)], iw 3 [(8,1)]]
def st22 : State := running [iw 0xB0 [(8,7),(32,65536),(56,65552),(80,65568),(104,65584)], 3]
def st38 : State := vecAt (iw 0x90 [(8,1),(13,2),(32,2),(55,0), (28,1)]) 0 []
def st39 : State := vecAt (iw 0x80 [(8,1),(13,2),(18,3),(23,4),(32,2), (28,2)]) 0 []
def st41 : State := vecAt (iw 0x88 [(8,1),(13,2),(18,3),(32,2),(43,5), (28,2)]) 0 []
def st44 : State := vecAt (iw 0x9C [(8,1),(13,2),(32,3),(47,1),(55,0), (28,2)]) 0 []
def st45 : State := vecAt (iw 0x84 [(8,1), (13,2), (32,2), (46,1), (64,0x40000000)]) 0 []
def st46 : State := vecAt (iw 0x98 [(8,1), (13,2), (32,3), (47,4), (55,255), (46,1), (64,5)]) 0 []
def st47 : State := vecAt (iw 0x8C [(8,1), (13,2), (18,3), (32,2), (55,2)]) 0 []
def st49 : State := vecAt (iw 0xA0 [(8,1), (28,2), (32,3), (47,9)]) 3 [2^22]
def st50 : State := vecAt (iw 0xA4 [(13,2), (32,2), (47,7)]) 3 [2^22]
def st51 : State := vecAt (iw 0xA8 [(13,2), (32,2), (47,3)]) (iw 3 [(8,1)]) [2^22, 2^22 + 256]
def st52 : State := vecAt (iw 0xB0 [(8,7)]) 3 [2^22 + 1024, 2^22 + 2048, 2^22 + 4096, 2^22 + 8192, 0]
def st53 : State := st0.updPier 2 fun x => { x with queues := [(8, List.replicate 64 (entryN 0x80 0))] }
def st54 : State := running [iw 0x80 [(8,1),(13,2),(18,3),(23,4),(32,2),(64,1)]]
def st55 : State := st54.updPier 2 fun x => { x with vecOn := false }
def st56 : State := st0.updPier 2 fun x => { x with vecOn := false }
def st57 : State := vecAt (iw 0x8C [(8,1), (13,2), (18,2), (32,2), (55,5)]) 0 []
def far0 : Nat := 2 ^ 41
/-- The fault of an access to far0, which nothing maps. -/
def farFault : MemFault := { code := 0x0302, va := far0, la := 0 }
def st58 : State := vecAt (iw 0xA0 [(8,1), (28,2), (32,3), (47,9)]) 3 [far0]
def st59 : State := vecAt (iw 0xA0 [(8,1), (28,2), (32,3), (47,9), (51,1)]) 3 [2^22, 2^22 + 64]
def st60 : State := vecAt (iw 0xA4 [(13,2), (32,2), (47,7)]) 3 [far0]
def st61 : State := vecAt (iw 0xA8 [(13,2), (32,2), (47,3)]) (iw 3 [(8,1)]) [far0, 2^22 + 256]
def optParamsBad : List Byte := bs 64 [(40, 1000)]
def st62 : State := { st52 with mem := Memory.writeList [] (2 ^ 40 + 2 ^ 29 + 8192) optParamsBad }
def st63 : State := vecAt (iw 0xB0 [(8,7)]) 3 [2^22 + 1024, 2^22 + 2048, far0, 2^22 + 8192, 0]
/-- Register 2 holds an uncorrectable word. -/
def badIssue : VIssue := { VIssue.clean with bad := some 2 }

/-- Pier p dispatches vector instruction w0 w1 of opcode o. -/
def vecAtInstr (p : Pier) (s u : State) (r : RunTask) (w0 w1 o : Nat) : Prop := s.atInstr p r w0 w1 u ∧ opc w0 = o
/-- A vector instruction of opcode o is the head of VQ. -/
def vecHead (p : Pier) (s : State) (e : Entry) (o : Nat) : Prop :=
  s.atHead p 8 o e ∧ (s.pier p).vecZeroing = false ∧ s.ltOn = false
/-- It is the head of VQ and its issue finds nothing. -/
def vecIssue (p : Pier) (s : State) (e : Entry) (o : Nat) (iss : VIssue) : Prop :=
  vecHead p s e o ∧ iss.corrected = 0 ∧ iss.bad = none

theorem witness_VectorDispatch :
    (∃ (p : Pier), ∃ (s u : State), ∃ (r : RunTask), ∃ (w0 w1 : Nat), vecAtInstr p s u r w0 w1 0x80 ∧
    (u.pier p).vecOn = true ∧ vecCheck w0 w1 = none ∧ ((u.pier p).queue 8).length < 64) ∧
    (∃ (p : Pier), ∃ (s u : State), ∃ (r : RunTask), ∃ (w0 w1 : Nat), vecAtInstr p s u r w0 w1 0x84 ∧
    (u.pier p).vecOn = true ∧ vecCheck w0 w1 = none ∧ ((u.pier p).queue 8).length < 64) ∧
    (∃ (p : Pier), ∃ (s u : State), ∃ (r : RunTask), ∃ (w0 w1 : Nat), vecAtInstr p s u r w0 w1 0x88 ∧
    (u.pier p).vecOn = true ∧ vecCheck w0 w1 = none ∧ ((u.pier p).queue 8).length < 64) ∧
    (∃ (p : Pier), ∃ (s u : State), ∃ (r : RunTask), ∃ (w0 w1 : Nat), vecAtInstr p s u r w0 w1 0x8C ∧
    (u.pier p).vecOn = true ∧ vecCheck w0 w1 = none ∧ ((u.pier p).queue 8).length < 64) ∧
    (∃ (p : Pier), ∃ (s u : State), ∃ (r : RunTask), ∃ (w0 w1 : Nat), vecAtInstr p s u r w0 w1 0x90 ∧
    (u.pier p).vecOn = true ∧ vecCheck w0 w1 = none ∧ ((u.pier p).queue 8).length < 64) ∧
    (∃ (p : Pier), ∃ (s u : State), ∃ (r : RunTask), ∃ (w0 w1 : Nat), vecAtInstr p s u r w0 w1 0x94 ∧
    (u.pier p).vecOn = true ∧ vecCheck w0 w1 = none ∧ ((u.pier p).queue 8).length < 64) ∧
    (∃ (p : Pier), ∃ (s u : State), ∃ (r : RunTask), ∃ (w0 w1 : Nat), vecAtInstr p s u r w0 w1 0x98 ∧
    (u.pier p).vecOn = true ∧ vecCheck w0 w1 = none ∧ ((u.pier p).queue 8).length < 64) ∧
    (∃ (p : Pier), ∃ (s u : State), ∃ (r : RunTask), ∃ (w0 w1 : Nat), vecAtInstr p s u r w0 w1 0x9C ∧
    (u.pier p).vecOn = true ∧ vecCheck w0 w1 = none ∧ ((u.pier p).queue 8).length < 64) ∧
    (∃ (p : Pier), ∃ (s u : State), ∃ (r : RunTask), ∃ (w0 w1 : Nat), vecAtInstr p s u r w0 w1 0xA0 ∧
    (u.pier p).vecOn = true ∧ vecCheck w0 w1 = none ∧ ((u.pier p).queue 8).length < 64) ∧
    (∃ (p : Pier), ∃ (s u : State), ∃ (r : RunTask), ∃ (w0 w1 : Nat), vecAtInstr p s u r w0 w1 0xA4 ∧
    (u.pier p).vecOn = true ∧ vecCheck w0 w1 = none ∧ ((u.pier p).queue 8).length < 64) ∧
    (∃ (p : Pier), ∃ (s u : State), ∃ (r : RunTask), ∃ (w0 w1 : Nat), vecAtInstr p s u r w0 w1 0xA8 ∧
    (u.pier p).vecOn = true ∧ vecCheck w0 w1 = none ∧ ((u.pier p).queue 8).length < 64) ∧
    (∃ (p : Pier), ∃ (s u : State), ∃ (r : RunTask), ∃ (w0 w1 : Nat), vecAtInstr p s u r w0 w1 0xB0 ∧
    (u.pier p).vecOn = true ∧ vecCheck w0 w1 = none ∧ ((u.pier p).queue 8).length < 64) ∧
    (∃ (p : Pier), ∃ (s u : State), ∃ (r : RunTask), ∃ (w0 w1 : Nat), vecAtInstr p s u r w0 w1 0x80 ∧
    (u.pier p).vecOn = true ∧ vecCheck w0 w1 = none ∧ 64 ≤ ((u.pier p).queue 8).length) ∧
    (∃ (p : Pier), ∃ (s u : State), ∃ (r : RunTask), ∃ (w0 w1 : Nat), vecAtInstr p s u r w0 w1 0x80 ∧
    ∃ code, (u.pier p).vecOn = true ∧ vecCheck w0 w1 = some code ∧ (u.pier p).fault = none) ∧
    (∃ (p : Pier), ∃ (s u : State), ∃ (r : RunTask), ∃ (w0 w1 : Nat), vecAtInstr p s u r w0 w1 0x80 ∧
    (u.pier p).vecOn = false ∧ (u.pier p).fault = none ∧ vecCheck w0 w1 = some 0x0521) ∧
    (∃ (p : Pier), ∃ (s u : State), ∃ (r : RunTask), ∃ (w0 w1 : Nat), vecAtInstr p s u r w0 w1 0x80 ∧
    (u.pier p).vecOn = false ∧ (u.pier p).fault = none ∧ vecCheck w0 w1 ≠ some 0x0521) :=
  ⟨⟨2, st0, ((State.fetchInstr st0 2 demoRun).2), demoRun, 8624292224, 0, ⟨by unfold State.atInstr; decide +kernel, by decide⟩,
    by decide +kernel⟩,
    ⟨2, st2, ((State.fetchInstr st2 2 demoRun).2), demoRun, 8590737796, 0, ⟨by unfold State.atInstr; decide +kernel, by decide⟩,
    by decide +kernel⟩,
    ⟨2, st4, ((State.fetchInstr st4 2 demoRun).2), demoRun, 43989055848840, 0, ⟨by unfold State.atInstr; decide +kernel, by decide⟩,
    by decide +kernel⟩,
    ⟨2, st6, ((State.fetchInstr st6 2 demoRun).2), demoRun, 144115196700148108, 0, ⟨by unfold State.atInstr; decide +kernel, by decide⟩,
    by decide +kernel⟩,
    ⟨2, st8, ((State.fetchInstr st8 2 demoRun).2), demoRun, 8589951376, 0, ⟨by unfold State.atInstr; decide +kernel, by decide⟩,
    by decide +kernel⟩,
    ⟨2, st10, ((State.fetchInstr st10 2 demoRun).2), demoRun, 140746078306708, 0, ⟨by unfold State.atInstr; decide +kernel, by decide⟩,
    by decide +kernel⟩,
    ⟨2, st12, ((State.fetchInstr st12 2 demoRun).2), demoRun, 36169543097270680, 0, ⟨by unfold State.atInstr; decide +kernel, by decide⟩,
    by decide +kernel⟩,
    ⟨2, st14, ((State.fetchInstr st14 2 demoRun).2), demoRun, 140750373274012, 0, ⟨by unfold State.atInstr; decide +kernel, by decide⟩,
    by decide +kernel⟩,
    ⟨2, st16, ((State.fetchInstr st16 2 demoRun).2), demoRun, 1208925820881279991677344, 3, ⟨by unfold State.atInstr; decide +kernel, by decide⟩,
    by decide +kernel⟩,
    ⟨2, st19, ((State.fetchInstr st19 2 demoRun).2), demoRun, 1208925820599800720023716, 3, ⟨by unfold State.atInstr; decide +kernel, by decide⟩,
    by decide +kernel⟩,
    ⟨2, st20, ((State.fetchInstr st20 2 demoRun).2), demoRun, 20287362572734631981897077506216, 259, ⟨by unfold State.atInstr; decide +kernel, by decide⟩,
    by decide +kernel⟩,
    ⟨2, st22, ((State.fetchInstr st22 2 demoRun).2), demoRun, 1330201630712744017095848104705394608, 3, ⟨by unfold State.atInstr; decide +kernel, by decide⟩,
    by decide +kernel⟩,
    ⟨2, st53, ((State.fetchInstr st53 2 demoRun).2), demoRun, 8624292224, 0, ⟨by unfold State.atInstr; decide +kernel, by decide⟩,
    by decide +kernel⟩,
    ⟨2, st54, ((State.fetchInstr st54 2 demoRun).2), demoRun, 18446744082333843840, 0, ⟨by unfold State.atInstr; decide +kernel, by decide⟩,
    0x0521, by decide +kernel⟩,
    ⟨2, st55, ((State.fetchInstr st55 2 demoRun).2), demoRun, 18446744082333843840, 0, ⟨by unfold State.atInstr; decide +kernel, by decide⟩,
    by decide +kernel⟩,
    ⟨2, st56, ((State.fetchInstr st56 2 demoRun).2), demoRun, 8624292224, 0, ⟨by unfold State.atInstr; decide +kernel, by decide⟩,
    by decide +kernel⟩⟩

theorem witness_VectorArithmetic :
    (∃ (p : Pier), ∃ (s : State), ∃ (e : Entry), ∃ (iss : VIssue), vecHead p s e 0x80 ∧
    (∀ r ∈ iss.bad, r.toNat ∉ vReads e.w0.toNat) ∧ vVL e.w0.toNat ≤ (if vType e.w0.toNat = 1 then 1024 else 2048)) ∧
    (∃ (p : Pier), ∃ (s : State), ∃ (e : Entry), ∃ (iss : VIssue), ∃ (r : BitVec 5), vecHead p s e 0x80 ∧ iss.bad = some r ∧
    r.toNat ∈ vReads e.w0.toNat ∧ (s.pier p).fault = none) ∧
    (∃ (p : Pier), ∃ (s : State), ∃ (e : Entry), ∃ (iss : VIssue), vecHead p s e 0x84 ∧
    (∀ r ∈ iss.bad, r.toNat ∉ vReads e.w0.toNat) ∧ vVL e.w0.toNat ≤ (if vType e.w0.toNat = 1 then 1024 else 2048)) ∧
    (∃ (p : Pier), ∃ (s : State), ∃ (e : Entry), ∃ (iss : VIssue), ∃ (r : BitVec 5), vecHead p s e 0x84 ∧ iss.bad = some r ∧
    r.toNat ∈ vReads e.w0.toNat ∧ (s.pier p).fault = none) ∧
    (∃ (p : Pier), ∃ (s : State), ∃ (e : Entry), ∃ (iss : VIssue), vecHead p s e 0x88 ∧
    (∀ r ∈ iss.bad, r.toNat ∉ vReads e.w0.toNat) ∧ vVL e.w0.toNat ≤ (if vType e.w0.toNat = 1 then 1024 else 2048)) ∧
    (∃ (p : Pier), ∃ (s : State), ∃ (e : Entry), ∃ (iss : VIssue), ∃ (r : BitVec 5), vecHead p s e 0x88 ∧ iss.bad = some r ∧
    r.toNat ∈ vReads e.w0.toNat ∧ (s.pier p).fault = none) ∧
    (∃ (p : Pier), ∃ (s : State), ∃ (e : Entry), ∃ (iss : VIssue), vecHead p s e 0x8C ∧ vSub e.w0.toNat < 5 ∧
    (∀ r ∈ iss.bad, r.toNat ∉ vReads e.w0.toNat) ∧ vVL e.w0.toNat ≤ (if vType e.w0.toNat = 1 then 1024 else 2048)) ∧
    (∃ (p : Pier), ∃ (s : State), ∃ (e : Entry), ∃ (iss : VIssue), ∃ (r : BitVec 5), vecHead p s e 0x8C ∧ iss.bad = some r ∧
    r.toNat ∈ vReads e.w0.toNat ∧ (s.pier p).fault = none) ∧
    (∃ (p : Pier), ∃ (s : State), ∃ (e : Entry), ∃ (iss : VIssue), vecHead p s e 0x8C ∧ vSub e.w0.toNat = 5 ∧
    (∀ r ∈ iss.bad, r.toNat ∉ vReads e.w0.toNat) ∧ vVL e.w0.toNat ≤ (if vType e.w0.toNat = 1 then 1024 else 2048)) ∧
    (∃ (p : Pier), ∃ (s : State), ∃ (e : Entry), ∃ (iss : VIssue), vecHead p s e 0x90 ∧
    (∀ r ∈ iss.bad, r.toNat ∉ vReads e.w0.toNat) ∧ vVL e.w0.toNat ≤ (if vType e.w0.toNat = 1 then 1024 else 2048)) ∧
    (∃ (p : Pier), ∃ (s : State), ∃ (e : Entry), ∃ (iss : VIssue), ∃ (r : BitVec 5), vecHead p s e 0x90 ∧ iss.bad = some r ∧
    r.toNat ∈ vReads e.w0.toNat ∧ (s.pier p).fault = none) ∧
    (∃ (p : Pier), ∃ (s : State), ∃ (e : Entry), ∃ (iss : VIssue), vecHead p s e 0x94 ∧
    (∀ r ∈ iss.bad, r.toNat ∉ vReads e.w0.toNat) ∧ vVL e.w0.toNat ≤ (if vType e.w0.toNat = 1 then 1024 else 2048)) ∧
    (∃ (p : Pier), ∃ (s : State), ∃ (e : Entry), ∃ (iss : VIssue), ∃ (r : BitVec 5), vecHead p s e 0x94 ∧ iss.bad = some r ∧
    r.toNat ∈ vReads e.w0.toNat ∧ (s.pier p).fault = none) ∧
    (∃ (p : Pier), ∃ (s : State), ∃ (e : Entry), ∃ (iss : VIssue), vecHead p s e 0x98 ∧
    (∀ r ∈ iss.bad, r.toNat ∉ vReads e.w0.toNat) ∧ vVL e.w0.toNat ≤ (if vType e.w0.toNat = 1 then 1024 else 2048)) ∧
    (∃ (p : Pier), ∃ (s : State), ∃ (e : Entry), ∃ (iss : VIssue), ∃ (r : BitVec 5), vecHead p s e 0x98 ∧ iss.bad = some r ∧
    r.toNat ∈ vReads e.w0.toNat ∧ (s.pier p).fault = none) ∧
    (∃ (p : Pier), ∃ (s : State), ∃ (e : Entry), ∃ (iss : VIssue), vecHead p s e 0x9C ∧ 1 ≤ fld (vFunc e.w0.toNat) 0 4 ∧
    (∀ r ∈ iss.bad, r.toNat ∉ vReads e.w0.toNat) ∧ vVL e.w0.toNat ≤ (if vType e.w0.toNat = 1 then 1024 else 2048)) ∧
    (∃ (p : Pier), ∃ (s : State), ∃ (e : Entry), ∃ (iss : VIssue), ∃ (r : BitVec 5), vecHead p s e 0x9C ∧ iss.bad = some r ∧
    r.toNat ∈ vReads e.w0.toNat ∧ (s.pier p).fault = none) :=
  ⟨⟨2, st39, _, .clean, ⟨⟨rfl, rfl⟩, by decide +kernel⟩, by decide +kernel⟩,
    ⟨2, st39, _, badIssue, 2, ⟨⟨rfl, rfl⟩, by decide +kernel⟩, by decide +kernel⟩,
    ⟨2, st45, _, .clean, ⟨⟨rfl, rfl⟩, by decide +kernel⟩, by decide +kernel⟩,
    ⟨2, st45, _, badIssue, 2, ⟨⟨rfl, rfl⟩, by decide +kernel⟩, by decide +kernel⟩,
    ⟨2, st41, _, .clean, ⟨⟨rfl, rfl⟩, by decide +kernel⟩, by decide +kernel⟩,
    ⟨2, st41, _, badIssue, 2, ⟨⟨rfl, rfl⟩, by decide +kernel⟩, by decide +kernel⟩,
    ⟨2, st47, _, .clean, ⟨⟨rfl, rfl⟩, by decide +kernel⟩, by decide +kernel⟩,
    ⟨2, st47, _, badIssue, 2, ⟨⟨rfl, rfl⟩, by decide +kernel⟩, by decide +kernel⟩,
    ⟨2, st57, _, .clean, ⟨⟨rfl, rfl⟩, by decide +kernel⟩, by decide +kernel⟩,
    ⟨2, st38, _, .clean, ⟨⟨rfl, rfl⟩, by decide +kernel⟩, by decide +kernel⟩,
    ⟨2, st38, _, badIssue, 2, ⟨⟨rfl, rfl⟩, by decide +kernel⟩, by decide +kernel⟩,
    ⟨2, st11, _, .clean, ⟨⟨rfl, rfl⟩, by decide +kernel⟩, by decide +kernel⟩,
    ⟨2, st11, _, badIssue, 2, ⟨⟨rfl, rfl⟩, by decide +kernel⟩, by decide +kernel⟩,
    ⟨2, st46, _, .clean, ⟨⟨rfl, rfl⟩, by decide +kernel⟩, by decide +kernel⟩,
    ⟨2, st46, _, badIssue, 2, ⟨⟨rfl, rfl⟩, by decide +kernel⟩, by decide +kernel⟩,
    ⟨2, st44, _, .clean, ⟨⟨rfl, rfl⟩, by decide +kernel⟩, by decide +kernel⟩,
    ⟨2, st44, _, badIssue, 2, ⟨⟨rfl, rfl⟩, by decide +kernel⟩, by decide +kernel⟩⟩

theorem witness_VectorMemory :
    (∃ (p : Pier), ∃ (s u : State), ∃ (e : Entry), ∃ (iss : VIssue), vecIssue p s e 0xA0 iss ∧
    let w := e.w0.toNat; let w1 := e.w1.toNat; let x := s.pier p; let who := s.client p e.ser; let v := (s.pop p 8).countIssue p w iss;
    let fmt := fld w 47 4; let b := scaleBlock (fld w 51 8); let reads := v.readRuns who x.tag (reachOwn p) 0x052B (elemRuns fmt (vVL w) (e.addr 0) (fld w1 8 16));
    ∃ f, reads = (.error f, u) ∧ x.fault = none) ∧
    (∃ (p : Pier), ∃ (s u : State), ∃ (e : Entry), ∃ (iss : VIssue), vecIssue p s e 0xA0 iss ∧
    let w := e.w0.toNat; let w1 := e.w1.toNat; let x := s.pier p; let who := s.client p e.ser; let v := (s.pop p 8).countIssue p w iss;
    let fmt := fld w 47 4; let b := scaleBlock (fld w 51 8); let reads := v.readRuns who x.tag (reachOwn p) 0x052B (elemRuns fmt (vVL w) (e.addr 0) (fld w1 8 16));
    ∃ d sc y, reads = (.ok d, y) ∧
    (if b = 0 then (.ok [], y) else y.readVa who x.tag (reachOwn p) 0x052B (e.addr 1) (cdiv (vVL w) b)) = (.ok sc, u) ∧
    b = 0 ∧ (elemsOf fmt (vVL w) (fld w1 8 16) d).length = vVL w ∧ vVL w ≤ (if vType w = 1 then 1024 else 2048)) ∧
    (∃ (p : Pier), ∃ (s u : State), ∃ (e : Entry), ∃ (iss : VIssue), vecIssue p s e 0xA0 iss ∧
    let w := e.w0.toNat; let w1 := e.w1.toNat; let x := s.pier p; let who := s.client p e.ser; let v := (s.pop p 8).countIssue p w iss;
    let fmt := fld w 47 4; let b := scaleBlock (fld w 51 8); let reads := v.readRuns who x.tag (reachOwn p) 0x052B (elemRuns fmt (vVL w) (e.addr 0) (fld w1 8 16));
    ∃ d sc y, reads = (.ok d, y) ∧
    (if b = 0 then (.ok [], y) else y.readVa who x.tag (reachOwn p) 0x052B (e.addr 1) (cdiv (vVL w) b)) = (.ok sc, u) ∧
    b ≠ 0 ∧ (elemsOf fmt (vVL w) (fld w1 8 16) d).length = vVL w ∧ vVL w ≤ (if vType w = 1 then 1024 else 2048)) ∧
    (∃ (p : Pier), ∃ (s u : State), ∃ (e : Entry), ∃ (iss : VIssue), vecIssue p s e 0xA4 iss ∧
    let w := e.w0.toNat; let w1 := e.w1.toNat; let x := s.pier p; let who := s.client p e.ser; let v := (s.pop p 8).countIssue p w iss;
    let trailer := fun (bitNo addr : Nat) (r : ConvReport) => if bit w bitNo then [(addr, r.trailer)] else [];
    let conv := convOf (fld w 47 16) (fld w1 32 32); let rs := convertList conv (typeFmt (vType w)) 0 (x.vread (vVA w) (vType w) (vVL w));
    let rep := ConvReport.all (rs.map fun r => r.rep); let writes := (v.vecReport p rep).writeRuns who x.tag (reachOwn p) 0x052B (storeRuns conv.fmt (e.addr 0) (fld w1 8 16) (rs.map fun r => r.bits) ++ trailer 63 (e.addr 1) rep);
    writes = (none, u)) ∧
    (∃ (p : Pier), ∃ (s u : State), ∃ (e : Entry), ∃ (iss : VIssue), vecIssue p s e 0xA4 iss ∧
    let w := e.w0.toNat; let w1 := e.w1.toNat; let x := s.pier p; let who := s.client p e.ser; let v := (s.pop p 8).countIssue p w iss;
    let trailer := fun (bitNo addr : Nat) (r : ConvReport) => if bit w bitNo then [(addr, r.trailer)] else [];
    let conv := convOf (fld w 47 16) (fld w1 32 32); let rs := convertList conv (typeFmt (vType w)) 0 (x.vread (vVA w) (vType w) (vVL w));
    let rep := ConvReport.all (rs.map fun r => r.rep); let writes := (v.vecReport p rep).writeRuns who x.tag (reachOwn p) 0x052B (storeRuns conv.fmt (e.addr 0) (fld w1 8 16) (rs.map fun r => r.bits) ++ trailer 63 (e.addr 1) rep);
    ∃ f, writes = (some f, u) ∧ x.fault = none) ∧
    (∃ (p : Pier), ∃ (s u : State), ∃ (e : Entry), ∃ (iss : VIssue), vecIssue p s e 0xA8 iss ∧
    let w := e.w0.toNat; let w1 := e.w1.toNat; let x := s.pier p; let who := s.client p e.ser; let v := (s.pop p 8).countIssue p w iss;
    let trailer := fun (bitNo addr : Nat) (r : ConvReport) => if bit w bitNo then [(addr, r.trailer)] else [];
    let cq := convOf (fld w 47 16) 0; let lq := x.vread (vVA w) 0 (vVL w);
    let q := (pieces (scaleBlock (fld w1 8 8)) lq.length lq).map (quantBlock cq (b2n (bit (fld w1 8 8) 4))); let rq := (q.map fun y => y.2).flatten; let repq := ConvReport.all (rq.map fun r => r.rep);
    let writes := (v.vecReport p repq).writeRuns who x.tag (reachOwn p) 0x052B (storeRuns cq.fmt (e.addr 0) 0 (rq.map fun r => r.bits) ++ [(e.addr 1, q.map fun y => BitVec.ofNat 8 y.1)] ++ trailer 63 (e.addr 2) repq);
    writes = (none, u)) ∧
    (∃ (p : Pier), ∃ (s u : State), ∃ (e : Entry), ∃ (iss : VIssue), vecIssue p s e 0xA8 iss ∧
    let w := e.w0.toNat; let w1 := e.w1.toNat; let x := s.pier p; let who := s.client p e.ser; let v := (s.pop p 8).countIssue p w iss;
    let trailer := fun (bitNo addr : Nat) (r : ConvReport) => if bit w bitNo then [(addr, r.trailer)] else [];
    let cq := convOf (fld w 47 16) 0; let lq := x.vread (vVA w) 0 (vVL w);
    let q := (pieces (scaleBlock (fld w1 8 8)) lq.length lq).map (quantBlock cq (b2n (bit (fld w1 8 8) 4))); let rq := (q.map fun y => y.2).flatten; let repq := ConvReport.all (rq.map fun r => r.rep);
    let writes := (v.vecReport p repq).writeRuns who x.tag (reachOwn p) 0x052B (storeRuns cq.fmt (e.addr 0) 0 (rq.map fun r => r.bits) ++ [(e.addr 1, q.map fun y => BitVec.ofNat 8 y.1)] ++ trailer 63 (e.addr 2) repq);
    ∃ f, writes = (some f, u) ∧ x.fault = none) ∧
    (∃ (p : Pier), ∃ (s u : State), ∃ (e : Entry), ∃ (iss : VIssue), vecIssue p s e 0xB0 iss ∧
    let w := e.w0.toNat; let w1 := e.w1.toNat; let x := s.pier p; let who := s.client p e.ser; let v := (s.pop p 8).countIssue p w iss;
    ∃ (u1 : State), ∃ (pb : List Byte), v.readVa who x.tag (reachOwn p) 0x052B (e.addr 3) 64 = (.ok pb, u1) ∧
    let sel := fld w 12 2; let n := 16 * (fld w1 32 24 + 1); let op := optParams pb; u = u1 ∧ optBad op sel = true ∧ x.fault = none) ∧
    (∃ (p : Pier), ∃ (s u : State), ∃ (e : Entry), ∃ (iss : VIssue), vecIssue p s e 0xB0 iss ∧
    let w := e.w0.toNat; let w1 := e.w1.toNat; let x := s.pier p; let who := s.client p e.ser; let v := (s.pop p 8).countIssue p w iss;
    ∃ (u1 : State), ∃ (pb : List Byte), v.readVa who x.tag (reachOwn p) 0x052B (e.addr 3) 64 = (.ok pb, u1) ∧
    let sel := fld w 12 2; let n := 16 * (fld w1 32 24 + 1); let op := optParams pb;
    ∃ (u2 : State), ∃ (st gr : List Byte), optBad op sel = false ∧
    u1.readRuns who x.tag (reachOwn p) 0x052B [(e.addr 1, 12 * n), (e.addr 0, n * fmtWidth (fld w 8 4) / 8)] = (.ok [st, gr], u2) ∧
    let opt := optRun op (fld w1 64 32) (fld w1 96 32) (fld w 8 4) st gr n;
    let repo := ConvReport.all (opt.map (fun r => r.delta.rep) ++ (if sel = 2 then opt.map (fun r => r.work.rep) else []));
    let outs := if sel = 1 then [(e.addr 4, pack (fmtWidth (fld op.uconv 0 4)) (opt.map fun r => r.delta.bits))] else if sel = 2 then [(e.addr 4, pack 16 (opt.map fun r => r.work.bits))] else [];
    let trailer := if bit w 14 then [(e.addr 3 + 64, repo.trailer)] else [];
    let writes := (u2.vecReport p repo).writeRuns who x.tag (reachOwn p) 0x052B ([(e.addr 2, optState opt)] ++ outs ++ trailer);
    writes = (none, u)) ∧
    (∃ (p : Pier), ∃ (s u : State), ∃ (e : Entry), ∃ (iss : VIssue), vecIssue p s e 0xB0 iss ∧
    let w := e.w0.toNat; let w1 := e.w1.toNat; let x := s.pier p; let who := s.client p e.ser; let v := (s.pop p 8).countIssue p w iss;
    ∃ (u1 : State), ∃ (pb : List Byte), v.readVa who x.tag (reachOwn p) 0x052B (e.addr 3) 64 = (.ok pb, u1) ∧
    let sel := fld w 12 2; let n := 16 * (fld w1 32 24 + 1); let op := optParams pb;
    ∃ (u2 : State), ∃ (st gr : List Byte), optBad op sel = false ∧
    u1.readRuns who x.tag (reachOwn p) 0x052B [(e.addr 1, 12 * n), (e.addr 0, n * fmtWidth (fld w 8 4) / 8)] = (.ok [st, gr], u2) ∧
    let opt := optRun op (fld w1 64 32) (fld w1 96 32) (fld w 8 4) st gr n;
    let repo := ConvReport.all (opt.map (fun r => r.delta.rep) ++ (if sel = 2 then opt.map (fun r => r.work.rep) else []));
    let outs := if sel = 1 then [(e.addr 4, pack (fmtWidth (fld op.uconv 0 4)) (opt.map fun r => r.delta.bits))] else if sel = 2 then [(e.addr 4, pack 16 (opt.map fun r => r.work.bits))] else [];
    let trailer := if bit w 14 then [(e.addr 3 + 64, repo.trailer)] else [];
    let writes := (u2.vecReport p repo).writeRuns who x.tag (reachOwn p) 0x052B ([(e.addr 2, optState opt)] ++ outs ++ trailer);
    ∃ f, writes = (some f, u) ∧ x.fault = none) :=
  ⟨⟨2, st58, _, _, .clean, ⟨⟨⟨rfl, rfl⟩, by decide +kernel⟩, by decide +kernel⟩, farFault, pair_of_fst (by decide +kernel), by decide +kernel⟩,
    ⟨2, st49, _, _, .clean, ⟨⟨⟨rfl, rfl⟩, by decide +kernel⟩, by decide +kernel⟩, [[0x00#8, 0x00#8]], [], _, pair_of_fst (by decide +kernel), rfl, by decide +kernel⟩,
    ⟨2, st59, _, _, .clean, ⟨⟨⟨rfl, rfl⟩, by decide +kernel⟩, by decide +kernel⟩, [[0x00#8, 0x00#8]], [0x00#8], _, pair_of_fst (by decide +kernel), pair_of_fst (by decide +kernel), by decide +kernel⟩,
    ⟨2, st50, _, _, .clean, ⟨⟨⟨rfl, rfl⟩, by decide +kernel⟩, by decide +kernel⟩, pair_of_fst (by decide +kernel)⟩,
    ⟨2, st60, _, _, .clean, ⟨⟨⟨rfl, rfl⟩, by decide +kernel⟩, by decide +kernel⟩, farFault, pair_of_fst (by decide +kernel), by decide +kernel⟩,
    ⟨2, st51, _, _, .clean, ⟨⟨⟨rfl, rfl⟩, by decide +kernel⟩, by decide +kernel⟩, pair_of_fst (by decide +kernel)⟩,
    ⟨2, st61, _, _, .clean, ⟨⟨⟨rfl, rfl⟩, by decide +kernel⟩, by decide +kernel⟩, farFault, pair_of_fst (by decide +kernel), by decide +kernel⟩,
    ⟨2, st62, _, _, .clean, ⟨⟨⟨rfl, rfl⟩, by decide +kernel⟩, by decide +kernel⟩, _, optParamsBad, pair_of_fst (by decide +kernel), rfl, by decide +kernel⟩,
    ⟨2, st52, _, _, .clean, ⟨⟨⟨rfl, rfl⟩, by decide +kernel⟩, by decide +kernel⟩, _, List.replicate 64 0, pair_of_fst (by decide +kernel), _, List.replicate 192 0, List.replicate 64 0,
    by decide +kernel, pair_of_fst (by decide +kernel), pair_of_fst (by decide +kernel)⟩,
    ⟨2, st63, _, _, .clean, ⟨⟨⟨rfl, rfl⟩, by decide +kernel⟩, by decide +kernel⟩, _, List.replicate 64 0, pair_of_fst (by decide +kernel), _, List.replicate 192 0, List.replicate 64 0,
    by decide +kernel, pair_of_fst (by decide +kernel), farFault, pair_of_fst (by decide +kernel), by decide +kernel⟩⟩

end Sys2Proof.Tests.VectorStates

/-! ### States for the statements on stacks, windows and fences -/

namespace Sys2Proof.Tests.StackStates
open Sys2Proof Sys2Proof.Machine Sys2Proof.Tests

def w0 : Window := { Window.reset with state := .opn, tag := tg, sfmt := 11, dfmt := 11, dst := 0, sum := 2^20, park := 2^20 + 2^18, len := 1, parkLen := 1024, n := 2, round := 3, epoch := 9, dstLa := la0, donePier := 4, doneTc := 5, doneInc := 6 }
def withW (f : Window → Window) : State := { demo with mem := Memory.writeList [] la0 [1,2,3,4,5,6,7,8,9] }.updWin 2 1 (fun _ => f w0)
def st1 : State := { demo with badAtoms := [(la0 + 64) / 64], mem := Memory.writeList [] la0 (List.replicate 100 9) }
def st2 : State := (demo.updStack 2 fun x => { x with fenced := some tg })
def st4 : State := withW id
def st6 : State := withW fun w => { w with state := .abandoned }
def st8 : State := withW fun w => { w with state := .finishing, round := 65535 }
def st9 : State := { demo with owners := [(pg, BitVec.ofNat 32 (ownerWord tg 2 false))], mem := Memory.writeList [] la0 (List.replicate 10 9), badAtoms := [la0 / 64 + 3, 5] }
def st12 : State := (demo.updDie 3 fun x => { x with held := [{ Packet.empty with tag := tg }, { Packet.empty with stag := tg, tag := 5 }, { Packet.empty with tag := 5 }] })
def st13 : State := { demo with owners := [], mem := Memory.writeList [] (la0 + 2^22) [1,2], stks := [(2, { StackState.reset with up := true, oos := true })], regs := [(dmcOff 2 + 0xC, 1)] }
/-- One chunk of 64 bytes for the window at la0. -/
def aChunk (rank : Nat) : ChunkReq := { chunkReq la0 rank 64 with round := 3, epoch := 9, pair := 0xBB }
def aLast : ChunkReq := { aChunk 0 with last := true }
/-- As many bytes as the park buffer holds. -/
def hugeChunk : ChunkReq := { aChunk 1 with data := List.replicate (2 ^ 24) 0 }
def st20 : State := (withW id).updWin 2 2 fun _ => { w0 with tag := 5, parked := [(false, hugeChunk)] }
def st21 : State := st20.updWin 2 1 fun w => { w with parkLen := 0 }
theorem units_of_length (n : Nat) : chunkUnits { aChunk 1 with data := List.replicate n 0 } = cdiv n 64 := by
  simp [chunkUnits, aChunk, chunkReq]
theorem huge_units : chunkUnits hugeChunk = 262144 := by
  unfold hugeChunk; rw [units_of_length]; decide
theorem st20_parks : st20.parkUsed 2 = 262144 := by
  have h : (st20.stack 2).windows = [(1, w0), (2, { w0 with tag := 5, parked := [(false, hugeChunk)] })] := rfl
  simp [State.parkUsed, h, huge_units, w0, Window.reset]
theorem st21_parks : st21.parkUsed 2 = 262144 := by
  have h : (st21.stack 2).windows = [(1, { w0 with parkLen := 0 }), (2, { w0 with tag := 5, parked := [(false, hugeChunk)] })] := rfl
  simp [State.parkUsed, h, huge_units, w0, Window.reset]
/-- Chunk c of the current round finds open window w of stack n and fits it. -/
def fitsAt (c : ChunkReq) (s : State) (n w : Nat) : Prop :=
  s.stackServes n c.dst.toNat c.tag.toNat c.peer ∧ s.winMatch n c.tag.toNat c.dst.toNat = some w ∧
    (s.win n w).state = .opn ∧ c.epoch.toNat = (s.win n w).epoch ∧ c.round.toNat = (s.win n w).round ∧
    (s.win n w).misfit c = false
def st22 : State := withW fun w => { w with indexed := true }
def st23 : State := withW fun w => { w with state := .finishing, sumPages := [pg + 1], dstPages := [pg] }
def st24 : State := withW fun w => { w with state := .finishing, event := true, doneEn := true }
def st25 : State := withW fun w => { w with state := .finishing, closing := some 7, err := some (1, 2) }

theorem witness_MemoryReadWrite :
    (∃ (r : MemReq), ∃ (mask : BitVec 64), ∃ (s : State), ∃ (n : Nat), let la := r.addr.toNat / 64 * 64; s.memOk ∧
    s.stackServes n la r.tag.toNat r.peer ∧ s.ltOn = false ∧ la / 64 ∉ s.badAtoms ∧ r.ecc = .clean) ∧
    (∃ (r : MemReq), ∃ (mask : BitVec 64), ∃ (s : State), ∃ (n : Nat), let la := r.addr.toNat / 64 * 64; s.memOk ∧
    s.stackServes n la r.tag.toNat r.peer ∧ s.ltOn = false ∧ (la / 64 ∈ s.badAtoms ∨ r.ecc = .uncorrectable)) ∧
    (∃ (r : MemReq), ∃ (mask : BitVec 64), ∃ (s : State), ∃ (n : Nat), let la := r.addr.toNat / 64 * 64; s.memOk ∧
    s.stackServes n la r.tag.toNat r.peer ∧ s.ltOn = false ∧ la / 64 ∉ s.badAtoms ∧ r.ecc = .corrected) ∧
    (∃ (r : MemReq), ∃ (mask : BitVec 64), ∃ (s : State), ∃ (n : Nat), let la := r.addr.toNat / 64 * 64; s.memOk ∧
    s.stackServes n la r.tag.toNat r.peer ∧ la / 64 ∉ s.badAtoms ∧ (mask = BitVec.allOnes 64 ∨ r.ecc ≠ .uncorrectable)) ∧
    (∃ (r : MemReq), ∃ (mask : BitVec 64), ∃ (s : State), ∃ (n : Nat), let la := r.addr.toNat / 64 * 64; s.memOk ∧
    s.stackServes n la r.tag.toNat r.peer ∧ mask ≠ BitVec.allOnes 64 ∧ (la / 64 ∈ s.badAtoms ∨ r.ecc = .uncorrectable)) ∧
    (∃ (r : MemReq), ∃ (mask : BitVec 64), ∃ (s : State), ∃ (n : Nat), let la := r.addr.toNat / 64 * 64; s.memOk ∧
    s.stackServes n la r.tag.toNat r.peer ∧ mask ≠ BitVec.allOnes 64 ∧ (la / 64 ∈ s.badAtoms ∨ r.ecc = .uncorrectable)) ∧
    (∃ (r : MemReq), ∃ (mask : BitVec 64), ∃ (s : State), ∃ (n : Nat), let la := r.addr.toNat / 64 * 64; s.memOk ∧
    s.stackServes n la r.tag.toNat r.peer ∧ la / 64 ∈ s.badAtoms ∧ mask = BitVec.allOnes 64) :=
  ⟨⟨{ memReq (la0 + 64) with ecc := .clean }, 5, st12, 2, by unfold State.memOk; decide +kernel, ⟨⟨_, rfl⟩, by decide +kernel⟩,
    by decide +kernel⟩,
    ⟨{ memReq (la0 + 64) with ecc := .clean }, 5, st1, 2, by unfold State.memOk; decide +kernel, ⟨⟨_, rfl⟩, by decide +kernel⟩,
    by decide +kernel⟩,
    ⟨{ memReq (la0 + 64) with ecc := .corrected }, 5, st12, 2, by unfold State.memOk; decide +kernel, ⟨⟨_, rfl⟩, by decide +kernel⟩,
    by decide +kernel⟩,
    ⟨{ memReq (la0 + 64) with ecc := .clean }, 5, st12, 2, by unfold State.memOk; decide +kernel, ⟨⟨_, rfl⟩, by decide +kernel⟩,
    by decide +kernel⟩,
    ⟨{ memReq (la0 + 64) with ecc := .clean }, 5, st1, 2, by unfold State.memOk; decide +kernel, ⟨⟨_, rfl⟩, by decide +kernel⟩,
    by decide +kernel⟩,
    ⟨{ memReq (la0 + 64) with ecc := .uncorrectable }, 5, st12, 2, by unfold State.memOk; decide +kernel, ⟨⟨_, rfl⟩, by decide +kernel⟩,
    by decide +kernel⟩,
    ⟨{ memReq (la0 + 64) with ecc := .clean }, 0xFFFFFFFFFFFFFFFF, st1, 2, by unfold State.memOk; decide +kernel, ⟨⟨_, rfl⟩, by decide +kernel⟩,
    by decide +kernel⟩⟩

theorem witness_OwnerRule :
    (∃ (r : MemReq), ∃ (s : State), ∃ (n o : Nat), let la := r.addr.toNat / 64 * 64; place la = .stack n o ∧
    s.stackOpen n = false) ∧
    (∃ (r : MemReq), ∃ (s : State), ∃ (n o : Nat),
    let la := r.addr.toNat / 64 * 64; let tag := r.tag.toNat; place la = .stack n o ∧ s.stackOpen n = true ∧
    (s.stack n).fenced = some tag) ∧
    (∃ (r : MemReq), ∃ (s : State), ∃ (n o : Nat),
    let la := r.addr.toNat / 64 * 64; let tag := r.tag.toNat; let w := s.owner (pageOf la); place la = .stack n o ∧
    s.stackOpen n = true ∧ (s.stack n).fenced ≠ some tag ∧ fld w 18 3 ≠ 1) ∧
    (∃ (r : MemReq), ∃ (s : State), ∃ (n o : Nat),
    let la := r.addr.toNat / 64 * 64; let tag := r.tag.toNat; let w := s.owner (pageOf la); place la = .stack n o ∧
    s.stackOpen n = true ∧ (s.stack n).fenced ≠ some tag ∧ fld w 18 3 = 1 ∧ fld w 0 18 ≠ tag ∧
    tagCtx (fld w 0 18) = tagCtx tag) ∧
    (∃ (r : MemReq), ∃ (s : State), ∃ (n o : Nat),
    let la := r.addr.toNat / 64 * 64; let tag := r.tag.toNat; let w := s.owner (pageOf la); place la = .stack n o ∧
    s.stackOpen n = true ∧ (s.stack n).fenced ≠ some tag ∧ fld w 18 3 = 1 ∧ tagCtx (fld w 0 18) ≠ tagCtx tag) ∧
    (∃ (r : MemReq), ∃ (s : State), ∃ (n o : Nat),
    let la := r.addr.toNat / 64 * 64; let tag := r.tag.toNat; let w := s.owner (pageOf la); place la = .stack n o ∧
    s.stackOpen n = true ∧ (s.stack n).fenced ≠ some tag ∧ fld w 18 3 = 1 ∧ fld w 0 18 = tag ∧ r.peer = true ∧
    bit w 21 = false) :=
  ⟨⟨{ addr := 0x200c800040, tag := 0x1001, peer := false, pier := some 2, ecc := Ecc.clean }, st13, 2, 209715264,
    by decide +kernel⟩,
    ⟨{ addr := 0x200c800040, tag := 0x1001, peer := false, pier := some 2, ecc := Ecc.clean }, st2, 2, 209715264,
    by decide +kernel⟩,
    ⟨{ addr := 0x200c800040, tag := 0x1001, peer := false, pier := some 2, ecc := Ecc.clean }, st9, 2, 209715264,
    by decide +kernel⟩,
    ⟨{ addr := 0x200c800000, tag := 0x1002, peer := false, pier := some 2, ecc := Ecc.clean }, st12, 2, 209715200,
    by decide +kernel⟩,
    ⟨{ addr := 0x200c800000, tag := 0x2328, peer := false, pier := some 2, ecc := Ecc.clean }, st12, 2, 209715200,
    by decide +kernel⟩,
    ⟨{ addr := 0x200ca00080, tag := 0x1001, peer := true, pier := some 2, ecc := Ecc.clean }, st12, 2, 211812480,
    by decide +kernel⟩⟩

theorem witness_PlainReduction :
    (∃ (r : MemReq), ∃ (s : State), let la := r.addr.toNat; let tag := r.tag.toNat; ∃ n, s.memOk ∧
    s.stackServes n la tag r.peer ∧ s.ltOn = false ∧ r.ecc = .clean ∧ la / 64 ∉ s.badAtoms) ∧
    (∃ (pair : Byte), ∃ (wide : Bool), (pair ∉ [(0x55 : Byte), 0x75, 0x77, 0x88, 0xBB] ∨ (wide = true ∧ pair ≠ 0xBB))) :=
  ⟨⟨{ addr := 0x200c800040, tag := 0x1001, peer := false, pier := some 2, ecc := Ecc.clean }, st12, 2,
    by unfold State.memOk; decide +kernel, ⟨⟨_, rfl⟩, by decide +kernel⟩, by decide +kernel⟩,
    ⟨(0xff#8), true, by decide +kernel⟩⟩

theorem witness_WindowCommands :
    (∃ (n : Stk), ∃ (w : Win), ∃ (s : State), let x := s.win n w; ∃ d, x.state = .closed ∧ s.winRejects n d = false) ∧
    (∃ (n : Stk), ∃ (w : Win), ∃ (s : State), let x := s.win n w; x.state ≠ .closed) ∧
    (∃ (n : Stk), ∃ (w : Win), ∃ (s : State), let x := s.win n w; ∃ d, x.state = .closed ∧
    (leAt d 52 12 ≠ 0 ∨ leAt d 32 4 = 0 ∨ leAt d 40 2 = 0 ∨ 8192 < leAt d 40 2 ∨ leAt d 6 2 / 16 % 8 = 4)) ∧
    (∃ (n : Stk), ∃ (w : Win), ∃ (s : State), let x := s.win n w; ∃ k, x.state = .abandoned ∧ 1 ≤ k ∧ k ≤ 8192) ∧
    (∃ (n : Stk), ∃ (w : Win), ∃ (s : State), let x := s.win n w; x.state ≠ .finishing) ∧
    (∃ (n : Stk), ∃ (w : Win), ∃ (s : State), (s.win n w).state = .finishing) ∧
    (∃ (n : Stk), ∃ (w : Win), ∃ (s : State), (s.win n w).state ≠ .abandoned) ∧
    (∃ (n : Stk), ∃ (w : Win), ∃ (s : State), ∃ k : Nat, (s.win n w).state = .abandoned ∧ (k < 1 ∨ 8192 < k)) :=
  ⟨⟨2, 63, st12,
    ((toBytes 0x9000300020000040000000002000000000014000000000000001000000000000000000040000b00bb00001001 64)),
    by decide +kernel⟩,
    ⟨2, 1, st8, by decide +kernel⟩,
    ⟨15, 63, st13,
    ((toBytes 0x9000320210000040000000002000000000014000000000000001000000000000000000040000b00bb00001001 64)),
    by decide +kernel⟩,
    ⟨2, 1, st6, 772, by decide +kernel⟩,
    ⟨15, 63, st13, by decide +kernel⟩,
    ⟨2, 1, st8, by decide +kernel⟩,
    ⟨2, 1, st4, by decide +kernel⟩,
    ⟨2, 1, st6, 8193, by decide +kernel⟩⟩

theorem witness_WindowChunksAndRounds :
    (∃ (c : ChunkReq), ∃ (s : State), ∃ (n : Nat), let la := c.dst.toNat; s.stackServes n la c.tag.toNat c.peer ∧
    s.winMatch n c.tag.toNat la = none) ∧
    (∃ (c : ChunkReq), ∃ (s : State), ∃ (n : Nat), let la := c.dst.toNat; s.stackServes n la c.tag.toNat c.peer ∧ ∃ w,
    s.winMatch n c.tag.toNat la = some w ∧ let x := s.win n w; x.state ≠ .opn) ∧
    (∃ (c : ChunkReq), ∃ (s : State), ∃ (n : Nat), let la := c.dst.toNat; s.stackServes n la c.tag.toNat c.peer ∧ ∃ w,
    s.winMatch n c.tag.toNat la = some w ∧
    let x := s.win n w; let newer := (c.epoch - BitVec.ofNat 32 x.epoch).toInt; x.state = .opn ∧ x.epoch < 2 ^ 32 ∧
    0 < newer) ∧
    (∃ (c : ChunkReq), ∃ (s : State), ∃ (n : Nat), let la := c.dst.toNat; s.stackServes n la c.tag.toNat c.peer ∧ ∃ w,
    s.winMatch n c.tag.toNat la = some w ∧
    let x := s.win n w; let newer := (c.epoch - BitVec.ofNat 32 x.epoch).toInt; x.state = .opn ∧ x.epoch < 2 ^ 32 ∧
    newer < 0) ∧
    (∃ (c : ChunkReq), ∃ (s : State), ∃ (n : Nat), let la := c.dst.toNat; s.stackServes n la c.tag.toNat c.peer ∧ ∃ w,
    s.winMatch n c.tag.toNat la = some w ∧ let x := s.win n w; x.state = .opn ∧ c.epoch.toNat = x.epoch ∧
    c.round.toNat = (x.round + 1) % 2 ^ 16 ∧ x.round < 2 ^ 16) ∧
    (∃ (c : ChunkReq), ∃ (s : State), ∃ (n : Nat), let la := c.dst.toNat; s.stackServes n la c.tag.toNat c.peer ∧ ∃ w,
    s.winMatch n c.tag.toNat la = some w ∧ let x := s.win n w; x.state = .opn ∧ c.epoch.toNat = x.epoch ∧
    c.round.toNat ≠ x.round ∧ c.round.toNat ≠ (x.round + 1) % 2 ^ 16) ∧
    (∃ (c : ChunkReq), ∃ (s : State), ∃ (n : Nat), let la := c.dst.toNat; s.stackServes n la c.tag.toNat c.peer ∧ ∃ w,
    s.winMatch n c.tag.toNat la = some w ∧ let x := s.win n w; x.state = .opn ∧ c.epoch.toNat = x.epoch ∧
    c.round.toNat = x.round ∧ x.n ≤ c.rank) ∧
    (∃ (c : ChunkReq), ∃ (s : State), ∃ (n : Nat), let la := c.dst.toNat; s.stackServes n la c.tag.toNat c.peer ∧ ∃ w,
    s.winMatch n c.tag.toNat la = some w ∧ let x := s.win n w; x.state = .opn ∧ c.epoch.toNat = x.epoch ∧
    c.round.toNat = x.round ∧ x.misfit c = false ∧ x.indexed = false ∧ c.rank = x.nextRank.get 0 c.seg ∧ x.parked = [] ∧
    c.ecc = .clean ∧ s.ltOn = false ∧ s.badAtoms = [] ∧ c.rank + 1 < x.n) ∧
    (∃ (c : ChunkReq), ∃ (s : State), ∃ (n w : Nat), fitsAt c s n w ∧ let x := s.win n w; x.isNext c = true) ∧
    (∃ (c : ChunkReq), ∃ (s : State), ∃ (n w : Nat), fitsAt c s n w ∧ let x := s.win n w; x.isNext c = false ∧ s.parkUsed n + chunkUnits c ≤ 262144) ∧
    (∃ (c : ChunkReq), ∃ (s : State), ∃ (n w : Nat), fitsAt c s n w ∧ let x := s.win n w; x.isNext c = false ∧ ¬s.parkUsed n + chunkUnits c ≤ 262144 ∧ ((x.parked.filter fun y => y.1).map fun y => chunkUnits y.2).sum + chunkUnits c ≤ x.parkLen) ∧
    (∃ (c : ChunkReq), ∃ (s : State), ∃ (n w : Nat), fitsAt c s n w ∧ let x := s.win n w; x.isNext c = false ∧ ¬s.parkUsed n + chunkUnits c ≤ 262144 ∧ ¬((x.parked.filter fun y => y.1).map fun y => chunkUnits y.2).sum + chunkUnits c ≤ x.parkLen) ∧
    (∃ (c : ChunkReq), ∃ (s : State), ∃ (n w : Nat), (s.win n w).indexed = true ∧ c.last = true) ∧
    (∃ (c : ChunkReq), ∃ (s : State), ∃ (n w : Nat), (s.win n w).indexed = true ∧ c.last = false) ∧
    (∃ (s : State), ∃ (n w : Nat), (s.win n w).indexed = false) ∧
    (∃ (n : Stk), ∃ (w : Win), ∃ (s : State), let x := s.win n w; x.state ≠ .finishing) ∧
    (∃ (n : Stk), ∃ (w : Win), ∃ (s : State), let x := s.win n w; x.state = .finishing ∧ s.badAtoms = [] ∧ s.memOk ∧
    (∀ i < x.elems, ∀ k < x.elems, i ≠ k →
      x.dstAt i + fmtBytes x.dfmt ≤ x.dstAt k ∨ x.dstAt k + fmtBytes x.dfmt ≤ x.dstAt i) ∧
    (∀ i < x.elems, ∀ k < x.elems,
      x.dstAt i + fmtBytes x.dfmt ≤ x.sumAt k ∨ x.sumAt k + fmtBytes x.sumF ≤ x.dstAt i)) ∧
    (∃ (n : Stk), ∃ (w : Win), ∃ (s : State), let x := s.win n w; x.state = .finishing ∧ x.event = true ∧ x.doneEn = true ∧ x.closing = none) ∧
    (∃ (n : Stk), ∃ (w : Win), ∃ (s : State), let x := s.win n w; x.state = .finishing ∧ x.closing = some 7 ∧ ∃ e, x.err = some e) :=
  ⟨⟨{ aChunk 0 with round := 0x3, epoch := 0x9, last := true, data := toBytes 5 256 },
    st12, 2, ⟨⟨_, rfl⟩, by decide +kernel⟩, by decide +kernel⟩,
    ⟨{ aChunk 0 with round := 0x3, epoch := 0x9, last := true, data := toBytes 5 256 },
    st8, 2, ⟨⟨_, rfl⟩, by decide +kernel⟩, 1, by decide +kernel⟩,
    ⟨{ aChunk 0 with round := 0x3, epoch := 0xa },
    st4, 2, ⟨⟨_, rfl⟩, by decide +kernel⟩, 1, by decide +kernel⟩,
    ⟨{ aChunk 0 with round := 0x3, epoch := 0x8 },
    st4, 2, ⟨⟨_, rfl⟩, by decide +kernel⟩, 1, by decide +kernel⟩,
    ⟨{ aChunk 0 with round := 0x4, epoch := 0x9 },
    st4, 2, ⟨⟨_, rfl⟩, by decide +kernel⟩, 1, by decide +kernel⟩,
    ⟨{ aChunk 0 with round := 0x5, epoch := 0x9 },
    st4, 2, ⟨⟨_, rfl⟩, by decide +kernel⟩, 1, by decide +kernel⟩,
    ⟨{ aChunk 2 with round := 0x3, epoch := 0x9 },
    st4, 2, ⟨⟨_, rfl⟩, by decide +kernel⟩, 1, by decide +kernel⟩,
    ⟨{ aChunk 0 with round := 0x3, epoch := 0x9 },
    st4, 2, ⟨⟨_, rfl⟩, by decide +kernel⟩, 1, by decide +kernel⟩,
    ⟨aChunk 0, st4, 2, 1, ⟨⟨⟨_, rfl⟩, by decide +kernel⟩, by decide +kernel⟩, by decide +kernel⟩,
    ⟨aChunk 1, st4, 2, 1, ⟨⟨⟨_, rfl⟩, by decide +kernel⟩, by decide +kernel⟩, by decide +kernel⟩,
    ⟨aChunk 1, st20, 2, 1, ⟨⟨⟨_, rfl⟩, by decide +kernel⟩, by decide +kernel⟩, by decide +kernel, by rw [st20_parks]; decide +kernel, by decide +kernel⟩,
    ⟨aChunk 1, st21, 2, 1, ⟨⟨⟨_, rfl⟩, by decide +kernel⟩, by decide +kernel⟩, by decide +kernel, by rw [st21_parks]; decide +kernel, by decide +kernel⟩,
    ⟨aLast, st22, 2, 1, by decide +kernel⟩,
    ⟨aChunk 0, st22, 2, 1, by decide +kernel⟩,
    ⟨st4, 2, 1, by decide +kernel⟩,
    ⟨2, 1, st4, by decide +kernel⟩,
    ⟨2, 1, st23, by unfold State.memOk; decide +kernel⟩,
    ⟨2, 1, st24, by decide +kernel⟩,
    ⟨2, 1, st25, by decide +kernel, by decide +kernel, (1, 2), by decide +kernel⟩⟩

/-- Limit i of the refresh bands of stack n. -/
def bandLimit (s : State) (n i : Nat) : Int := 4 * ((s.reg (dmcOff n + 0x14)).toNat / 256 ^ (i - 1) % 256 : Nat)
def bandsRise (s : State) (n : Nat) : Prop :=
  (s.reg (dmcOff n + 4)).toNat % 4 < 3 ∧ bandLimit s n 1 ≤ bandLimit s n 2 ∧ bandLimit s n 2 ≤ bandLimit s n 3
def st26 : State := { demo with regs := [(dmcOff 2 + 4, 1), (dmcOff 2 + 0x14, 0x025F5A55)] }

theorem witness_ZeroScrubAndMapOut :
    (∃ (page : BitVec 27), ∃ (s : State), fld (s.owner page.toNat) 18 3 = 1) ∧
    (∃ (page : BitVec 27), ∃ (s : State), fld (s.owner page.toNat) 18 3 = 2 ∧ s.memOk) ∧
    (∃ (n : Stk), ∃ (c : Fin 32), ∃ (s : State), (s.stack n).oos = true ∧ (s.stack n).dead = false ∧
    (s.reg (dmcOff n + 0xC)).getLsbD c = true ∧
    (∀ e ∈ s.owners, n.val * 32768 ≤ e.1 → e.1 < n.val * 32768 + 24576 → fld e.2.toNat 18 3 ≠ 1) ∧ s.memOk ∧
    (∀ e ∈ s.owners, n.val * 32768 ≤ e.1 → e.1 < n.val * 32768 + 24576 → fld e.2.toNat 18 3 ≠ 2)) ∧
    (∃ (n : Stk), ∃ (s : State), s.stackUp n = true ∧ (s.reg (dmcOff n)).getLsbD 0 = true ∧
    (∀ a ∈ s.badAtoms, a / 2 ^ 30 ≠ n.val)) ∧
    (∃ (n : Stk), ∃ (s : State), s.stackUp n = true ∧ (s.reg (dmcOff n)).getLsbD 0 = true ∧ s.badAtoms = []) ∧
    (∃ (n : Stk), ∃ (core : BitVec 16), ∃ (s : State), bandsRise s n ∧ let k := (s.reg (dmcOff n + 4)).toNat % 4; let hyst : Int := 4 * ((s.reg (dmcOff n + 0x14)).toNat / 2 ^ 24 % 16 : Nat);
    bandLimit s n 3 < core.toInt) ∧
    (∃ (n : Stk), ∃ (core : BitVec 16), ∃ (s : State), bandsRise s n ∧ let k := (s.reg (dmcOff n + 4)).toNat % 4; let hyst : Int := 4 * ((s.reg (dmcOff n + 0x14)).toNat / 2 ^ 24 % 16 : Nat);
    core.toInt ≤ bandLimit s n 3 ∧ bandLimit s n 2 < core.toInt) ∧
    (∃ (n : Stk), ∃ (core : BitVec 16), ∃ (s : State), bandsRise s n ∧ let k := (s.reg (dmcOff n + 4)).toNat % 4; let hyst : Int := 4 * ((s.reg (dmcOff n + 0x14)).toNat / 2 ^ 24 % 16 : Nat);
    k = 1 ∧ core.toInt ≤ bandLimit s n 1 ∧ bandLimit s n 1 - hyst < core.toInt) ∧
    (∃ (n : Stk), ∃ (core : BitVec 16), ∃ (s : State), bandsRise s n ∧ let k := (s.reg (dmcOff n + 4)).toNat % 4; let hyst : Int := 4 * ((s.reg (dmcOff n + 0x14)).toNat / 2 ^ 24 % 16 : Nat);
    k = 1 ∧ core.toInt ≤ bandLimit s n 1 - hyst) :=
  ⟨⟨(0x0080100#27), st12, by decide +kernel⟩,
    ⟨(0x0010064#27), st9, by unfold State.memOk; decide +kernel⟩,
    ⟨2, 0, st13, by unfold State.memOk; decide +kernel⟩,
    ⟨2, st12, by decide +kernel⟩,
    ⟨2, st12, by decide +kernel⟩,
    ⟨2, 381, st26, by unfold bandsRise; decide +kernel⟩,
    ⟨2, 380, st26, by unfold bandsRise; decide +kernel⟩,
    ⟨2, 340, st26, by unfold bandsRise; decide +kernel⟩,
    ⟨2, 332, st26, by unfold bandsRise; decide +kernel⟩⟩

theorem witness_FenceWrites :
    (∃ (n : Stk), ∃ (s : State), (∀ e ∈ (s.stack n).windows, e.2.closing = none)) ∧
    (∃ (k : Die), ∃ (tag : Tag), ∃ (s : State), (∀ d : Coll, (s.coll d).tag = tag.toNat → (s.coll d).state = .closed) ∧
    (∀ r ∈ (s.die k).far, r.stag ≠ tag.toNat) ∧ (s.die k).running = none ∧ (s.die k).jobs = []) ∧
    (∃ (s : State), s.ks.fence = none) ∧
    (∃ (k : Die), ∃ (s : State), s.ks.fence = none ∧ s.fencedTraffic k = false) :=
  ⟨⟨15, st13, by decide +kernel⟩,
    ⟨3, (0x3ffff#18), st13, by decide +kernel⟩,
    ⟨st13, by decide +kernel⟩,
    ⟨3, st13, by decide +kernel⟩⟩

end Sys2Proof.Tests.StackStates

/-! ### States for the statements on registers and transfer engines -/

namespace Sys2Proof.Tests.TransferStates
open Sys2Proof Sys2Proof.Machine Sys2Proof.Tests

def w0 : Window := { Window.reset with state := .opn, tag := tg, sfmt := 11, dfmt := 11, dst := 0, sum := 2^20, park := 2^20 + 2^18, len := 1, parkLen := 1024, n := 2, round := 3, epoch := 9, dstLa := la0, donePier := 4, doneTc := 5, doneInc := 6 }
def ck : ChunkReq := { tag := BitVec.ofNat 18 tg, dst := BitVec.ofNat 48 la0, rank := 0, round := 3, epoch := 9, seg := 0, last := false, indexed := false, pair := 0xBB, indices := [], data := toBytes 5 64, peer := false, pier := some 2, ecc := .clean }
def gy : Transfer := { xferY { xferE (iw 0x54 [(8,1), (16,1)]) 3 [0, 2^21 + 128, 64] with aux := 5 + 2^32 } with refetch := some { next := 0, got := [], waiting := none, expelled := false }, fetch := [{ idx := true, off := 0, len := 4, txid := none, data := some (toBytes 9 4) }] }
/-- A block header of version 5, sequence number 9, shard 1 and 77 payload bytes. -/
def block64 : List Byte := toBytes 0x4d000000010000000900000005 64
/-- The first source of shard 1 is module m, which holds it at la0. -/
def sourced (m : Nat) : State := withXfer gy fun s => { (s.updCtx 1 fun c => { c with shardTable := some (64, 2) }) with
  mem := Memory.writeList (Memory.writeList [] (la0 + 128)
    (toBytes (0x8000 + m + tg * 2 ^ 16 + la0 * 2 ^ 48 + la0 * 2 ^ 96) 20)) la0 block64 }
def fr : FarReq := { txid := 44, dst := 7, tag := 9, stag := tg, addr := 64, raddr := 2^41, len := 64, unit := .engine 2 1 3, relay := none, off := 0, packet := { Packet.empty with type := 2, dst := 7, addr := 64, txid := 44 }, issued := 0, timeout := 100 }
def st4 : State := { (demo.setReg (0x51000C + 16 * 2047) 1) with hp := { demo.hp with pendingBits := [2047] } }
def st6 : State := running [iw 0x50 [(8,1), (24,16), (48,32)], 3]
def st7 : State := running [iw 0x54 [(8,1), (24,16), (48,32)], iw 3 [(2,5)]]
def st8 : State := running [iw 0x58 [(8,2), (24,16), (48,32), (96,0xBB)], 3]
def st9 : State := running [iw 0x50 [(23,1)], 3]
def st10 : State := running [iw 0x54 [(17,1)], 3]
def st11 : State := running [iw 0x58 [(19,1)], 3]
def st12 : State := running [iw 0x58 [(16,1), (96,0xB5)], 3]
def st13 : State := xferAt (xferE (iw 0x50 [(8,1), (10,63)]) 3 [0, 2^21 + 128])
def st14 : State := xferAt (xferE (iw 0x54 [(8,1), (10,63)]) (iw 3 [(32,0)]) [0, 2^21 + 128, 64])
def st15 : State := xferAt (xferE (iw 0x58 [(8,1), (10,63), (96,0xBB)]) 3 [0, 64])
def st16 : State := xferAt (xferE (iw 0x50 [(8,1)]) 3 [2^40 + 64, 128])
def st17 : State := withXfer { xferY (xferE (iw 0x58 [(8,1), (16,1), (10,5), (96,0xBB)]) 3 [0, 64]) with refused := [{ req := ck, remote := none, coll := none }] } (fun s => s.updWin 2 1 fun _ => w0)
def st18 : State := withXfer { xferY (xferE (iw 0x58 [(8,1), (16,1), (10,5), (96,0xBB)]) 3 [0, 64]) with refused := [{ req := ck, remote := none, coll := none }] } id
def st19 : State := sourced demo.moduleId
def st20 : State := sourced 7
def st22 : State := withXfer gy id
def st21 : State := withXfer { gy with refetch := none, waiting := [44] } fun s => (s.updDie 1 fun d => { d with far := [fr] }).updKs fun k => { k with txid := 90 }

theorem witness_Registers :
    (∃ (s : State), ∃ (m : Mbx), ∃ (o : Nat), ∃ (d : List Byte), (s.mb m).owner = false ∧ o + d.length ≤ 0x1000) ∧
    (∃ (s : State), ∃ (x : Fin 2048), s.hp.pendingBits = [x.val] ∧ s.role ≠ 2 ∧
    s.hp.held = [] ∧ s.holdoffOver x.val = true) ∧
    (∃ (a : Bar0Access), 0x502000 ≤ a.off.toNat ∧ a.off.toNat < 0x510000) ∧
    (∃ (a : Bar0Access), 0x500000 ≤ a.off.toNat ∧ (¬(a.size = 4 ∧ a.off.toNat % 4 = 0)) ∧
    (¬(a.size = 8 ∧ a.off.toNat % 8 = 0))) :=
  ⟨⟨st21, 255, 772, ((toBytes 0x4d00000007000000010000000900000005 64)), by decide +kernel⟩,
    ⟨st4, 2047, by decide +kernel⟩,
    ⟨{ off := 0x50fffc, size := 4, write := false }, by decide +kernel⟩,
    ⟨{ off := 0x500004, size := 8, write := true }, by decide +kernel⟩⟩

theorem witness_TransferDispatch :
    (∃ (p : Pier), ∃ (s u : State), ∃ (r : RunTask), ∃ (w0 w1 : Nat), s.atInstr p r w0 w1 u ∧ opc w0 = 0x50 ∧
    xferFields 0x50 w0 w1 = true) ∧
    (∃ (p : Pier), ∃ (s u : State), ∃ (r : RunTask), ∃ (w0 w1 : Nat), s.atInstr p r w0 w1 u ∧ opc w0 = 0x54 ∧
    xferFields 0x54 w0 w1 = true) ∧
    (∃ (p : Pier), ∃ (s u : State), ∃ (r : RunTask), ∃ (w0 w1 : Nat), s.atInstr p r w0 w1 u ∧ opc w0 = 0x58 ∧
    xferFields 0x58 w0 w1 = true ∧ reduceCheck w0 = none) ∧
    (∃ (p : Pier), ∃ (s u : State), ∃ (r : RunTask), ∃ (w0 w1 : Nat), s.atInstr p r w0 w1 u ∧ opc w0 = 0x50 ∧
    xferFields 0x50 w0 w1 = false) ∧
    (∃ (p : Pier), ∃ (s u : State), ∃ (r : RunTask), ∃ (w0 w1 : Nat), s.atInstr p r w0 w1 u ∧ opc w0 = 0x54 ∧
    xferFields 0x54 w0 w1 = false) ∧
    (∃ (p : Pier), ∃ (s u : State), ∃ (r : RunTask), ∃ (w0 w1 : Nat), s.atInstr p r w0 w1 u ∧ opc w0 = 0x58 ∧
    xferFields 0x58 w0 w1 = false) ∧
    (∃ (p : Pier), ∃ (s u : State), ∃ (r : RunTask), ∃ (w0 w1 : Nat), s.atInstr p r w0 w1 u ∧ opc w0 = 0x58 ∧
    xferFields 0x58 w0 w1 = true ∧ bit w0 18 = false ∧ bit w0 16 = true ∧
    (fld w0 96 4, fld w0 100 4) ∉ [(5, 5), (5, 7), (7, 7), (8, 8), (11, 11)]) :=
  ⟨⟨2, st6, ((State.fetchInstr st6 2 demoRun).2), demoRun, 9007199523176784, 3, by unfold State.atInstr; decide +kernel⟩,
    ⟨2, st7, ((State.fetchInstr st7 2 demoRun).2), demoRun, 9007199523176788, 23,
    by unfold State.atInstr; decide +kernel⟩,
    ⟨2, st8, ((State.fetchInstr st8 2 demoRun).2), demoRun, 14815666390167440137192241889880, 3,
    by unfold State.atInstr; decide +kernel⟩,
    ⟨2, st9, ((State.fetchInstr st9 2 demoRun).2), demoRun, 8388688, 3, by unfold State.atInstr; decide +kernel⟩,
    ⟨2, st10, ((State.fetchInstr st10 2 demoRun).2), demoRun, 131156, 3, by unfold State.atInstr; decide +kernel⟩,
    ⟨2, st11, ((State.fetchInstr st11 2 demoRun).2), demoRun, 524376, 3, by unfold State.atInstr; decide +kernel⟩,
    ⟨2, st12, ((State.fetchInstr st12 2 demoRun).2), demoRun, 14340297415081845104431455076440, 3,
    by unfold State.atInstr; decide +kernel⟩⟩

theorem witness_TransfersRun :
    (∃ (p : Pier), ∃ (te : Te), ∃ (s : State), ∃ (e : Entry), ∃ (o n m : Nat), s.atHead p (9 + te.val) o e ∧
    s.xfers p te = [] ∧ s.memOk ∧ s.ltOn = false ∧ s.badAtoms = [] ∧ (∀ k, (s.die k).fenced = none) ∧
    let x := s.pier p; let w := e.w0.toNat; let from_ (va la : Nat) : Prop := (va % 64 = 0 ∧ s.translate x.tag va .rd = .here la ∧ s.stackServes n la x.tag false); ∃ src dst,
    o = 0x50 ∧ fld w 72 24 = 0 ∧ fld w 96 16 = 0 ∧ bit w 22 = false ∧ e.addr 0 < 2 ^ 41 ∧ e.addr 1 < 2 ^ 41 ∧
    from_ (e.addr 0) src ∧ e.addr 1 % 64 = 0 ∧ s.translate x.tag (e.addr 1) .wr = .here dst ∧
    s.stackServes m dst x.tag false) ∧
    (∃ (p : Pier), ∃ (te : Te), ∃ (s : State), ∃ (e : Entry), ∃ (o n m : Nat), s.atHead p (9 + te.val) o e ∧
    s.xfers p te = [] ∧ s.memOk ∧ s.ltOn = false ∧ s.badAtoms = [] ∧ (∀ k, (s.die k).fenced = none) ∧
    let x := s.pier p; let w := e.w0.toNat; let w1 := e.w1.toNat; let from_ (va la : Nat) : Prop := (va % 64 = 0 ∧ s.translate x.tag va .rd = .here la ∧ s.stackServes n la x.tag false); ∃ src dst idx,
    o = 0x54 ∧ fld w 96 16 = 0 ∧ fld w1 8 24 = 0 ∧ bit w 16 = false ∧ e.addr 1 < 2 ^ 41 ∧ e.addr 2 < 2 ^ 41 ∧
    e.addr 2 % 4 = 0 ∧ s.translate x.tag (e.addr 2) .rd = .here idx ∧ (∃ k, s.stackServes k idx x.tag false) ∧
    from_ ((e.addr 0 + 64 * ofBytes (Memory.readList s.mem idx 4) * fld w1 32 24) % 2 ^ 64) src ∧ e.addr 1 % 64 = 0 ∧
    s.translate x.tag (e.addr 1) .wr = .here dst ∧ s.stackServes m dst x.tag false) ∧
    (∃ (p : Pier), ∃ (te : Te), ∃ (s : State), ∃ (e : Entry), ∃ (o n m : Nat), s.atHead p (9 + te.val) o e ∧
    s.xfers p te = [] ∧ s.memOk ∧ s.ltOn = false ∧ s.badAtoms = [] ∧ (∀ k, (s.die k).fenced = none) ∧
    let x := s.pier p; let w := e.w0.toNat; let from_ (va la : Nat) : Prop := (va % 64 = 0 ∧ s.translate x.tag va .rd = .here la ∧ s.stackServes n la x.tag false); ∃ src dst,
    o = 0x58 ∧ fld w 72 24 = 0 ∧ fld w 16 3 = 0 ∧ fld w 96 8 = 0xBB ∧ fld w 112 16 = 0 ∧ e.addr 0 < 2 ^ 41 ∧
    e.addr 1 < 2 ^ 41 ∧ from_ (e.addr 0) src ∧ e.addr 1 % 64 = 0 ∧ s.translate x.tag (e.addr 1) .red = .here dst ∧
    s.stackServes m dst x.tag false) ∧
    (∃ (p : Pier), ∃ (te : Te), ∃ (s : State), ∃ (e : Entry), ∃ (o : Nat), s.atHead p (9 + te.val) o e ∧
    s.xfers p te = [] ∧ s.memOk ∧ s.ltOn = false ∧ s.badAtoms = [] ∧ (∀ k, (s.die k).fenced = none) ∧
    let x := s.pier p; let w := e.w0.toNat; ∃ module src rtag dst, o = 0x50 ∧ fld w 72 24 = 0 ∧ fld w 96 16 = 0 ∧
    e.addr 0 < 2 ^ 41 ∧ e.addr 1 < 2 ^ 41 ∧ e.addr 0 % 64 = 0 ∧ e.addr 1 % 64 = 0 ∧
    s.translate x.tag (e.addr 0) .rd = .far module src rtag ∧ s.translate x.tag (e.addr 1) .wr = .here dst) :=
  ⟨⟨2, 1, st13, _, 80, 2, 2, ⟨rfl, rfl⟩, by decide +kernel, by unfold State.memOk; decide +kernel, by decide +kernel,
    by decide +kernel, Tab.all_get (P := fun x : DieState => x.fenced = none) (by decide +kernel) (by decide +kernel),
    137648668672, 137650765952, head3 (by decide +kernel) (head3 (by decide +kernel) ⟨⟨by decide +kernel, by decide +kernel, ⟨_, rfl⟩, by decide +kernel⟩,
    by decide +kernel, by decide +kernel, ⟨⟨_, rfl⟩, by decide +kernel⟩⟩)⟩,
    ⟨2, 1, st14, _, 84, 2, 2, ⟨rfl, rfl⟩, by decide +kernel, by unfold State.memOk; decide +kernel, by decide +kernel,
    by decide +kernel, Tab.all_get (P := fun x : DieState => x.fenced = none) (by decide +kernel) (by decide +kernel),
    137648668672, 137650765952, 137648668736, head4 (by decide +kernel) (head4 (by decide +kernel) ⟨⟨2, ⟨_, rfl⟩, by decide +kernel⟩,
    ⟨by decide +kernel, by decide +kernel, ⟨_, rfl⟩, by decide +kernel⟩, by decide +kernel, by decide +kernel,
    ⟨⟨_, rfl⟩, by decide +kernel⟩⟩)⟩,
    ⟨2, 1, st15, _, 88, 2, 2, ⟨rfl, rfl⟩, by decide +kernel, by unfold State.memOk; decide +kernel, by decide +kernel,
    by decide +kernel, Tab.all_get (P := fun x : DieState => x.fenced = none) (by decide +kernel) (by decide +kernel),
    137648668672, 137648668736, head4 (by decide +kernel) (head3 (by decide +kernel) ⟨⟨by decide +kernel, by decide +kernel, ⟨_, rfl⟩, by decide +kernel⟩, by decide +kernel, by decide +kernel,
    ⟨⟨_, rfl⟩, by decide +kernel⟩⟩)⟩,
    ⟨2, 1, st16, _, 80, ⟨rfl, rfl⟩, by decide +kernel, by unfold State.memOk; decide +kernel, by decide +kernel,
    by decide +kernel, Tab.all_get (P := fun x : DieState => x.fenced = none) (by decide +kernel) (by decide +kernel), 5,
    161480768, 9000, 137648668800, by decide +kernel⟩⟩
/-- Engine te of pier p holds transfer y alone, begun and with nothing left to do but what the statement names. -/
def xferStands (p : Pier) (te : Te) (s : State) (y : Transfer) : Prop :=
  s.xfers p te = [y] ∧ y.fault = none ∧ y.begun = true ∧ y.todo = [] ∧ y.unread = none ∧ y.behind = []
/-- It is a GATHER with VCHK of one-atom rows whose stopped row's block is to be fetched again. -/
abbrev refetching (y : Transfer) : Prop :=
  opc y.entry.w0.toNat = 0x54 ∧ bit y.entry.w0.toNat 16 = true ∧ fld y.entry.w1.toNat 8 24 = 0 ∧ y.waiting = [] ∧
    y.refused = [] ∧ y.refetch = some { next := 0, got := [], waiting := none, expelled := false } ∧
    y.nextRow ≤ fld y.entry.w0.toNat 96 16

theorem witness_RepeatsAndShardRepair :
    (∃ (p : Pier), ∃ (te : Te), ∃ (s : State), (∀ y ∈ s.xfers p te, y.refetch = none ∨ y.fault ≠ none)) ∧
    (∃ (p : Pier), ∃ (te : Te), ∃ (s : State), ∃ (y : Transfer), xferStands p te s y ∧ let e := y.entry; let w := e.w0.toNat;
    ∃ (c : ChunkReq), ∃ (u : State), opc w = 0x58 ∧ y.waiting = [] ∧ y.refused = [{ req := c, remote := none, coll := none }] ∧
    s.crossFenced p c.dst.toNat c.tag.toNat = none ∧
    (s.updXfer p te y.id fun y => { y with refused := [] }).chunkServe c = (.accepted, u)) ∧
    (∃ (p : Pier), ∃ (te : Te), ∃ (s : State), ∃ (y : Transfer), xferStands p te s y ∧ let e := y.entry; let w := e.w0.toNat;
    ∃ (c : ChunkReq), ∃ (u : State), opc w = 0x58 ∧ y.waiting = [] ∧ y.refused = [{ req := c, remote := none, coll := none }] ∧
    s.crossFenced p c.dst.toNat c.tag.toNat = none ∧
    (s.updXfer p te y.id fun y => { y with refused := [] }).chunkServe c = (.refusedChunk, u)) ∧
    (∃ (p : Pier), ∃ (te : Te), ∃ (s : State), ∃ (y : Transfer), xferStands p te s y ∧ refetching y ∧
    ∃ d0 n m la, s.shardSource y.tag y.wantShard 0 = some d0 ∧ let from_ := srcSlot d0 y.wantVersion + s.rowOffset y;
    s.stackServes n from_ (srcTag d0) false ∧ s.stackServes m la y.tag false ∧ s.memOk ∧ (∀ k, (s.die k).fenced = none) ∧
    let d := Memory.readList s.mem from_ 64; srcModule d0 = s.moduleId ∧ from_ % 64 = 0 ∧ y.nextRow = fld y.entry.w0.toNat 96 16 ∧
    leAt d 8 4 = y.wantShard ∧ leAt d 4 4 = y.index y.nextRow ∧ leAt d 0 4 = y.wantVersion ∧ 0 < leAt d 12 4 ∧
    y.gDst y.nextRow % 64 = 0 ∧ s.translate y.tag (y.gDst y.nextRow) .wr = .here la ∧ s.badAtoms = [] ∧ s.ltOn = false) ∧
    (∃ (p : Pier), ∃ (te : Te), ∃ (s : State), ∃ (y : Transfer), xferStands p te s y ∧ refetching y ∧
    ∃ d0, s.shardSource y.tag y.wantShard 0 = some d0 ∧ srcModule d0 ≠ s.moduleId) ∧
    (∃ (p : Pier), ∃ (te : Te), ∃ (s : State), ∃ (y : Transfer), xferStands p te s y ∧ refetching y ∧
    (s.pier p).fault = none ∧ ∀ j < 3, s.shardSource y.tag y.wantShard j = none) ∧
    (∃ (p : Pier), ∃ (te : Te), ∃ (s : State), ∃ (y : Transfer), xferStands p te s y ∧ let e := y.entry; let w := e.w0.toNat;
    ∃ k r tx, opc w = 0x54 ∧ bit w 16 = true ∧ y.waiting = [tx] ∧
    s.farFind tx = some (k, r) ∧ r.packet.type = 2 ∧ r.txid = tx ∧ tx ≠ s.ks.txid % 2 ^ 32 ∧ r.packet.dst ≠ s.moduleId) :=
  ⟨⟨2, 1, st4, by decide +kernel⟩,
    ⟨2, 1, st17, _, ⟨rfl, by decide +kernel⟩, ck, _, head4 (by decide +kernel) (pair_of_fst (by decide +kernel))⟩,
    ⟨2, 1, st18, _, ⟨rfl, by decide +kernel⟩, ck, _, head4 (by decide +kernel) (pair_of_fst (by decide +kernel))⟩,
    ⟨2, 1, st19, gy, ⟨rfl, by decide +kernel⟩, by decide +kernel,
    sliceBytes (toBytes (0x8000 + demo.moduleId + tg * 2 ^ 16 + la0 * 2 ^ 48 + la0 * 2 ^ 96) 20) 0 20, 2, 2, 137650765952, by decide +kernel,
    ⟨⟨209715200, by decide +kernel⟩, by decide +kernel⟩, ⟨⟨_, rfl⟩, by decide +kernel⟩, by unfold State.memOk; decide +kernel, Tab.all_get (P := fun x : DieState => x.fenced = none) (by decide +kernel) (by decide +kernel), by decide +kernel⟩,
    ⟨2, 1, st20, gy, ⟨rfl, by decide +kernel⟩, by decide +kernel,
    toBytes (0x8007 + tg * 2 ^ 16 + la0 * 2 ^ 48 + la0 * 2 ^ 96) 20, by decide +kernel⟩,
    ⟨2, 1, st22, gy, ⟨rfl, by decide +kernel⟩, by decide +kernel⟩,
    ⟨2, 1, st21, _, ⟨rfl, by decide +kernel⟩, 1, fr, 44, by decide +kernel⟩⟩

end Sys2Proof.Tests.TransferStates

/-! ### States for the statements on links, span time and header flits -/

namespace Sys2Proof.Tests.LinkStates
open Sys2Proof Sys2Proof.Machine Sys2Proof.Tests

def lk (x : LinkState) : State := { ((demo.setReg (zlOff 3) 1).setReg (zlOff 3 + 0xC) 0xA) with links := [(3, { x with role := 0xA })] }
def L0 : LinkState := LinkState.reset
def up0 : LinkState := { L0 with phase := .up, step := 5, peerModule := 9, peerLink := 3, peerValid := true }
def fl (n : Nat) : Flit :=
  { vc := 1, pkt := { Packet.empty with dst := n }, idx := 0, resume := false, input := 4, inVc := 1, held := false }
def st0 : State := lk { L0 with phase := .training, step := 1 }
def st1 : State := lk { L0 with phase := .training, step := 2 }
def st2 : State := lk { L0 with phase := .training, step := 3 }
def st3 : State := lk { L0 with phase := .training, step := 4 }
def st4 : State := lk { L0 with phase := .training, step := 5 }
def st5 : State := lk { L0 with phase := .failed }
def st7 : State := (lk up0).setReg (zlOff 3) 0
def st8 : State := (lk L0).setReg (zlOff 3) 0
def st10 : State := lk { up0 with rxSeq := 65535, arriveSeq := 5 }
def st11 : State := lk { up0 with unacked := [fl 1, fl 2, fl 3, fl 4], ackSeq := 0 }
def st12 : State := { lk up0 with ts := { demo.ts with parent := 3, phase := .acquiring, sent := [(3, 1000), (3, 1001)] } }
def st13 : State := { (lk up0).setReg (tsOff + 8) (3 * 32) with ts := { demo.ts with parent := 7, phase := .locked } }
def st15 : State := { (lk up0).setReg (tsOff + 8) 1024 with ts := { demo.ts with parent := 31, count := 10^9 * 5 - 7, phase := .locked } }
def st16 : State := { lk up0 with routes := [(0, 0x3000000), (5, BitVec.ofNat 32 (2^25 + 8))] }
def st17 : State := (demo.setReg (zlOff 23) 1).setReg (zlOff 23 + 0xC) 0xA |> fun s => { s with links := [(23, { up0 with role := 0xA })], routes := [(0, 0x3000000)] }
def st18 : State := { st12 with ts := { st12.ts with phase := .holdover } }
def st19 : State := { st17 with dies := [(3, { DieState.reset with fenced := some tg })] }
def st20 : State := st17.updKs fun k => { k with truss := { k.truss with record := { k.truss.record with epoch := 5, members := [0] } } }
def pk (type dst hops src : Nat) : Packet :=
  { Packet.empty with type := type, dst := dst, hops := hops, src := src, tag := tg, len := 8, vc := if type < 0x80 then 0 else 2 }
def hd (type dst hops : Nat) : List Byte := (pk type dst hops 4).header
def eight : List Byte := toBytes 0x807060504030201 8
def slotOk (sb : Byte) (body : Nat) : Slot := { codeword := .clean, sideband := sb, body := toBytes body 256 }
def slotBad : Slot := { codeword := .uncorrectable, sideband := 0, body := List.replicate 256 0 }
/-- What the peer of a link says of itself, with every lane trained. -/
def ti (module link dim : Nat) (sign : Bool) : TrainInfo :=
  { module := BitVec.ofNat 13 module, link := BitVec.ofNat 5 link, dim := BitVec.ofNat 3 dim, sign := sign, lanes := 0xFFFF,
    firmware := 1 }

theorem witness_LinkService :
    (∃ (l : Lnk), ∃ (info : TrainInfo), ∃ (s : State), (s.link l).ctrlMb = none ∧
    let x := s.link l; s.mayTrain l = true ∧ x.phase = .training ∧ x.step = 1 ∧ laneCount (x.lanes ||| info.lanes) = 16) ∧
    (∃ (l : Lnk), ∃ (info : TrainInfo), ∃ (s : State), (s.link l).ctrlMb = none ∧
    let x := s.link l; s.mayTrain l = true ∧ x.phase = .training ∧ x.step = 1 ∧ laneCount (x.lanes ||| info.lanes) ≠ 16) ∧
    (∃ (l : Lnk), ∃ (info : TrainInfo), ∃ (s : State), (s.link l).ctrlMb = none ∧
    let x := s.link l; s.mayTrain l = true ∧ x.phase = .training ∧ x.step = 2) ∧
    (∃ (l : Lnk), ∃ (info : TrainInfo), ∃ (s : State), (s.link l).ctrlMb = none ∧
    let x := s.link l; s.mayTrain l = true ∧ x.phase = .training ∧ x.step = 3 ∧ s.roleOk l info = true) ∧
    (∃ (l : Lnk), ∃ (info : TrainInfo), ∃ (s : State), (s.link l).ctrlMb = none ∧
    let x := s.link l; s.mayTrain l = true ∧ x.phase = .training ∧ x.step = 3 ∧ x.role % 8 ≠ info.dim.toNat) ∧
    (∃ (l : Lnk), ∃ (info : TrainInfo), ∃ (s : State), (s.link l).ctrlMb = none ∧
    let x := s.link l; s.mayTrain l = true ∧ x.phase = .training ∧ x.step = 4) ∧
    (∃ (l : Lnk), ∃ (info : TrainInfo), ∃ (s : State), (s.link l).ctrlMb = none ∧
    let x := s.link l; s.mayTrain l = true ∧ x.phase = .training ∧ x.step = 5 ∧ s.ks.truss.member = false) ∧
    (∃ (l : Lnk), ∃ (info : TrainInfo), ∃ (s : State), (s.link l).ctrlMb = none ∧
    let x := s.link l; x.phase = .training) ∧
    (∃ (l : Lnk), ∃ (info : TrainInfo), ∃ (s : State), (s.link l).ctrlMb = none ∧
    let x := s.link l; x.phase = .failed ∧ s.mayTrain l = true) ∧
    (∃ (l : Lnk), ∃ (s : State), (s.link l).ctrlMb = none ∧ s.ks.truss.member = false ∧
    let x := s.link l; x.phase = .up ∧ x.unacked = [] ∧ x.txq = [] ∧ s.mayTrain l = true) ∧
    (∃ (l : Lnk), ∃ (s : State), (s.link l).ctrlMb = none ∧ s.ks.truss.member = false ∧
    let x := s.link l; x.phase = .up ∧ x.unacked = [] ∧ x.txq = [] ∧ s.mayTrain l = false) ∧
    (∃ (l : Lnk), ∃ (s : State), (s.link l).ctrlMb = none ∧ s.ks.truss.member = false ∧
    let x := s.link l; x.phase = .down ∧ s.isRunning = true ∧ s.linkOff l = false ∧ x.roleBad = false) :=
  ⟨⟨3, ti 9 4 2 false, st0, by decide +kernel⟩,
    ⟨3, { ti 9 4 2 false with lanes := 7 }, st0, by decide +kernel⟩,
    ⟨3, ti 9 4 2 false, st1, by decide +kernel⟩,
    ⟨3, ti 9 4 2 false, st2, by decide +kernel⟩,
    ⟨3, ti 9 4 3 true, st2, by decide +kernel⟩,
    ⟨3, ti 9 4 2 false, st3, by decide +kernel⟩,
    ⟨3, ti 9 4 2 false, st4, by decide +kernel⟩,
    ⟨3, ti 9 4 2 false, st4, by decide +kernel⟩,
    ⟨3, ti 9 4 2 false, st5, by decide +kernel⟩,
    ⟨23, st17, by decide +kernel⟩,
    ⟨3, st7, by decide +kernel⟩,
    ⟨3, st8, by decide +kernel⟩⟩
/-- Slot y comes in on link l, which is UP, with no load test. -/
abbrev slotComes (l : Lnk) (s : State) (y : Slot) : Prop :=
  (s.link l).phase = .up ∧ (∀ v ∈ (s.link l).owed, v < 4) ∧ s.ltOn = false ∧ y.body.length = 256
abbrev slotIsBad (x : LinkState) (y : Slot) : Prop :=
  ((x.rxSlot = 0 ∨ x.rxSlot = 2) ∧ y.codeword = .uncorrectable) ∨ (x.rxSlot ≠ 0 ∧ x.rxBad = true)
abbrev plainSlot (y : Slot) : Prop :=
  y.sideband.getLsbD 5 = false ∧ y.sideband.getLsbD 6 = false ∧ y.sideband.getLsbD 7 = false

theorem witness_SlotsAndReplay :
    (∃ (l : Lnk), ∃ (s : State), ∃ (y : Slot), slotComes l s y ∧ let x := s.link l; (x.rxSlot = 0 ∨ x.rxSlot = 2) ∧ y.codeword = .uncorrectable ∧ x.txq = []) ∧
    (∃ (l : Lnk), ∃ (s : State), ∃ (y : Slot), slotComes l s y ∧ let x := s.link l; x.rxSlot ≠ 0 ∧ x.rxBad = true ∧ x.txq = []) ∧
    (∃ (l : Lnk), ∃ (s : State), ∃ (y : Slot), slotComes l s y ∧ let x := s.link l; slotIsBad x y ∧ x.replayDue = true ∧ x.unacked ≠ []) ∧
    (∃ (l : Lnk), ∃ (s : State), ∃ (y : Slot), slotComes l s y ∧ let x := s.link l; slotIsBad x y ∧ ∃ f r, x.replayDue = false ∧ x.resend = f :: r) ∧
    (∃ (l : Lnk), ∃ (s : State), ∃ (y : Slot), slotComes l s y ∧ let x := s.link l; slotIsBad x y ∧ ∃ f, x.replayDue = false ∧ x.resend = [] ∧ x.unacked.length < 512 ∧ x.txq = [f] ∧ f.first = true ∧ f.input < 25 ∧
    f.held = false ∧ x.credit f = true ∧ f.vc ∉ x.txOpen) ∧
    (∃ (l : Lnk), ∃ (s : State), ∃ (y : Slot), slotComes l s y ∧ let x := s.link l; ¬slotIsBad x y ∧ plainSlot y ∧ y.sideband.getLsbD 2 = false ∧ x.txq = [] ∧ x.discard = false ∧ x.arriveSeq = x.rxSeq) ∧
    (∃ (l : Lnk), ∃ (s : State), ∃ (y : Slot), slotComes l s y ∧ let x := s.link l; ¬slotIsBad x y ∧ plainSlot y ∧ y.sideband.getLsbD 2 = false ∧ x.txq = [] ∧ x.discard = false ∧ x.arriveSeq ≠ x.rxSeq) ∧
    (∃ (l : Lnk), ∃ (s : State), ∃ (y : Slot), slotComes l s y ∧ let x := s.link l; ¬slotIsBad x y ∧ plainSlot y ∧ y.sideband.getLsbD 2 = false ∧ x.txq = [] ∧ x.discard = true) ∧
    (∃ (l : Lnk), ∃ (s : State), ∃ (y : Slot), slotComes l s y ∧ let x := s.link l; ¬slotIsBad x y ∧ plainSlot y ∧ y.sideband.getLsbD 2 = true ∧ leAt y.body 0 1 = 1 ∧ x.txq = []) ∧
    (∃ (l : Lnk), ∃ (s : State), ∃ (y : Slot), slotComes l s y ∧ let x := s.link l; ¬slotIsBad x y ∧ plainSlot y ∧ y.sideband.getLsbD 2 = true ∧ leAt y.body 0 1 = 2 ∧ x.txq = [] ∧ x.unacked = [] ∧ s.ks.truss.member = false) ∧
    (∃ (l : Lnk), ∃ (s : State), let x := s.link l; x.phase = .up ∧ (∀ v ∈ x.owed, v < 4) ∧ x.unacked ≠ [] ∧
    (x.replays.filter fun t => s.elapsed < t + 100000).length < 15) ∧
    (∃ (l : Lnk), ∃ (s : State), let x := s.link l; x.phase = .up ∧ (∀ v ∈ x.owed, v < 4) ∧ ∃ frame n,
    sideOk frame = true ∧ leAt frame 0 1 = 0 ∧ x.ackSeq < 2 ^ 16 ∧ n ≤ x.unacked.length ∧ n < 2 ^ 16 ∧
    leAt frame 1 2 = (x.ackSeq + n) % 2 ^ 16 ∧ x.txq = []) :=
  ⟨⟨3, lk up0, slotBad, by decide +kernel⟩,
    ⟨3, lk { up0 with rxSlot := 4, rxBad := true }, slotOk 3 0, by decide +kernel⟩,
    ⟨3, lk { up0 with replayDue := true, unacked := [fl 1] }, slotBad, by decide +kernel⟩,
    ⟨3, lk { up0 with resend := [fl 1, fl 2], unacked := [fl 1, fl 2] }, slotBad, by decide +kernel, by decide +kernel, fl 1, [fl 2], by decide +kernel⟩,
    ⟨3, lk { up0 with txq := [fl 1] }, slotBad, by decide +kernel, by decide +kernel, fl 1, by decide +kernel⟩,
    ⟨23, st17, slotOk 3 0, by decide +kernel⟩,
    ⟨3, st10, slotOk 3 0, by decide +kernel⟩,
    ⟨3, lk { up0 with discard := true }, slotOk 3 0, by decide +kernel⟩,
    ⟨3, lk { up0 with discard := true }, slotOk 7 1, by decide +kernel⟩,
    ⟨3, lk up0, slotOk 7 2, by decide +kernel⟩,
    ⟨3, st11, by decide +kernel⟩,
    ⟨23, st17, by decide +kernel, by decide +kernel,
    toBytes 0xe6a4de77000000000000000000000000000000000000000000000000000000 31, 0, by decide +kernel⟩⟩

theorem witness_SpanTimeEvents :
    (∃ (s : State), ∃ (l : Lnk), ∃ (f : TimeFrame), s.ts.parent = l.val ∧ (s.link l).phase = .up ∧
    s.ts.phase = .acquiring ∧ (l.val, f.echo) ∈ s.ts.sent ∧ f.t4 ≤ f.echo + 64000 ∧ s.ts.stepped = false) ∧
    (∃ (s : State), ∃ (l : Lnk), s.ts.parent ≠ l.val) ∧
    (∃ (s : State), s.ts.phase = .holdover) ∧
    (∃ (s : State), let root := s.ts.parent = 31; (¬root) ∧ (s.ts.phase = .acquiring ∨ s.ts.phase = .locked) ∧
    let alt := (s.reg (tsOff + 8)).toNat / 32 % 32; alt < 24 ∧ (s.link alt).phase = .up) ∧
    (∃ (s : State), let root := s.ts.parent = 31; (¬root) ∧ (s.ts.phase = .acquiring ∨ s.ts.phase = .locked) ∧
    let alt := (s.reg (tsOff + 8)).toNat / 32 % 32; ¬(alt < 24 ∧ (s.link alt).phase = .up)) ∧
    (∃ (s : State), let root := s.ts.parent = 31; root ∧ (s.reg (tsOff + 8)).getLsbD 10 = true ∧
    s.ts.count.toNat % 10 ^ 9 ≤ 200000) ∧
    (∃ (s : State), let root := s.ts.parent = 31; root ∧ s.ts.phase = .free) ∧
    (∃ (s : State), let root := s.ts.parent = 31; (¬root ∨ s.ts.phase ≠ .free)) :=
  ⟨⟨st12, 3, { tx := 2000, echo := 1001, rx := 1900, depth := 1, locked := true, t4 := 3001 }, by decide +kernel⟩,
    ⟨st17, 23, by decide +kernel⟩,
    ⟨st18, by decide +kernel⟩,
    ⟨st13, by decide +kernel⟩,
    ⟨{ st13 with links := [] }, by decide +kernel⟩,
    ⟨{ st15 with ts := { st15.ts with count := 7 * 10 ^ 9 + 200000 } }, by decide +kernel⟩,
    ⟨st17, by decide +kernel⟩,
    ⟨st15, by decide +kernel⟩⟩
/-- Input inp of die k takes header flits of src. -/
def comesFrom (src : FlitSrc) (s : State) (k inp : Nat) : Prop :=
  (∃ d : Die, src = .unit d ∧ k = d.val ∧ inp = 24) ∨
    ∃ l : Lnk, src = .link l ∧ k = l.val / 6 ∧ inp = l.val ∧ (s.link l).phase = .up

theorem witness_HeaderFlits :
    (∃ (src : FlitSrc), ∃ (s : State), ∃ l : Lnk, src = .link l ∧ (s.link l).phase ≠ .up) ∧
    (∃ (src : FlitSrc), ∃ (header payload : List Byte), ∃ (s : State), ∃ (k inp : Nat), comesFrom src s k inp ∧
    let p := parseHeader header payload; hcrcOk header = true ∧ p.type = 0 ∧ inp < 24) ∧
    (∃ (src : FlitSrc), ∃ (header payload : List Byte), ∃ (s : State), ∃ (k inp : Nat), comesFrom src s k inp ∧
    let p := parseHeader header payload; hcrcOk header = false) ∧
    (∃ (src : FlitSrc), ∃ (header payload : List Byte), ∃ (s : State), ∃ (k inp : Nat), comesFrom src s k inp ∧
    let p := parseHeader header payload; hcrcOk header = true ∧ typeKnown p.type = false ∧ p.type ≠ 0) ∧
    (∃ (src : FlitSrc), ∃ (header payload : List Byte), ∃ (s : State), ∃ (k inp : Nat), comesFrom src s k inp ∧
    let p := parseHeader header payload; hcrcOk header = true ∧ typeKnown p.type = false ∧ inp = 24) ∧
    (∃ (src : FlitSrc), ∃ (header payload : List Byte), ∃ (s : State), ∃ (k inp : Nat), comesFrom src s k inp ∧
    let p := parseHeader header payload; let die : Nat := (match s.routeOf p with | .out m => if inp = 24 then m / 6 else k | .here => k | .noRoute => k | .hopLimit => k); hcrcOk header = true ∧ typeKnown p.type = true ∧ (s.die die).fences p = true) ∧
    (∃ (src : FlitSrc), ∃ (header payload : List Byte), ∃ (s : State), ∃ (k inp : Nat), comesFrom src s k inp ∧
    let p := parseHeader header payload; let die : Nat := (match s.routeOf p with | .out m => if inp = 24 then m / 6 else k | .here => k | .noRoute => k | .hopLimit => k); hcrcOk header = true ∧ typeKnown p.type = true ∧ (s.die die).fences p = false ∧ s.routeOf p = .here ∧ s.nonMember p = false) ∧
    (∃ (src : FlitSrc), ∃ (header payload : List Byte), ∃ (s : State), ∃ (k inp : Nat), comesFrom src s k inp ∧
    let p := parseHeader header payload; let die : Nat := (match s.routeOf p with | .out m => if inp = 24 then m / 6 else k | .here => k | .noRoute => k | .hopLimit => k); hcrcOk header = true ∧ typeKnown p.type = true ∧ (s.die die).fences p = false ∧ s.routeOf p = .here ∧ s.nonMember p = true) ∧
    (∃ (src : FlitSrc), ∃ (header payload : List Byte), ∃ (s : State), ∃ (k inp : Nat), comesFrom src s k inp ∧
    let p := parseHeader header payload; let die : Nat := (match s.routeOf p with | .out m => if inp = 24 then m / 6 else k | .here => k | .noRoute => k | .hopLimit => k); hcrcOk header = true ∧ typeKnown p.type = true ∧ (s.die die).fences p = false ∧ s.routeOf p = .out 3) ∧
    (∃ (src : FlitSrc), ∃ (header payload : List Byte), ∃ (s : State), ∃ (k inp : Nat), comesFrom src s k inp ∧
    let p := parseHeader header payload; let die : Nat := (match s.routeOf p with | .out m => if inp = 24 then m / 6 else k | .here => k | .noRoute => k | .hopLimit => k); hcrcOk header = true ∧ typeKnown p.type = true ∧ (s.die die).fences p = false ∧ s.routeOf p = .out 3) ∧
    (∃ (src : FlitSrc), ∃ (header payload : List Byte), ∃ (s : State), ∃ (k inp : Nat), comesFrom src s k inp ∧
    let p := parseHeader header payload; let die : Nat := (match s.routeOf p with | .out m => if inp = 24 then m / 6 else k | .here => k | .noRoute => k | .hopLimit => k); hcrcOk header = true ∧ typeKnown p.type = true ∧ (s.die die).fences p = false ∧ s.routeOf p = .noRoute ∧ p.isReq = true) ∧
    (∃ (src : FlitSrc), ∃ (header payload : List Byte), ∃ (s : State), ∃ (k inp : Nat), comesFrom src s k inp ∧
    let p := parseHeader header payload; let die : Nat := (match s.routeOf p with | .out m => if inp = 24 then m / 6 else k | .here => k | .noRoute => k | .hopLimit => k); hcrcOk header = true ∧ typeKnown p.type = true ∧ (s.die die).fences p = false ∧ s.routeOf p = .hopLimit ∧ p.isReq = true) ∧
    (∃ (src : FlitSrc), ∃ (header payload : List Byte), ∃ (s : State), ∃ (k inp : Nat), comesFrom src s k inp ∧
    let p := parseHeader header payload; let die : Nat := (match s.routeOf p with | .out m => if inp = 24 then m / 6 else k | .here => k | .noRoute => k | .hopLimit => k); hcrcOk header = true ∧ typeKnown p.type = true ∧ (s.die die).fences p = false ∧ s.routeOf p = .noRoute ∧ p.isReq = false) ∧
    (∃ (src : FlitSrc), ∃ (header payload : List Byte), ∃ (s : State), ∃ (k inp : Nat), comesFrom src s k inp ∧
    let p := parseHeader header payload; let die : Nat := (match s.routeOf p with | .out m => if inp = 24 then m / 6 else k | .here => k | .noRoute => k | .hopLimit => k); hcrcOk header = true ∧ typeKnown p.type = true ∧ (s.die die).fences p = false ∧ s.routeOf p = .hopLimit ∧ p.isReq = false) :=
  ⟨⟨.link 4, st17, 4, by decide +kernel⟩,
    ⟨.link 23, hd 0 0 0, eight, st17, 3, 23, .inr ⟨23, by decide +kernel⟩, by decide +kernel⟩,
    ⟨.link 23, eight, eight, st17, 3, 23, .inr ⟨23, by decide +kernel⟩, by decide +kernel⟩,
    ⟨.link 23, hd 9 0 0, eight, st17, 3, 23, .inr ⟨23, by decide +kernel⟩, by decide +kernel⟩,
    ⟨.unit 3, hd 0 0 0, eight, st17, 3, 24, .inl ⟨3, by decide⟩, by decide +kernel⟩,
    ⟨.link 23, hd 1 0 0, eight, st19, 3, 23, .inr ⟨23, by decide +kernel⟩, by decide +kernel⟩,
    ⟨.link 23, hd 1 0 0, eight, st17, 3, 23, .inr ⟨23, by decide +kernel⟩, by decide +kernel⟩,
    ⟨.link 23, hd 1 0 0, eight, st20, 3, 23, .inr ⟨23, by decide +kernel⟩, by decide +kernel⟩,
    ⟨.link 3, hd 1 5 0, eight, st16, 0, 3, .inr ⟨3, by decide +kernel⟩, by decide +kernel⟩,
    ⟨.unit 3, hd 1 5 0, eight, st16, 3, 24, .inl ⟨3, by decide⟩, by decide +kernel⟩,
    ⟨.link 23, hd 1 6 0, eight, st17, 3, 23, .inr ⟨23, by decide +kernel⟩, by decide +kernel⟩,
    ⟨.link 3, hd 1 5 63, eight, st16, 0, 3, .inr ⟨3, by decide +kernel⟩, by decide +kernel⟩,
    ⟨.link 23, hd 0x81 6 0, eight, st17, 3, 23, .inr ⟨23, by decide +kernel⟩, by decide +kernel⟩,
    ⟨.link 3, hd 0x81 5 63, eight, st16, 0, 3, .inr ⟨3, by decide +kernel⟩, by decide +kernel⟩⟩

end Sys2Proof.Tests.LinkStates

/-! ### States for the statements on requests, answers, collectives and reshard jobs -/

namespace Sys2Proof.Tests.SwitchStates
open Sys2Proof Sys2Proof.Machine Sys2Proof.Tests

def inb (p : Packet) (f : State → State) : State := f { demo.updDie 1 (fun d => { d with inbox := [p] }) with mem := Memory.writeList [] la0 [1,2,3,4,5,6,7,8,9] }
def pk : Packet := { Packet.empty with type := 1, src := 9, dst := 0, tag := tg, stag := 3, addr := la0 + 64, len := 64, txid := 44, payload := toBytes 0xFFEE00 64 }
def w0 : Window := { Window.reset with state := .opn, tag := tg, sfmt := 11, dfmt := 11, dst := 0, sum := 2^20, park := 2^20 + 2^18, len := 1, parkLen := 1024, n := 2, round := 3, epoch := 9, dstLa := la0, donePier := 4, doneTc := 5, doneInc := 6 }
def ckP (rank round epoch : Nat) : Packet := { pk with type := 3, addr := la0, epoch := epoch, spec := toBytes rank 2 ++ toBytes round 2 ++ toBytes 0 4 ++ toBytes 1 2 ++ [9, 0xBB] ++ toBytes 0 4, payload := toBytes 5 64 }
def cl0 : Collective := { Collective.reset with state := .opn, op := 0, sfmt := 11, dfmt := 11, tag := tg, len := 64, n := 2, rank := 0, owner := 0, round := 3, epoch := 9, all := true, dst := 0, doneEn := true, donePier := 3, doneTc := 4, doneInc := -2, group := 5, event := true }
def clP (rank count epoch : Nat) : Packet := { pk with type := 4, addr := 0, epoch := epoch, spec := toBytes rank 2 ++ toBytes 3 2 ++ toBytes 0 4 ++ toBytes count 2 ++ [255, 1] ++ toBytes 0 4, payload := toBytes 5 64 }
def grp (s : State) : State := s.updKs fun k => { k with groups := [(5, [0, 9])] }
def fr : FarReq := { txid := 44, dst := 7, tag := 9, stag := tg, addr := 64, raddr := la0 + 128, len := 64, unit := .engine 2 1 3, relay := none, off := 0, packet := { ckP 0 3 9 with txid := 44 }, issued := 0, timeout := 100 }
def ans (p : Packet) : State := withXfer { xferY (xferE (iw 0x50 [(8,1), (10,63)]) 3 [2^40, 128]) with waiting := [44] } fun s => (s.updDie 1 fun d => { d with inbox := [p] }).updDie 3 fun d => { d with far := [fr] }
def jh (f c sd : Nat) : List Byte := toBytes tg 3 ++ [BitVec.ofNat 8 f] ++ toBytes 1 2 ++ [0xAA, 0] ++ toBytes 0 8 ++ toBytes (la0 + 4096) 6 ++ toBytes 0 6 ++ toBytes 5 1 ++ toBytes 6 1 ++ toBytes 65535 2 ++ toBytes 0 32
def jp : List Byte := toBytes (2^40 + 2^29 + 64) 6 ++ toBytes 0 2 ++ toBytes 64 4 ++ toBytes 1 4 ++ toBytes 64 4 ++ toBytes 0 2 ++ toBytes tg 3 ++ [0] ++ toBytes (2^40 + 2^29 + 4096) 6 ++ toBytes 64 4 ++ toBytes 0 28
def jb (f : Nat) : ReshardJob :=
  { addr := la0, header := jh f 0 0, mb := none, waiting := [], rowsDone := 0, rowsTotal := 0, pieces := 0,
    report := ConvReport.reset, failed := none, bad := [] }
def jm (s : State) : State := { s with mem := Memory.writeList (Memory.writeList (Memory.writeList [] la0 (jh 0 0 0)) (la0 + 4096) jp) (2^40 + 2^29 + 64) [1,2,3,4,5,6,7] }
def st0 : State := inb pk id
def st1 : State := inb { pk with type := 2 } id
def st3 : State := inb (ckP 0 4 9) fun s => s.updWin 2 1 fun _ => w0
def st4 : State := inb (ckP 0 5 9) fun s => s.updWin 2 1 fun _ => w0
def st5 : State := inb (ckP 2 3 9) fun s => s.updWin 2 1 fun _ => w0
def st6 : State := inb (clP 0 1 9) id
def st7 : State := inb (clP 0 1 8) fun s => s.updColl 255 fun _ => cl0
def st10 : State := inb (clP 1 1 9) fun s => grp (s.updColl 255 fun _ => { cl0 with rank := 1 })
def st11 : State := inb { pk with type := 5, spec := toBytes 0x801 16 } id
def st12 : State := (demo.updDie 1 fun d => { d with counts := [(15, 200, true)] }) |> fun s => (s.setReg (rshOff 1 + 0x100 + 32 * 15 + 12) 100).setReg (rshOff 1 + 0x100 + 32 * 15 + 20) 30
def st13 : State := inb { pk with type := 0x81 } id
def st14 : State := inb { pk with type := 0x82 } id
def st15 : State := inb { pk with type := 0x83 } id
def st16 : State := inb { pk with type := 0x84 } id
def st17 : State := ans { pk with type := 0x81, txid := 44 }
def st18 : State := ans { pk with type := 0x82, txid := 44 }
def st19 : State := ans { pk with type := 0x83, txid := 44, payload := toBytes 1 64 }
def st20 : State := ans { pk with type := 0x84, txid := 44, status := 0x304 }
def st22 : State := demo.updColl 255 fun _ => { cl0 with complete := true, round := 65535, event := false, doneEn := false }
def st23 : State := demo.updColl 5 fun _ => { cl0 with refused := [{ clP 0 1 9 with dst := 9 }] }
def st27 : State := ((demo.setReg (rshOff 2) 1).updDie 2 fun d => { d with jobs := [{ jb 0 with header := (jh 0 0 0).set 21 0x70 }, jb 1] })
def st29 : State := (demo.updDie 2 fun d => { d with running := some { jb 0 with failed := some (0, 0x304) }, jobs := [jb 0] })
def st31 : State := inb { ckP 0 3 9 with tag := 9000 } id
def st35 : State := { jm ((demo.setReg (rshOff 2) 1).updDie 2 fun d => { d with jobs := [jb 0, jb 1] }) with owners := [(pg, BitVec.ofNat 32 (ownerWord tg 1 true)), (524544, BitVec.ofNat 32 (ownerWord tg 1 false))] }
def st36 : State := inb (ckP 0 3 9) fun s => s.updWin 2 1 fun _ => w0
def st37 : State := inb (clP 0 1 9) fun s => s.updColl 255 fun _ => { cl0 with round := 2 }
def st38 : State := inb (clP 0 1 9) fun s => s.updColl 255 fun _ => { cl0 with round := 7 }
/-- A VOTE round of step 5, and the record of step 7. -/
def st39 : State := inb { clP 1 1 9 with payload := toBytes 7 64 } fun s => grp (s.updColl 255 fun _ => { cl0 with op := 6, len := 1, mine := [(0, toBytes 5 64)] })

theorem witness_RequestsServed :
    (∃ (k : Die), ∃ (s : State), ∀ ty ∈ [1, 2, 3, 4, 5], s.inboxFirst k ty = none) ∧
    (∃ (k : Die), ∃ (s : State), ∃ (p : Packet), ∃ (n : Nat), s.inboxFirst k 1 = some p ∧ s.lrMatch k p = none ∧
    s.stackServes n p.addr p.tag true ∧ p.addr % 64 = 0 ∧ p.payload.length = 64 ∧ s.memOk ∧ s.badAtoms = []) ∧
    (∃ (k : Die), ∃ (s : State), ∃ (p : Packet), ∃ (n : Nat), s.inboxFirst k 2 = some p ∧
    bit (s.serveWord k (tagCtx p.tag) 1) 1 = false ∧ s.stackServes n p.addr p.tag true ∧ p.addr % 64 = 0 ∧ p.len = 64 ∧
    s.ltOn = false ∧ s.badAtoms = []) ∧
    (∃ (k : Die), ∃ (s : State), ∃ (p : Packet), ∃ c u, s.inboxFirst k 3 = some p ∧ bit (leAt p.spec 10 1) 0 = true ∧
    packetChunks p = [c] ∧ (s.inboxTake k p).chunkServe c = (.stale, u)) ∧
    (∃ (k : Die), ∃ (s : State), ∃ (p : Packet), ∃ c u, s.inboxFirst k 3 = some p ∧ bit (leAt p.spec 10 1) 0 = true ∧
    packetChunks p = [c] ∧ (s.inboxTake k p).chunkServe c = (.refusedChunk, u)) ∧
    (∃ (k : Die), ∃ (s : State), ∃ (p : Packet), ∃ c u, s.inboxFirst k 3 = some p ∧ bit (leAt p.spec 10 1) 0 = true ∧
    packetChunks p = [c] ∧ (s.inboxTake k p).chunkServe c = (.accepted, u)) ∧
    (∃ (k : Die), ∃ (s : State), ∃ (p : Packet), ∃ c u, s.inboxFirst k 3 = some p ∧ bit (leAt p.spec 10 1) 0 = true ∧
    packetChunks p = [c] ∧ ∃ code, (s.inboxTake k p).chunkServe c = (.fault code, u)) ∧
    (∃ (k : Die), ∃ (s : State), ∃ (p : Packet), s.inboxFirst k 4 = some p ∧ let d := leAt p.spec 10 1; let x := s.coll d; let count := leAt p.spec 8 2;
    (x.state ≠ .opn ∨ x.tag ≠ p.tag)) ∧
    (∃ (k : Die), ∃ (s : State), ∃ (p : Packet), s.inboxFirst k 4 = some p ∧ let d := leAt p.spec 10 1; let x := s.coll d; let count := leAt p.spec 8 2;
    x.state = .opn ∧ x.tag = p.tag ∧ p.epoch ≠ x.epoch) ∧
    (∃ (k : Die), ∃ (s : State), ∃ (p : Packet), s.inboxFirst k 4 = some p ∧ let d := leAt p.spec 10 1; let x := s.coll d; let count := leAt p.spec 8 2;
    x.state = .opn ∧ x.tag = p.tag ∧ p.epoch = x.epoch ∧ leAt p.spec 2 2 ≠ x.round ∧ leAt p.spec 2 2 = (x.round + 1) % 2 ^ 16) ∧
    (∃ (k : Die), ∃ (s : State), ∃ (p : Packet), s.inboxFirst k 4 = some p ∧ let d := leAt p.spec 10 1; let x := s.coll d; let count := leAt p.spec 8 2;
    x.state = .opn ∧ x.tag = p.tag ∧ p.epoch = x.epoch ∧ leAt p.spec 2 2 ≠ x.round ∧ leAt p.spec 2 2 ≠ (x.round + 1) % 2 ^ 16) ∧
    (∃ (k : Die), ∃ (s : State), ∃ (p : Packet), s.inboxFirst k 4 = some p ∧ let taken := s.inboxTake k p; let d := leAt p.spec 10 1; let x := s.coll d; let count := leAt p.spec 8 2;
    ∃ u, taken.collChunk d (leAt p.spec 11 1) (leAt p.spec 0 2 % 8192) (leAt p.spec 4 4) p.payload = (true, u) ∧
    x.state = .opn ∧ x.tag = p.tag ∧ p.epoch = x.epoch ∧ leAt p.spec 2 2 = x.round ∧ count = 1 ∧ p.payload.length ≤ (if x.op = 0 then x.outBytes 4096 else 4096) ∧ 0 < p.payload.length) ∧
    (∃ (k : Die), ∃ (s : State), ∃ (p : Packet), s.inboxFirst k 4 = some p ∧ let taken := s.inboxTake k p; let d := leAt p.spec 10 1; let x := s.coll d; let count := leAt p.spec 8 2;
    ∃ u, taken.collChunk d (leAt p.spec 11 1) (leAt p.spec 0 2 % 8192) (leAt p.spec 4 4) p.payload = (false, u) ∧
    x.state = .opn ∧ x.tag = p.tag ∧ p.epoch = x.epoch ∧ leAt p.spec 2 2 = x.round ∧ count = 1 ∧ p.payload.length ≤ (if x.op = 0 then x.outBytes 4096 else 4096) ∧ 0 < p.payload.length) ∧
    (∃ (k : Die), ∃ (s : State), ∃ (p : Packet), s.inboxFirst k 5 = some p ∧ s.ks.phase ≠ .held ∧ leAt p.spec 0 2 ≠ 0x0700) ∧
    (∃ (k : Die), ∃ (s : State), ∃ i len, (s.die k).counts = [(i, len, true)] ∧ 0 < s.lrSlot k i ∧
    s.lrWord k i 5 + len < 2 ^ 32 ∧ i < 16) :=
  ⟨⟨0, demo, by decide +kernel⟩,
    ⟨1, st0, _, 2, rfl, by decide +kernel, ⟨⟨_, rfl⟩, by decide +kernel⟩, by unfold State.memOk; decide +kernel⟩,
    ⟨1, st1, _, 2, rfl, by decide +kernel, ⟨⟨_, rfl⟩, by decide +kernel⟩, by decide +kernel⟩,
    ⟨1, st31, _, _, _, rfl, by decide +kernel, rfl, pair_of_fst (by decide +kernel)⟩,
    ⟨1, st3, _, _, _, rfl, by decide +kernel, rfl, pair_of_fst (by decide +kernel)⟩,
    ⟨1, st36, _, _, _, rfl, by decide +kernel, rfl, pair_of_fst (by decide +kernel)⟩,
    ⟨1, st5, _, _, _, rfl, by decide +kernel, rfl, 817, pair_of_fst (by decide +kernel)⟩,
    ⟨1, st6, _, rfl, by decide +kernel⟩,
    ⟨1, st7, _, rfl, by decide +kernel⟩,
    ⟨1, st37, _, rfl, by decide +kernel⟩,
    ⟨1, st38, _, rfl, by decide +kernel⟩,
    ⟨1, st10, _, rfl, _, pair_of_fst (by decide +kernel), by decide +kernel⟩,
    ⟨1, st39, _, rfl, _, pair_of_fst (by decide +kernel), by decide +kernel⟩,
    ⟨1, st11, _, rfl, by decide +kernel⟩,
    ⟨1, st12, 15, 200, by decide +kernel⟩⟩
/-- Transfer y stands alone in its engine and waits for the answer a of request r alone. -/
def awaits (s : State) (a : Packet) (r : FarReq) (p te : Nat) (y : Transfer) : Prop :=
  (∃ j, s.farFind a.txid = some (j, r)) ∧ s.xfers p te = [y] ∧ r.unit = .engine p te y.id ∧ y.waiting = [r.txid] ∧
    y.begun = true ∧ y.refused = [] ∧ y.fault = none ∧ y.fetch = [] ∧ y.todo = [] ∧ y.unread = none ∧ y.behind = [] ∧
    opc y.entry.w0.toNat ≠ 0x54 ∧ (opc y.entry.w0.toNat = 0x50 → bit y.entry.w0.toNat 22 = false)
def farY : Transfer := { xferY (xferE (iw 0x50 [(8,1), (10,63)]) 3 [2^40, 128]) with waiting := [44] }

theorem witness_AnswersTaken :
    (∃ (k : Die), ∃ (s : State), ∀ ty ∈ [0x81, 0x82, 0x83, 0x84], s.inboxFirst k ty = none) ∧
    (∃ (k : Die), ∃ (s : State), ∃ (a : Packet), s.farFind a.txid = none ∧ s.inboxFirst k 0x81 = some a) ∧
    (∃ (k : Die), ∃ (s : State), ∃ (a : Packet), s.farFind a.txid = none ∧ s.inboxFirst k 0x82 = some a) ∧
    (∃ (k : Die), ∃ (s : State), ∃ (a : Packet), s.farFind a.txid = none ∧ s.inboxFirst k 0x83 = some a) ∧
    (∃ (k : Die), ∃ (s : State), ∃ (a : Packet), s.farFind a.txid = none ∧ s.inboxFirst k 0x84 = some a) ∧
    (∃ (k : Die), ∃ (s : State), ∃ (a : Packet), ∃ (r : FarReq), ∃ (p te : Nat), ∃ (y : Transfer),
    awaits s a r p te y ∧ s.inboxFirst k 0x81 = some a) ∧
    (∃ (k : Die), ∃ (s : State), ∃ (a : Packet), ∃ (r : FarReq), ∃ (p te : Nat), ∃ (y : Transfer),
    awaits s a r p te y ∧ ∃ n, s.inboxFirst k 0x82 = some a ∧
    r.relay = none ∧ r.len = 64 ∧ a.payload.length = 64 ∧ r.raddr % 64 = 0 ∧ s.stackServes n r.raddr r.stag false ∧
    s.memOk ∧ s.badAtoms = []) ∧
    (∃ (k : Die), ∃ (s : State), ∃ (a : Packet), ∃ (r : FarReq), ∃ (p te : Nat), ∃ (y : Transfer),
    awaits s a r p te y ∧ ∃ c, s.inboxFirst k 0x83 = some a ∧ packetChunks r.packet = [c] ∧
    bit (ofBytes (a.payload.take 64)) 0 = true) ∧
    (∃ (k : Die), ∃ (s : State), ∃ (a : Packet), ∃ (r : FarReq), ∃ (p te : Nat), ∃ (y : Transfer),
    awaits s a r p te y ∧ s.inboxFirst k 0x84 = some a ∧ (s.pier p).fault = none ∧ r.stag = (s.pier p).tag) ∧
    (∃ (k : Die), ∃ (s : State), ∃ (r : FarReq), ∃ (p te : Nat), ∃ (y : Transfer), ∃ (id : Word32),
    (s.die k).far.find? (fun q => q.txid = id.toNat) = some r ∧ r.unit = .engine p te y.id ∧ s.xfers p te = [y] ∧
    y.waiting = [r.txid] ∧ y.fault = none ∧ (s.pier p).fault = none ∧ r.stag = (s.pier p).tag ∧
    opc y.entry.w0.toNat ≠ 0x54) :=
  ⟨⟨0, demo, by decide +kernel⟩,
    ⟨1, st13, { pk with type := 0x81 }, by decide +kernel⟩,
    ⟨1, st14, { pk with type := 0x82 }, by decide +kernel⟩,
    ⟨1, st15, { pk with type := 0x83 }, by decide +kernel⟩,
    ⟨1, st16, { pk with type := 0x84 }, by decide +kernel⟩,
    ⟨1, st17, _, fr, 2, 1, farY, ⟨⟨3, by decide +kernel⟩, rfl, by decide +kernel⟩, rfl⟩,
    ⟨1, st18, _, fr, 2, 1, farY, ⟨⟨3, by decide +kernel⟩, rfl, by decide +kernel⟩, 2, rfl, head4 (by decide +kernel) ⟨⟨⟨_, rfl⟩, by decide +kernel⟩, by unfold State.memOk; decide +kernel⟩⟩,
    ⟨1, st19, _, fr, 2, 1, farY, ⟨⟨3, by decide +kernel⟩, rfl, by decide +kernel⟩, _, rfl, rfl, by decide +kernel⟩,
    ⟨1, st20, _, fr, 2, 1, farY, ⟨⟨3, by decide +kernel⟩, rfl, by decide +kernel⟩, rfl, by decide +kernel⟩,
    ⟨3, st20, _, 2, 1, _, (0x0000002c#32), rfl, by decide +kernel, rfl, by decide +kernel⟩⟩

theorem witness_CollectiveRounds :
    (∃ (d : Coll), ∃ (s : State), (s.coll d).complete = false) ∧
    (∃ (d : Coll), ∃ (s : State), (s.coll d).complete = true ∧ (s.coll d).err = none ∧ (s.coll d).event = true) ∧
    (∃ (d : Coll), ∃ (s : State), (s.coll d).complete = true ∧ (s.coll d).err = none) ∧
    (∃ (d : Coll), ∃ (s : State), ∃ (q : Packet), (s.coll d).refused = [q]) ∧
    (∃ (a b : List Byte), leAt a 16 1 ≠ 0 ∧ leAt b 16 1 ≠ 0 ∧ a.length = 64 ∧ b.length = 64) :=
  ⟨⟨255, demo, by decide +kernel⟩,
    ⟨255, st22.updColl 255 fun x => { x with event := true }, by decide +kernel⟩,
    ⟨255, st22, by decide +kernel⟩,
    ⟨5, st23, _, rfl⟩,
    ⟨((toBytes 0x900000003000000060000000000000000000000000000004d 64)),
    ((toBytes 0x900000003000000060000000000000000000000000000004d 64)), by decide +kernel⟩⟩

theorem witness_ReshardJobs :
    (∃ (k : Die), ∃ (s : State), ∃ (addr : BitVec 48), (8 ≤ (s.die k).jobs.length ∨ addr.toNat % 64 ≠ 0)) ∧
    (∃ (k : Die), ∃ (s : State), ∃ (addr : BitVec 48), ∃ h u, (s.die k).jobs.length < 8 ∧
    s.jobCheck addr.toNat = (some h, u)) ∧
    (∃ (k : Die), ∃ (s : State), ∃ j rest, (s.die k).running = none ∧ (s.die k).jobs = j :: rest ∧
    (s.reg (rshOff k)).getLsbD 0 = true ∧
    let v := s.updDie k fun x => { x with jobs := rest, running := some j }; ∃ u, v.jobPieces j.header = (none, u)) ∧
    (∃ (k : Die), ∃ (s : State), ∃ j rest, (s.die k).running = none ∧ (s.die k).jobs = j :: rest ∧
    (s.reg (rshOff k)).getLsbD 0 = true ∧
    let v := s.updDie k fun x => { x with jobs := rest, running := some j }; ∃ d u p o q r, v.jobPieces j.header = (some [d], u) ∧
    jobCvt j.header = false ∧ jobTT j.header = 0 ∧ jobScale j.header = 0 ∧ fmtWidth (jobSrc j.header) = 8 ∧
    fmtWidth (jobDst j.header) = 8 ∧ let x := parsePiece d; x.rows = 1 ∧ x.cols = 64 ∧ x.dmod = u.moduleId ∧
    x.src % 64 = 0 ∧ x.daddr % 64 = 0 ∧ place x.src = .sram p o ∧ place x.daddr = .sram q r ∧
    u.owner (pageOf x.src) = ownerWord (jobTag j.header) 1 false ∧ u.owner (pageOf x.daddr) = ownerWord x.dtag 1 false ∧
    x.dtag < 2 ^ 18 ∧ u.memOk) ∧
    (∃ (k : Die), ∃ (s : State), (s.die k).running = none) ∧
    (∃ (k : Die), ∃ (s : State), ∃ j, (s.die k).running = some j ∧ j.waiting ≠ []) ∧
    (∃ (k : Die), ∃ (s : State), (s.die k).running ≠ none ∨ (s.die k).jobs = [] ∨ (s.reg (rshOff k)).getLsbD 0 = false) ∧
    (∃ (k : Die), ∃ (s : State), ∃ j, ∃ e, (s.die k).running = some j ∧ j.waiting = [] ∧ j.mb = none ∧ j.failed = some e) ∧
    (∃ (k : Die), ∃ (s : State), ∃ j, (s.die k).running = some j ∧ j.waiting = [] ∧ j.mb = none ∧ j.failed = none ∧
    bit (leAt j.header 3 1) 1 = true ∧ bit (leAt j.header 3 1) 2 = true) :=
  ⟨⟨3, st35, (0x000000000008#48), by decide +kernel⟩,
    ⟨3, st35, (0x00200c800000#48), ((toBytes 0xffff060500000000000000200c801000000000000000000000aa000100001001 64)), _,
    by decide +kernel, pair_of_fst (by decide +kernel)⟩,
    ⟨2, st27, _, _, by decide +kernel, rfl, by decide +kernel, _, pair_of_fst (by decide +kernel)⟩,
    ⟨2, st35, _, _, by decide +kernel, rfl, by decide +kernel,
    ((toBytes 0x400100200010000000100100000000004000000001000000400000010020000040 64)), _, 2, 64, 2, 4096,
    pair_of_fst (by decide +kernel), by unfold State.memOk; decide +kernel⟩,
    ⟨2, demo, by decide +kernel⟩,
    ⟨2, demo.updDie 2 fun d => { d with running := some { jb 0 with waiting := [7] } }, _, rfl, by decide +kernel⟩,
    ⟨2, demo, by decide +kernel⟩,
    ⟨2, st29, _, _, rfl, by decide +kernel, by decide +kernel, rfl⟩,
    ⟨2, demo.updDie 2 fun d => { d with running := some (jb 6) }, _, rfl, by decide +kernel⟩⟩

end Sys2Proof.Tests.SwitchStates

/-! ### States for the statements on training and serving steps -/

namespace Sys2Proof.Tests.StepStates
open Sys2Proof Sys2Proof.Machine Sys2Proof.Tests

def sd : List (Nat × Nat) := [(0,1),(12,4),(14,1),(16,0x5000),(24,1),(32,0x6000),(40,0x3000),(48,0x7000),(56,1),(64,0),(72,0x8000),(80,0x9000),(104,5)]
def smem : List (Nat × List Byte) := [(0x1000, bs 16 [(6,1)]), (0, bs 16 [(6,1)]), (0x3000, bs 16 [(0,0x4000),(8,0x3F800000),(12,1)]), (0x5000, bs 32 [(0,2),(8,64),(16,4),(20,9)]), (0x7000, bs 32 [(0,0xA000),(8,0xB000),(16,64),(24,2),(25,9),(28,3)]), (0xB000, bs 64 [(0,1),(12,64)])]
def le (g : Bool) : ListEntry := { pier := 2, kind := 0, gtc := 9, gated := g, gvalue := 3, start := 64, len := 4, taskId := 9, layer := 0, held := false, ser := none, status := none }
def rep0 : TaskReport := { ser := 0, id := 9, status := 0x304, endCode := 0, stamp := 5 }
def sr : StepRun :=
  { mb := some 5, desc := bs 128 sd, number := 1, twin := false, evalPiers := 0, stepPiers := 4, openStamp := 0, epoch := 0,
    rank := 0, main := [le true], deferred := [], eval := [], taskFault := false, evalFault := none, uncorrected := false,
    sealed := [], leaves := [], late := [], root := none, contributed := none, result := none, causes := 0,
    localStamp := 0, gap := [], fill := [], delay := [] }
def stepS (r : StepRun) (f : State → State) : State := f (cmdAt { tk 0x0506 [] with waits := true } fun s => withMem smem (s.updCtx 1 fun x => { x with step := some r }))
def cl6 : Collective := { Collective.reset with state := .opn, op := 6, sfmt := 11, dfmt := 11, tag := tg, len := 64, n := 2, rank := 0, owner := 0, all := true, ks := true, group := 5 }
def ssd : List Byte := bs 128 [(0,0x2000),(8,1),(12,64),(14,1),(16,8),(18,64),(20,2),(21,2),(22,1),(28,16),(34,4),(36,4096),(40,0x4000),(48,0x5000),(56,0x6000),(64,0x7000),(72,0x8000),(80,0x9000),(88,0xA000),(96,0xB000)]
def stp : Stream := { Stream.reset with phase := .decode, gen := 3, spepoch := 8, ctx := 1, lane := 2, req := bs 64 [], promptLen := 5, maxNew := 10, committed := 6, emitted := 1, ring := some (bs 32 [(0,4096),(8,64),(12,65535),(14,1)]), prod := 3, cons := 1 }
def sv : Serve := { desc := ssd, nextDesc := none, wgen := 4, stepNo := 11, steps := [], lanePtr := 0, blocked := false, swap := none }
def serveS (v : Serve) (x : Stream) (f : State → State) : State := f (withMem [(0x2000, bs 32 [(0,2),(8,64),(16,4),(20,9)]), (0x6000, bs 128 [(0,0),(2,3),(4,0),(8,77)]), (0x7000, bs 128 [(2,8),(4,1),(8,77)])] ((demo.updKs fun k => { k with streams := [(0, x)], kv := [(0, { KvBlock.reset with held := true, stream := 0, gen := 3, tag := tg })] }).updCtx 1 fun c => { c with serve := some v }))
def sy : ServeStep := { number := 11, desc := ssd, wgen := 4, slots := [{ stream := 0, gen := 3, epoch := 8, kind := 0, ndraft := 0, pos := 6, n := 1 }], entries := [{ le false with held := true }] }
def sp : Packet := { Packet.empty with type := 5, src := 9, dst := 0, spec := toBytes 0x700 16, len := 64, payload := bs 64 [(0,0x123440),(16,4),(20,0xFFFF),(22,1),(32,77),(48,3)] }
def st0 : State := cmdAt (tk 0x0506 sd) fun s => withMem smem (s.updCtx 1 fun x => { x with stepWait := [5, 6] })
def st1 : State := cmdAt (tk 0x0506 []) fun s => withMem smem (s.updCtx 1 fun x => { x with stepWait := [5, 6] })
def st2 : State := stepS sr fun s => s.updPier 2 fun x => { x with tcs := [(9, 3)], nextSer := 7 }
/-- A step whose only task has been reported. -/
def sOver (bad : Bool) : StepRun :=
  { sr with main := [{ le true with status := some { rep0 with status := if bad then 0x304 else 0 } }], taskFault := bad, sealed := [0] }
def st5 : State := stepS (sOver true) id
def voting (s : State) : State := (s.updColl 5 fun _ => cl6).updKs fun k => { k with groups := [(5, [0, 9])] }
def st6 : State := stepS (sOver true) voting
def st17 : State := stepS { sOver false with sealed := [] } id
def st18 : State := stepS { sOver false with twin := true } id
def st19 : State := stepS { sOver false with contributed := some 5, localStamp := 1, root := some [] } fun s => { voting s with ts := { s.ts with count := 2 ^ 62 + 1 } }
def st20 : State := stepS { sOver false with contributed := some 5 } voting
theorem st19_late : 1 + Config.voteLate.toNat ≤ st19.ts.count.toNat := by
  have h := Config.voteLate.isLt
  have e : st19.ts.count.toNat = 2 ^ 62 + 1 := by decide +kernel
  omega
def st8 : State := stepS { sr with result := some (bs 64 [(0,1)]), number := 77 } id
def st10 : State := serveS { sv with blocked := true } stp id
def st11 : State := serveS { sv with steps := [sy] } stp id
def st12 : State := serveS { sv with steps := [{ sy with entries := [{ le false with held := true, ser := some 0, status := some { rep0 with status := 0 } }] }] } stp id
def st13 : State := serveS { sv with steps := [{ sy with entries := [{ le false with held := true, ser := some 0, status := some rep0 }] }] } stp id
def st14 : State := demo.updDie 0 fun d => { d with msgs := [sp] }
def st15 : State := { demo.updDie 0 (fun d => { d with msgs := [sp] }) with hp := { demo.hp with up := false } }
def st16 : State := demo.updKs fun k => { k with heldMsgs := [(3, { sp with dst := 9, src := 0 })] }

theorem witness_TrainingSteps :
    (∃ (c : CtxId), ∃ (s : State), (s.ctx c).step ≠ none ∨ (s.ctx c).stepWait = []) ∧
    (∃ (c : CtxId), ∃ (s : State), let tag := s.ctxTag c; ∃ (m : Nat), ∃ rest k, (s.ctx c).step = none ∧
    (s.ctx c).stepWait = m :: rest ∧ (s.mb m).taken = some k ∧ k.opcode = 0x0506 ∧
    let v := s.updCtx c fun x => { x with stepWait := rest }; let d := sliceBytes k.args 0 128; ∃ u, v.stepCheck tag d = (none, u)) ∧
    (∃ (c : CtxId), ∃ (s : State), let tag := s.ctxTag c; ∃ (m : Nat), ∃ rest k, (s.ctx c).step = none ∧
    (s.ctx c).stepWait = m :: rest ∧ (s.mb m).taken = some k ∧ k.opcode = 0x0506 ∧
    let v := s.updCtx c fun x => { x with stepWait := rest }; let d := sliceBytes k.args 0 128; ∃ plan u, v.stepCheck tag d = (some plan, u)) ∧
    (∃ (c : CtxId), ∃ (s : State), ∃ x e, (s.ctx c).step = some x ∧ x.taskFault = false ∧ x.localStamp = 0 ∧
    x.main = [e] ∧ x.deferred = [] ∧ x.eval = [] ∧ e.waits = true ∧ (s.pier e.pier).taskQueue.length < 8 ∧
    (s.ks.lists.filter fun l => l.ctx = c.val) = [] ∧
    (e.held || !e.gated || tcHolds (s.tc e.pier e.gtc) e.gvalue) = true) ∧
    (∃ (c : CtxId), ∃ (s : State), ∃ x e, (s.ctx c).step = some x ∧ x.taskFault = false ∧ x.localStamp = 0 ∧
    x.main = [e] ∧ x.deferred = [] ∧ x.eval = [] ∧ e.waits = true ∧ (s.pier e.pier).taskQueue.length < 8 ∧
    (s.ks.lists.filter fun l => l.ctx = c.val) = [] ∧
    (e.held || !e.gated || tcHolds (s.tc e.pier e.gtc) e.gvalue) = false) ∧
    (∃ (c : CtxId), ∃ (s : State), (s.ctx c).step = none) ∧
    (∃ (c : CtxId), ∃ (s : State), let tag := s.ctxTag c; ∃ x, ∃ (i : Nat), ∃ l, (s.ctx c).step = some x ∧ (∃ u, s.shardTab tag x.desc = (l, u)) ∧ (l[i]? = none ∨ i ∈ x.sealed)) ∧
    (∃ (c : CtxId), ∃ (s : State), let tag := s.ctxTag c; ∃ x, ∃ (i : Nat), ∃ l e u, (s.ctx c).step = some x ∧
    s.shardTab tag x.desc = (l, u) ∧ l[i]? = some e ∧ x.sealed.contains i = false ∧
    let gate := tcHolds (u.tc (leAt e 24 1) (leAt e 25 1)) (leAt e 28 4); gate = false) ∧
    (∃ (c : CtxId), ∃ (s : State), let tag := s.ctxTag c; ∃ x, ∃ (i : Nat), ∃ l e u, (s.ctx c).step = some x ∧
    s.shardTab tag x.desc = (l, u) ∧ l[i]? = some e ∧ x.sealed.contains i = false ∧
    let gate := tcHolds (u.tc (leAt e 24 1) (leAt e 25 1)) (leAt e 28 4); ∃ f w, gate = true ∧
    u.sealShard tag (shadowAt e x.number) (leAt e 16 8) = (f, w)) ∧
    (∃ (c : CtxId), ∃ (s : State), ∃ x, (s.ctx c).step = some x ∧ x.workDone = false) ∧
    (∃ (c : CtxId), ∃ (s : State), ∃ x, (s.ctx c).step = some x ∧ x.workDone = true ∧ x.contributed ≠ none ∧ x.localStamp = 0) ∧
    (∃ (c : CtxId), ∃ (s : State), ∃ x, (s.ctx c).step = some x ∧ x.workDone = true ∧ x.contributed ≠ none ∧ x.localStamp ≠ 0 ∧
    (∃ m ∈ s.silent c x, m ∉ x.late) ∧ x.localStamp + Config.voteLate.toNat ≤ s.ts.count.toNat) ∧
    (∃ (c : CtxId), ∃ (s : State), ∃ x, (s.ctx c).step = some x ∧ x.workDone = true ∧ x.contributed = none ∧ x.taskFault = false ∧ ¬(∀ i, i < leAt x.desc 56 4 → i ∈ x.sealed)) ∧
    (∃ (c : CtxId), ∃ (s : State), ∃ x, (s.ctx c).step = some x ∧ x.workDone = true ∧ x.contributed = none ∧ (∀ i, i < leAt x.desc 56 4 → i ∈ x.sealed) ∧ x.twin = true ∧ x.root = none) ∧
    (∃ (c : CtxId), ∃ (s : State), ∃ x, (s.ctx c).step = some x ∧ x.workDone = true ∧ x.contributed = none ∧ (∀ i, i < leAt x.desc 56 4 → i ∈ x.sealed) ∧ x.twin = false ∧
    s.voteDesc (leAt x.desc 104 2) (s.ctxTag c) x.number = none) ∧
    (∃ (c : CtxId), ∃ (s : State), ∃ x, (s.ctx c).step = some x ∧ x.workDone = true ∧ x.contributed = none ∧ (∀ i, i < leAt x.desc 56 4 → i ∈ x.sealed) ∧ x.twin = false ∧
    ∃ d, s.voteDesc (leAt x.desc 104 2) (s.ctxTag c) x.number = some d ∧ (s.coll d).state = .opn ∧ (s.coll d).op = 6 ∧
    (s.coll d).mine.find 0 = none ∧ (s.coll d).formed.find 0 = none ∧ x.number < 2 ^ 64 ∧
    ((s.coll d).voteStep = none ∨ (s.coll d).voteStep = some x.number) ∧ s.collUsed (d % 4) + 64 ≤ 8 * 2 ^ 20) ∧
    (∃ (c : CtxId), ∃ (s : State), ∃ x r, (s.ctx c).step = some x ∧ x.result = some r ∧ s.ks.fence = none ∧
    s.ks.fences = []) ∧
    (∃ (c : CtxId), ∃ (s : State), (s.ctx c).step.bind (fun x => x.result) = none ∧ s.ks.fence = none ∧ s.ks.fences = []) :=
  ⟨⟨63, st16, by decide +kernel⟩,
    ⟨1, st1, 5, [6], _, by decide +kernel, by decide +kernel, rfl, by decide +kernel, _, pair_of_fst (by decide +kernel)⟩,
    ⟨1, st0, 5, [6], _, by decide +kernel, by decide +kernel, rfl, by decide +kernel,
    { nsb := toBytes 0x1000000000000 1088, layers := toBytes 0x13f8000000000000000004000 16, main := [{ le false with gtc := 0, gvalue := 0 }], deferred := [], eval := [] },
    _, pair_of_fst (by decide +kernel)⟩,
    ⟨1, st2, _, _, rfl, by decide +kernel, by decide +kernel, rfl, by decide +kernel⟩,
    ⟨1, st8, _, _, rfl, by decide +kernel, by decide +kernel, rfl, by decide +kernel⟩,
    ⟨63, st16, by decide +kernel⟩,
    ⟨1, st8, _, 1, [(toBytes 0x3000009020000000000000040000000000000b000000000000000a000 32)], rfl, ⟨_, pair_of_fst (by decide +kernel)⟩, by decide +kernel⟩,
    ⟨1, st8, _, 0, [(toBytes 0x3000009020000000000000040000000000000b000000000000000a000 32)], _, _, rfl, pair_of_fst (by decide +kernel), rfl, by decide +kernel⟩,
    ⟨1, st2, _, 0, [(toBytes 0x3000009020000000000000040000000000000b000000000000000a000 32)], _, _, rfl, pair_of_fst (by decide +kernel), rfl, by decide +kernel, none, _, by decide +kernel, pair_of_fst (by decide +kernel)⟩,
    ⟨1, st8, _, rfl, by decide +kernel⟩,
    ⟨1, st20, _, rfl, by decide +kernel⟩,
    ⟨1, st19, _, rfl, head3 (by decide +kernel) ⟨⟨4096, by decide +kernel⟩, st19_late⟩⟩,
    ⟨1, st17, _, rfl, by decide +kernel⟩,
    ⟨1, st18, _, rfl, by decide +kernel⟩,
    ⟨1, st5, _, rfl, by decide +kernel⟩,
    ⟨1, st6, _, rfl, head4 (by decide +kernel) ⟨5, by decide +kernel⟩⟩,
    ⟨1, st8, _, _, rfl, rfl, by decide +kernel⟩,
    ⟨63, st16, by decide +kernel⟩⟩

theorem witness_ServingSteps :
    (∃ (s : State), ∃ (c : CtxId), ∃ v, (s.ctx c).serve = some v ∧
    (v.blocked = true ∨ (s.ctx c).phase ≠ .active ∨ s.isRunning = false ∨ sdInflight (v.nextDesc.getD v.desc) ≤ v.steps.length)) ∧
    (∃ (s : State), ∃ (c : CtxId), ∃ v, (s.ctx c).serve = some v ∧
    let tag := s.ctxTag c; ∃ i x, s.ks.streams = [(i, x)] ∧ x.ctx = c.val ∧ x.phase = .decode ∧ v.blocked = false ∧
    (s.ctx c).phase = .active ∧ s.isRunning = true ∧ v.steps.length < sdInflight v.desc ∧ v.nextDesc = none ∧
    s.ks.lanes = [] ∧
    let u := (s.updServe c fun v => { v with desc := v.desc, nextDesc := none }).readCredit tag v.desc i; u.eligible v.desc i = true ∧
    1 ≤ sdSlots v.desc ∧ 1 + x.ndraft v.desc ≤ sdBudget v.desc) ∧
    (∃ (s : State), ∃ (c : CtxId), ∃ v, (s.ctx c).serve = some v ∧ ∃ y e, s.isRunning = true ∧ v.steps = [y] ∧
    y.entries = [e] ∧ e.waits = true ∧ e.held = true ∧ (s.pier e.pier).taskQueue.length < 8) ∧
    (∃ (s : State), ∃ (c : CtxId), ∃ v, (s.ctx c).serve = some v ∧
    let tag := s.ctxTag c; ∃ y rest slot o u, v.steps = y :: rest ∧
    (y.entries.all fun e => e.status.isSome && !e.bad) = true ∧ y.slots = [slot] ∧ slot.kind = 0 ∧ v.swap = none ∧
    s.ks.recs = [] ∧ let x := s.stream slot.stream; x.phase = .decode ∧ x.gen = slot.gen ∧ x.spepoch = slot.epoch ∧
    x.adapter = none ∧ outOk slot x y.desc o = true ∧
    (s.updServe c fun v => { v with steps := rest }).kread tag [(sdOut y.desc y.number + 128 * 0, 128)] = (some [o], u) ∧
    leAt o 5 1 = 0 ∧ stopToken x.req (leAt o 8 4) = false ∧ x.emitted + 1 < x.maxNew) ∧
    (∃ (s : State), ∃ (c : CtxId), ∃ v, (s.ctx c).serve = some v ∧ ∃ y, v.steps.find? ServeStep.failing = some y ∧
    (y.entries.all fun e => e.ser.isNone || e.status.isSome) = true) ∧
    (∃ (s : State), ∃ (c : CtxId), ∃ v, (s.ctx c).serve = some v ∧ let tag := s.ctxTag c; ∃ (i : BitVec 14), ∃ w u,
    (s.stream i.toNat).ctx = c.val ∧ (s.stream i.toNat).phase = .decode ∧
    s.kread tag [(sdCredit v.desc + 4 * (i.toNat - sdSbase v.desc), 4)] = (some [w], u)) ∧
    (∃ (s : State), (∀ k, k < 4 → s.msgFirst k 0x0700 = none)) ∧
    (∃ (s : State), ∃ (c : CtxId), (s.ctx c).serve = none) ∧
    (∃ (s : State), ∃ (c : CtxId), ∃ v, (s.ctx c).serve = some v ∧
    s.isRunning = true ∧ (s.ctx c).phase = .active ∧ v.blocked = false ∧
    v.steps.length < sdInflight (v.nextDesc.getD v.desc)) ∧
    (∃ (s : State), ∃ (c : CtxId), ∃ v, (s.ctx c).serve = some v ∧
    s.isRunning = false) ∧
    (∃ (s : State), ∃ (c : CtxId), ∃ v, (s.ctx c).serve = some v ∧
    ∃ y rest, v.steps = y :: rest ∧ (y.entries.all fun e => e.status.isSome && !e.bad) = true) ∧
    (∃ (s : State), ∃ (c : CtxId), ∃ v, (s.ctx c).serve = some v ∧
    (v.steps = [] ∨ ∃ y rest, v.steps = y :: rest ∧ (y.entries.all fun e => e.status.isSome && !e.bad) = false)) ∧
    (∃ (s : State), ∃ (c : CtxId), ∃ v, (s.ctx c).serve = some v ∧
    (v.steps = [] ∨ ∃ y rest, v.steps = y :: rest ∧ (y.entries.all fun e => e.status.isSome && !e.bad) = false)) ∧
    (∃ (s : State), ∃ (c : CtxId), ∃ v, (s.ctx c).serve = some v ∧
    v.steps.find? ServeStep.failing = none) ∧
    (∃ (s : State), ∃ (c : CtxId), ∃ (i : BitVec 14), (s.stream i.toNat).ctx ≠ c.val ∨ (s.stream i.toNat).phase ≠ .decode) ∧
    (∃ (s : State), ∃ (c : CtxId), ∃ v, (s.ctx c).serve = some v ∧
    ∃ (i : BitVec 14), ∃ u, (s.stream i.toNat).ctx = c.val ∧ (s.stream i.toNat).phase = .decode ∧
    s.kread (s.ctxTag c) [(sdCredit v.desc + 4 * (i.toNat - sdSbase v.desc), 4)] = (none, u)) ∧
    (∃ (s : State), ∃ (k : Die), ∃ p, s.msgFirst k 0x0700 = some p ∧ (∀ j, j < k.val → s.msgFirst j 0x0700 = none) ∧
    s.ks.phase ≠ .held ∧ s.hp.up = true ∧ s.role ≠ 2) ∧
    (∃ (s : State), ∃ (k : Die), ∃ p, s.msgFirst k 0x0700 = some p ∧ (∀ j, j < k.val → s.msgFirst j 0x0700 = none) ∧
    (s.ks.phase = .held ∨ s.hp.up = false)) ∧
    (∃ (s : State), s.ks.heldMsgs ≠ [] ∧ ∀ x ∈ s.ks.heldMsgs, x.1 < 4) :=
  ⟨⟨st10, 1, _, rfl, by decide +kernel⟩,
    ⟨st13, 1, _, rfl, 0,
    { phase := StreamPhase.decode, gen := 3, spepoch := 8, ring := some (toBytes 0x1ffff000000400000000000001000 32), prod := 3, cons := 1, ctx := 1, lane := 2, req := List.replicate 64 0, promptLen := 5, maxNew := 10, committed := 6, emitted := 1, fails := 0, drafts := [], lastToken := 0, lastRode := 0, rides := false, order := 0, adapter := none },
    by decide +kernel⟩,
    ⟨st11, 1, _, rfl, _, _, by decide +kernel, rfl, rfl, by decide +kernel⟩,
    ⟨st12, 1, _, rfl, _, [], { stream := 0, gen := 3, epoch := 8, kind := 0, ndraft := 0, pos := 6, n := 1 },
    ((toBytes 0x4d0000000100080000 128)), _, rfl, head4 (by decide +kernel) (head3 (by decide +kernel) (head3 (by decide +kernel) ⟨pair_of_fst (by decide +kernel), by decide +kernel⟩))⟩,
    ⟨st13, 1, _, rfl, _, rfl, by decide +kernel⟩,
    ⟨st13, 1, _, rfl, (0x0000#14), [0x00#8, 0x00#8, 0x00#8, 0x00#8], _, by decide +kernel, by decide +kernel,
    pair_of_fst (by decide +kernel)⟩,
    ⟨st16, by decide +kernel⟩,
    ⟨st16, 5, by decide +kernel⟩,
    ⟨st13, 1, _, rfl, by decide +kernel⟩,
    ⟨{ st13 with ks := { st13.ks with phase := .held } }, 1, _, rfl, by decide +kernel⟩,
    ⟨st12, 1, _, rfl, _, _, rfl, by decide +kernel⟩,
    ⟨st10, 1, _, rfl, .inl (by decide +kernel)⟩,
    ⟨st13, 1, _, rfl, .inr ⟨_, _, rfl, by decide +kernel⟩⟩,
    ⟨st10, 1, _, rfl, by decide +kernel⟩,
    ⟨st10, 2, 0, by decide +kernel⟩,
    ⟨{ st13 with xlate := [] }, 1, _, rfl, 0, _, by decide +kernel, by decide +kernel, pair_of_fst (by decide +kernel)⟩,
    ⟨st14, 0, _, rfl, by decide +kernel⟩,
    ⟨st15, 0, _, rfl, by decide +kernel⟩,
    ⟨st16, by decide +kernel⟩⟩

end Sys2Proof.Tests.StepStates

/-! ### States for the statements on mailboxes, events, bays, module and memory commands -/

namespace Sys2Proof.Tests.CommandStates
open Sys2Proof Sys2Proof.Machine Sys2Proof.Tests

def mbS (x : Mailbox) (f : Keystone → Keystone) : State := demo.updKs fun k => f { k with mbs := [(5, x)] }
def hdr (op ctxTag fl : Nat) : Tab Byte := ((List.range 64).zip (bs 64 [(4,op),(6,fl),(8,9),(12,ctxTag)])).filter fun x => x.2 ≠ 0
def MB : Mailbox := Mailbox.reset
def er (t : Option Nat) : EvRec := { stamp := 7, source := 9, code := 0x513, error := false, tag := t, detail := [1,2,3] }
def rg : EvRing := { EvRing.reset with set := true, base := 2^20, size := 64, vector := 0xFFFF, thresh := 1, prodAddr := 0, prod := 70, cons := 8 }
def land (h : HostPort → HostPort) : State := { demo.setReg (hpOff + 0xC) 1 with hp := h demo.hp }
def bm (l : List (Nat × Nat)) : Packet := { Packet.empty with type := 5, src := 9, dst := 0, spec := toBytes 1 16, len := 16, payload := bs 16 l }
def wdw (t : Nat) : List (Nat × Nat) := [(0,2),(1,1),(8,t),(12,0xBB),(14,0xB),(16,0),(24,2^20),(32,2^20+2^18),(40,2),(44,16),(48,2),(50,3),(52,9)]
def w0 : Window := { Window.reset with state := .opn, tag := tg, sfmt := 11, dfmt := 11, dst := 0, sum := 2^20, park := 2^20 + 2^18, len := 1, parkLen := 1024, n := 2, round := 3, epoch := 9, dstLa := la0, donePier := 4, doneTc := 5, doneInc := 6 }
def st7 : State := mbS { MB with owner := true, bytes := hdr 0x302 tg 0 } fun k => { k with flips := [5] }
def st10 : State := demo.updKs fun k => { k with records := [er none, er none], log := rg }
def st11 : State := demo.updKs fun k => { k with records := [er none, er none], log := { rg with cons := 6 } }
def st12 : State := (demo.updKs fun k => { k with records := [er (some tg)] }).updCtx 1 fun c => { c with ring := rg }
def st13 : State := { demo.setReg (0x51000C + 16 * 5) 0 with hp := { demo.hp with held := [5] } }
def st14 : State := land fun h => { h with aperture := [(0, { valid := true, module := 9, tag := 77, base := 2^22, pages := 3 })] }
def st16 : State := (land fun h => { h with bayReads := [4, 12] }).updDie 2 fun d => { d with msgs := [bm [(0,2),(1,12),(11,0x11223344)]] }
def st19 : State := cmdAt { tk 1 [] with flags := 1 } id
def st20 : State := cmdAt (tkP 2 []) id
def st22 : State := cmdAt (tkP 3 [(0,256)]) id
def st24 : State := cmdAt (tkP 3 [(0,6),(2,1),(3,3),(4,2047)]) fun s => s.updMb 9 fun x => { x with bound := some (1, 3) }
def st25 : State := cmdAt (tkP 3 [(0,255),(2,1),(3,15),(4,65535)]) id
def st26 : State := cmdAt (tkP 3 [(0,255),(2,255),(4,65535)]) id
def st27 : State := cmdAt (tkP 4 [(0,4096),(8,64),(12,3),(14,64),(16,128)]) id
def st28 : State := cmdAt (tk 4 [(0,4096),(8,64),(12,3),(14,64),(16,128)]) id
def st29 : State := cmdAt (tkP 5 [(0,63),(1,1)]) id
def st30 : State := cmdAt (tkP 5 [(0,62),(1,1),(2,8191),(4,2^18-1),(8,2^21),(16,512)]) id
def st31 : State := cmdAt (tkP 0x301 [(0,1),(8,8),(16,4)]) id
def st32 : State := cmdAt (tk 0x301 [(0,1),(8,16),(16,131072)]) id
def st33 : State := cmdAt (tk 0x301 [(0,1),(8,2),(16,4)]) id
def st34 : State := cmdAt { tk 0x302 [(0,0),(4,5),(8,1)] with ask := some (64,16), data := some (bs 16 [(0,0xF),(4,pg+5)]) } fun s => s
def st36 : State := cmdAt { tk 0x302 [(0,0),(4,5),(8,1)] with ask := some (64,16), data := some (bs 16 [(0,0xF),(4,pg+6)]) } fun s => s.setOwner (pg+6) (ownerWord 9000 1 false)
def st38 : State := cmdAt (tk 0x303 [(0,0),(4,4),(8,4)]) id
def st39 : State := cmdAt (tk 0x304 [(0,2),(8,5),(16,2^41)]) id
def st41 : State := cmdAt (tk 0x305 (wdw tg)) fun s => s.updWin 2 1 fun _ => w0
def st42 : State := cmdAt (tk 0x306 [(0,2),(1,1),(4,9),(8,3)]) fun s => s.updWin 2 1 fun _ => { w0 with tag := 4098 }
def st43 : State := cmdAt (tk 0x306 [(0,2),(1,1),(4,9),(8,3)]) fun s => s.updWin 2 1 fun _ => { w0 with state := .abandoned }
def st44 : State := cmdAt (tk 0x307 [(0,2),(1,1)]) fun s => s.updWin 2 1 fun _ => w0
def st45 : State := cmdAt (tk 0x307 [(0,2),(1,1)]) fun s => s.updWin 2 1 fun _ => { w0 with state := .finishing }
def st46 : State := cmdAt (tkP 0x308 [(0,4)]) id
def st47 : State := cmdAt (tkP 0x309 [(0,8),(2,1)]) id
def st48 : State := cmdAt (tkP 0x309 [(0,4),(2,1)]) id
def st49 : State := cmdAt (tkP 0x309 [(0,4),(2,8)]) fun s => { s with owners := [] }
def st50 : State := cmdAt { tkP 0x309 [(0,4),(2,8)] with waits := true, todo := [2], total := 77 } id
def st51 : State := cmdAt (tk 0x310 [(0,64),(8,128),(16,0)]) id
def st52 : State := cmdAt (tk 0x310 [(0,64),(8,2^39),(16,64)]) id
def st53 : State := cmdAt { tk 0x310 [(0,64),(8,128),(16,4)] with ask := some (64,4), data := some [9,8,7,6] } id
def st55 : State := (mbS { MB with owner := true, bound := some (1, 3), bytes := ((List.range 96).zip (bs 96 [(4,0x302),(8,9),(12,tg),(64,0),(68,5),(72,1),(80,4096)])).filter fun x => x.2 ≠ 0 } fun k => { k with flips := [5] })
def st56 : State := (mbS { MB with owner := true, bytes := ((List.range 96).zip (bs 96 [(4,0x302),(6,2),(8,9),(12,tg),(64,0),(68,5),(72,1),(80,4096)])).filter fun x => x.2 ≠ 0 } fun k => { k with flips := [5] })
def st57 : State := ((demo.setReg (hpOff + 0xC) (2 + 9 * 2^16))).updDie 2 fun d => { d with msgs := [bm [(0,1),(1,12),(5,0x500000),(11,0x11223344)]] }

theorem witness_Mailboxes :
    (∃ (m : Mbx), ∃ (s : State), let x := s.mb m; x.owner = false) ∧
    (∃ (m : Mbx), ∃ (s : State), let x := s.mb m; x.owner = true ∧ x.taken = none) ∧
    (∃ (m : Mbx), ∃ (s : State), let x := s.mb m; ∃ k, x.owner = true ∧ x.taken = some k ∧ cmdX k.opcode = true) ∧
    (∃ (m : Mbx), ∃ (s : State), let x := s.mb m; ∃ k, x.owner = true ∧ x.taken = some k ∧ cmdX k.opcode = false) ∧
    (∃ (s : State), s.takes = false) ∧
    (∃ (s : State), s.takes = true ∧ (s.ks.flips = [] ∨ s.midCommand = true)) ∧
    (∃ (m : Mbx), ∃ (s : State), let x := s.mb m; ∃ rest, s.takes = true ∧ s.ks.flips = m.val :: rest ∧
    let k := s.copyCmd m; s.midCommand = false ∧ s.takeStatus k x.clean x.cancel ≠ 0) ∧
    (∃ (m : Mbx), ∃ (s : State), let x := s.mb m; ∃ rest, s.takes = true ∧ s.ks.flips = m.val :: rest ∧
    let k := s.copyCmd m; s.midCommand = false ∧ s.takeStatus k x.clean x.cancel = 0 ∧ k.ask = none) ∧
    (∃ (m : Mbx), ∃ (s : State), let x := s.mb m; ∃ rest, s.takes = true ∧ s.ks.flips = m.val :: rest ∧
    let k := s.copyCmd m; ∃ a n, s.midCommand = false ∧ s.takeStatus k x.clean x.cancel = 0 ∧ k.ask = some (a, n) ∧ s.role ≠ 2 ∧
    s.hp.up = true) ∧
    (∃ (m : Mbx), ∃ (s : State), let x := s.mb m; ∃ rest, s.takes = true ∧ s.ks.flips = m.val :: rest ∧
    let k := s.copyCmd m; ∃ a n, s.midCommand = false ∧ s.takeStatus k x.clean x.cancel = 0 ∧ k.ask = some (a, n) ∧ s.role ≠ 2 ∧
    s.hp.up = false) ∧
    (∃ (m : Mbx), ∃ (s : State), let x := s.mb m; ∃ k, x.taken = some k ∧ k.waits = true ∧ k.total ≠ 0) ∧
    (∃ (m : Mbx), ∃ (s : State), let x := s.mb m; ∃ (d : List Byte), ∃ k a, x.taken = some k ∧ k.waits = false ∧
    k.ask = some (a, d.length)) ∧
    (∃ (m : Mbx), ∃ (s : State), let x := s.mb m; ∃ k, x.taken = some k) :=
  ⟨⟨255, st57, by decide +kernel⟩,
    ⟨5, st56, by decide +kernel⟩,
    ⟨5, st53, _, by decide +kernel, rfl, by decide +kernel⟩,
    ⟨5, st45, _, by decide +kernel, rfl, by decide +kernel⟩,
    ⟨{ st57 with ks := { st57.ks with phase := .boot } }, by decide +kernel⟩,
    ⟨st57, by decide +kernel⟩,
    ⟨5, st55, [], by decide +kernel⟩,
    ⟨5, st7, [], by decide +kernel⟩,
    ⟨5, st56, [], by decide +kernel, by decide +kernel, 4096, 16, by decide +kernel⟩,
    ⟨5, { st56 with hp := { st56.hp with up := false } }, [], by decide +kernel, by decide +kernel, 4096, 16,
    by decide +kernel⟩,
    ⟨5, st50, _, rfl, by decide +kernel⟩,
    ⟨5, st53, [0x01#8, 0x02#8, 0x03#8, 0x04#8], _, 64, rfl, by decide +kernel⟩,
    ⟨5, st53, _, rfl⟩⟩

theorem witness_EventsAndBays :
    (∃ (s : State), (s.takes = false ∨ s.ks.records = [])) ∧
    (∃ (s : State), ∃ r l, s.takes = true ∧ s.ks.records = r :: l ∧ s.role = 0 ∧ s.hp.up = true ∧ r.tag = none ∧
    s.ks.log.set = true ∧ s.ks.log.prodAddr = 0 ∧ s.ks.log.vector = 0xFFFF ∧ let g := s.ks.log; g.room ≠ 0) ∧
    (∃ (s : State), ∃ r l, s.takes = true ∧ s.ks.records = r :: l ∧ s.role = 0 ∧ s.hp.up = true ∧ r.tag = none ∧
    s.ks.log.set = true ∧ s.ks.log.prodAddr = 0 ∧ s.ks.log.vector = 0xFFFF ∧ let g := s.ks.log; g.room = 0) ∧
    (∃ (s : State), ∃ r l tag, s.takes = true ∧ s.ks.records = r :: l ∧ s.role = 0 ∧ s.hp.up = true ∧ r.tag = some tag ∧
    s.ctxTag (tagCtx tag) = tag ∧ r.error = false ∧ let g := (s.ctx (tagCtx tag)).ring; g.set = true ∧ g.room ≠ 0 ∧
    g.prodAddr = 0 ∧ g.vector = 0xFFFF) ∧
    (∃ (s : State), ∃ (v : BitVec 11), s.hp.held = [v.toNat] ∧ s.holdoffOver v.toNat = false) ∧
    (∃ (s : State), ∃ (v : BitVec 11), s.hp.held = [v.toNat] ∧ s.holdoffOver v.toNat = true ∧ s.vecMasked v.toNat = false) ∧
    (∃ (s : State), s.hp.held = []) ∧
    (∃ (s : State), s.role ≠ 1) ∧
    (∃ (s : State), ∃ (off : BitVec 36), ∃ (d : List Byte), s.role = 1 ∧ off.toNat < 63 * 2 ^ 30 ∧
    let e := s.hp.aperture.get ApertureEntry.reset (off.toNat / 2 ^ 30); let i := off.toNat % 2 ^ 30; e.valid = true ∧
    i + d.length ≤ e.pages * 2 ^ 21) ∧
    (∃ (s : State), ∃ (off : BitVec 36), s.role = 1 ∧ off.toNat < 63 * 2 ^ 30 ∧
    let e := s.hp.aperture.get ApertureEntry.reset (off.toNat / 2 ^ 30); e.valid = false) ∧
    (∃ (s : State), ∃ id, id ∈ s.hp.bayReads) ∧
    (∃ (s : State), ∃ id, id ∉ s.hp.bayReads) ∧
    (∃ (s : State), ∃ (k : Die), ∃ p, ((s.die k).msgs.find? fun p => inRun (leAt p.spec 0 2) 1 4) = some p ∧
    leAt p.spec 0 2 = 1 ∧ leAt p.payload 0 1 = 2 ∧ leAt p.payload 1 4 ∈ s.hp.bayReads) ∧
    (∃ (s : State), ∃ (k : Die), ∃ p, ((s.die k).msgs.find? fun p => inRun (leAt p.spec 0 2) 1 4) = some p ∧
    leAt p.spec 0 2 = 1 ∧ leAt p.payload 0 1 = 1 ∧ s.role = 2 ∧ p.src = s.landing) :=
  ⟨⟨st57, by decide +kernel⟩,
    ⟨st10, { stamp := 7, source := 9, code := 1299, error := false, tag := none, detail := [0x1, 0x2, 0x3] },
    [{ stamp := 7, source := 9, code := 1299, error := false, tag := none, detail := [0x01#8, 0x02#8, 0x03#8] }],
    by decide +kernel⟩,
    ⟨st11, { stamp := 7, source := 9, code := 1299, error := false, tag := none, detail := [0x1, 0x2, 0x3] },
    [{ stamp := 7, source := 9, code := 1299, error := false, tag := none, detail := [0x01#8, 0x02#8, 0x03#8] }],
    by decide +kernel⟩,
    ⟨st12, { stamp := 7, source := 9, code := 1299, error := false, tag := some 4097, detail := [0x1, 0x2, 0x3] }, [],
    4097, by decide +kernel⟩,
    ⟨{ st13.setReg (hpOff + 8) 10 with hp := { st13.hp with lastMsg := [(5, 1)] } }, (0x005#11), by decide +kernel⟩,
    ⟨st13, (0x005#11), by decide +kernel⟩,
    ⟨st57, by decide +kernel⟩,
    ⟨st57, by decide +kernel⟩,
    ⟨st14, (0x000008000#36),
    ((toBytes 0x7070707070707070707070707070707070707070707070707070707070707070707070707070707070707070707070707070707070707070707070707070707 64)),
    by decide +kernel⟩,
    ⟨st16, (0x080000003#36), by decide +kernel⟩,
    ⟨st16, 12, by decide +kernel⟩,
    ⟨st57, 772, by decide +kernel⟩,
    ⟨st16, 2, _, rfl, by decide +kernel⟩,
    ⟨st57, 2, _, rfl, by decide +kernel⟩⟩

theorem witness_ModuleCommands :
    (∃ (m : Mbx), ∃ (s : State), ∃ (k : Taken), s.cmd m 0x0001 k) ∧
    (∃ (m : Mbx), ∃ (s : State), ∃ (k : Taken), s.cmd m 0x0002 k) ∧
    (∃ (m : Mbx), ∃ (s : State), ∃ (k : Taken), s.cmd m 0x0003 k ∧ let n := k.arg 0 2; (n = 0 ∨ 255 < n)) ∧
    (∃ (m : Mbx), ∃ (s : State), ∃ (k : Taken), s.cmd m 0x0003 k ∧
    let n := k.arg 0 2; let c := k.arg 2 1; let f := k.arg 3 1; let v := k.arg 4 2; 1 ≤ n ∧ n ≤ 255 ∧ c ≤ 63 ∧ 1 ≤ f ∧
    f ≤ 15 ∧ (v ≤ 2047 ∨ v = 0xFFFF) ∧ ((s.mb n).owner = true ∨ (∃ j, j ≠ n ∧ s.frameMb c f = some j))) ∧
    (∃ (m : Mbx), ∃ (s : State), ∃ (k : Taken), s.cmd m 0x0003 k ∧
    let n := k.arg 0 2; let c := k.arg 2 1; let f := k.arg 3 1; let v := k.arg 4 2; 1 ≤ n ∧ n ≤ 255 ∧ c ≤ 63 ∧ 1 ≤ f ∧
    f ≤ 15 ∧ (v ≤ 2047 ∨ v = 0xFFFF) ∧ (s.mb n).owner = false ∧ s.frameMb c f = none) ∧
    (∃ (m : Mbx), ∃ (s : State), ∃ (k : Taken), s.cmd m 0x0003 k ∧
    let n := k.arg 0 2; let c := k.arg 2 1; let v := k.arg 4 2; 1 ≤ n ∧ n ≤ 255 ∧ c = 0xFF ∧ (v ≤ 2047 ∨ v = 0xFFFF) ∧
    (s.mb n).owner = false) ∧
    (∃ (m : Mbx), ∃ (s : State), ∃ (k : Taken), s.cmd m 0x0004 k ∧
    let g : EvRing := { EvRing.reset with set := true, base := k.arg 0 8, size := k.arg 8 4, vector := k.arg 12 2, thresh := k.arg 14 2, prodAddr := k.arg 16 8 }; g.base % 64 = 0 ∧
    (∃ e, 6 ≤ e ∧ e ≤ 20 ∧ g.size = 2 ^ e) ∧ (g.vector ≤ 2047 ∨ g.vector = 0xFFFF) ∧ 1 ≤ g.thresh ∧ g.thresh ≤ g.size ∧
    k.privileged = true ∧ k.tag = 0) ∧
    (∃ (m : Mbx), ∃ (s : State), ∃ (k : Taken), s.cmd m 0x0004 k ∧
    let g : EvRing := { EvRing.reset with set := true, base := k.arg 0 8, size := k.arg 8 4, vector := k.arg 12 2, thresh := k.arg 14 2, prodAddr := k.arg 16 8 }; g.base % 64 = 0 ∧
    (∃ e, 6 ≤ e ∧ e ≤ 20 ∧ g.size = 2 ^ e) ∧ (g.vector ≤ 2047 ∨ g.vector = 0xFFFF) ∧ 1 ≤ g.thresh ∧ g.thresh ≤ g.size ∧
    k.privileged = false ∧ k.ctx ≤ 63 ∧ (s.ctx k.ctx).phase ≠ .teardown) ∧
    (∃ (m : Mbx), ∃ (s : State), ∃ (k : Taken), s.cmd m 0x0005 k ∧ 62 < k.arg 0 1) ∧
    (∃ (m : Mbx), ∃ (s : State), ∃ (k : Taken), s.cmd m 0x0005 k ∧
    let e : ApertureEntry := { valid := k.arg 1 1 = 1, module := k.arg 2 2, tag := k.arg 4 4, base := k.arg 8 6, pages := k.arg 16 4 }; k.arg 0 1 ≤ 62 ∧
    k.arg 1 1 ≤ 1 ∧ e.module ≤ 8191 ∧ e.tag < 2 ^ 18 ∧ e.base % 2 ^ 21 = 0 ∧ 1 ≤ e.pages ∧ e.pages ≤ 512) :=
  ⟨⟨5, st19, _, ⟨rfl, rfl, rfl, by decide +kernel⟩⟩,
    ⟨5, st20, _, ⟨rfl, rfl, rfl, by decide +kernel⟩⟩,
    ⟨5, st22, _, ⟨rfl, rfl, rfl, by decide +kernel⟩, by decide +kernel⟩,
    ⟨5, st24, _, ⟨rfl, rfl, rfl, by decide +kernel⟩, head3 (by decide +kernel) (head3 (by decide +kernel) (Or.inr ⟨9, by decide +kernel⟩))⟩,
    ⟨5, st25, _, ⟨rfl, rfl, rfl, by decide +kernel⟩, by decide +kernel⟩,
    ⟨5, st26, _, ⟨rfl, rfl, rfl, by decide +kernel⟩, by decide +kernel⟩,
    ⟨5, st27, _, ⟨rfl, rfl, rfl, by decide +kernel⟩, by decide +kernel, ⟨6, by decide +kernel⟩, by decide +kernel⟩,
    ⟨5, st28, _, ⟨rfl, rfl, rfl, by decide +kernel⟩, by decide +kernel, ⟨6, by decide +kernel⟩, by decide +kernel⟩,
    ⟨5, st29, _, ⟨rfl, rfl, rfl, by decide +kernel⟩, by decide +kernel⟩,
    ⟨5, st30, _, ⟨rfl, rfl, rfl, by decide +kernel⟩, by decide +kernel⟩⟩

theorem witness_MemoryCommands :
    (∃ (m : Mbx), ∃ (s : State), ∃ (k : Taken), s.cmd m 0x0301 k ∧
    let c := k.arg 0 1; let lb := k.arg 4 4; let lc := k.arg 8 4; let rb := k.arg 12 4; let rc := k.arg 16 4; c ≤ 63 ∧
    lb + lc ≤ 393216 ∧ rb + rc ≤ 131072 ∧ k.ctx ≠ c) ∧
    (∃ (m : Mbx), ∃ (s : State), ∃ (k : Taken), s.cmd m 0x0301 k ∧
    let c := k.arg 0 1; let lb := k.arg 4 4; let lc := k.arg 8 4; let rb := k.arg 12 4; let rc := k.arg 16 4; c ≤ 63 ∧
    lb + lc ≤ 393216 ∧ rb + rc ≤ 131072 ∧ k.ctx = c ∧
    (s.rangeLoses c lb lc rb rc = true ∨ s.rangeTaken c lb lc rb rc = true)) ∧
    (∃ (m : Mbx), ∃ (s : State), ∃ (k : Taken), s.cmd m 0x0301 k ∧
    let c := k.arg 0 1; let lb := k.arg 4 4; let lc := k.arg 8 4; let rb := k.arg 12 4; let rc := k.arg 16 4; c ≤ 63 ∧
    lb + lc ≤ 393216 ∧ rb + rc ≤ 131072 ∧ k.ctx = c ∧ s.rangeLoses c lb lc rb rc = false ∧
    s.rangeTaken c lb lc rb rc = false) ∧
    (∃ (m : Mbx), ∃ (s : State), ∃ (k : Taken), s.cmd m 0x0302 k ∧ k.arg 0 1 = 0 ∧ k.arg 8 4 = 1 ∧
    k.arg 4 4 < (s.ctx k.ctx).lcount ∧
    let e := leAt (k.data.getD []) 0 16; let i := (s.ctx k.ctx).lbase + k.arg 4 4; let old := (s.xlate.get 0 i).toNat; let g := fld e 32 27; let w := s.owner g; entryBad e = false ∧
    s.entryOff e = false ∧ bit e 0 = true ∧ fld e 4 2 < 2 ∧ k.tag < 2 ^ 18 ∧ bit old 0 = false ∧
    (fld w 18 3 = 0 ∨ (fld w 18 3 = 1 ∧ fld w 0 18 = k.tag))) ∧
    (∃ (m : Mbx), ∃ (s : State), ∃ (k : Taken), s.cmd m 0x0302 k ∧ k.arg 0 1 = 0 ∧ k.arg 8 4 = 1 ∧
    k.arg 4 4 < (s.ctx k.ctx).lcount ∧
    let e := leAt (k.data.getD []) 0 16; let i := (s.ctx k.ctx).lbase + k.arg 4 4; let old := (s.xlate.get 0 i).toNat; let g := fld e 32 27; let w := s.owner g; entryBad e = false ∧
    s.entryOff e = false ∧ bit e 0 = true ∧ fld e 4 2 < 2 ∧ k.tag < 2 ^ 18 ∧
    (bit old 0 = true ∧ fld old 32 27 ≠ g ∨ 1 < fld w 18 3 ∨ (fld w 18 3 = 1 ∧ fld w 0 18 ≠ k.tag))) ∧
    (∃ (m : Mbx), ∃ (s : State), ∃ (k : Taken), s.cmd m 0x0303 k ∧ k.arg 0 1 = 0 ∧ 1 ≤ k.arg 8 4 ∧
    k.arg 4 4 + k.arg 8 4 ≤ (s.ctx k.ctx).lcount ∧
    let first := (s.ctx k.ctx).lbase + k.arg 4 4; let mine := (s.xlate.filter fun e => bit e.2.toNat 0 && decide (first ≤ e.1 ∧ e.1 < first + k.arg 8 4)); (∀ e ∈ mine, fld e.2.toNat 4 2 < 2 → s.windowHolds (fld e.2.toNat 32 27) = false)) ∧
    (∃ (m : Mbx), ∃ (s : State), ∃ (k : Taken), s.cmd m 0x0304 k ∧ 1 ≤ k.arg 0 4 ∧ k.arg 0 4 ≤ 120) ∧
    (∃ (m : Mbx), ∃ (s : State), ∃ (k : Taken), let n := k.arg 0 1; let w := k.arg 1 1; n ≤ 15 ∧ w ≤ 63 ∧
    s.cmd m 0x0305 k ∧ let d := sliceBytes k.args 8 64; leAt d 0 4 % 2 ^ 18 = k.tag ∧ s.readyBit (16 + n) = true ∧
    ∃ st u, s.openWin n w d = (st, u)) ∧
    (∃ (m : Mbx), ∃ (s : State), ∃ (k : Taken), let n := k.arg 0 1; let w := k.arg 1 1; n ≤ 15 ∧ w ≤ 63 ∧
    s.cmd m 0x0306 k ∧ 1 ≤ k.arg 8 2 ∧ k.arg 8 2 ≤ 8192 ∧ (s.win n w).state ≠ .closed ∧ (s.win n w).tag ≠ k.tag) ∧
    (∃ (m : Mbx), ∃ (s : State), ∃ (k : Taken), let n := k.arg 0 1; let w := k.arg 1 1; n ≤ 15 ∧ w ≤ 63 ∧
    s.cmd m 0x0306 k ∧ 1 ≤ k.arg 8 2 ∧ k.arg 8 2 ≤ 8192 ∧ (s.win n w).state = .abandoned ∧ (s.win n w).tag = k.tag) ∧
    (∃ (m : Mbx), ∃ (s : State), ∃ (k : Taken), let n := k.arg 0 1; let w := k.arg 1 1; n ≤ 15 ∧ w ≤ 63 ∧
    s.cmd m 0x0307 k ∧ ((s.win n w).state = .closed ∨ (s.win n w).tag = k.tag) ∧ (s.win n w).state ≠ .finishing) ∧
    (∃ (m : Mbx), ∃ (s : State), ∃ (k : Taken), let n := k.arg 0 1; let w := k.arg 1 1; n ≤ 15 ∧ w ≤ 63 ∧
    s.cmd m 0x0307 k ∧ ((s.win n w).state = .closed ∨ (s.win n w).tag = k.tag) ∧ (s.win n w).state = .finishing) ∧
    (∃ (m : Mbx), ∃ (s : State), ∃ (k : Taken), s.cmd m 0x0308 k) ∧
    (∃ (m : Mbx), ∃ (s : State), ∃ (k : Taken), s.cmd m 0x0309 k ∧ let l := setBits (k.arg 0 2) 16; 1 ≤ k.arg 2 1 ∧
    k.arg 2 1 ≤ 8 ∧ (∃ n ∈ l, s.readyBit (16 + n) = false)) ∧
    (∃ (m : Mbx), ∃ (s : State), ∃ (k : Taken), s.cmd m 0x0309 k ∧ let l := setBits (k.arg 0 2) 16; 1 ≤ k.arg 2 1 ∧
    k.arg 2 1 ≤ 8 ∧ (∀ n ∈ l, s.readyBit (16 + n) = true) ∧ (∃ n ∈ l, s.stackOwned n = true)) ∧
    (∃ (m : Mbx), ∃ (s : State), ∃ (k : Taken), s.cmd m 0x0309 k ∧ let l := setBits (k.arg 0 2) 16; 1 ≤ k.arg 2 1 ∧
    k.arg 2 1 ≤ 8 ∧ (∀ n ∈ l, s.readyBit (16 + n) = true) ∧ (∀ n ∈ l, s.stackOwned n = false)) ∧
    (∃ (m : Mbx), ∃ (s : State), ∃ (k : Taken), (s.mb m).taken = some k ∧ k.opcode = 0x0309 ∧ k.waits = true) ∧
    (∃ (m : Mbx), ∃ (s : State), ∃ (k : Taken), s.cmd m 0x0310 k ∧ let n := k.arg 16 8; k.arg 24 1 = 0 ∧ n = 0) ∧
    (∃ (m : Mbx), ∃ (s : State), ∃ (k : Taken), s.cmd m 0x0310 k ∧
    let n := k.arg 16 8; let va := k.arg 8 8; k.arg 24 1 = 0 ∧ ∃ c, 1 ≤ n ∧ s.translate k.tag va .wr = .fault c ∧
    c < 2 ^ 16) ∧
    (∃ (m : Mbx), ∃ (s : State), ∃ (k : Taken), s.cmd m 0x0310 k ∧
    let n := k.arg 16 8; let va := k.arg 8 8; k.arg 24 1 = 0 ∧ ∃ la u, 1 ≤ n ∧ n ≤ 65536 ∧ va % 2 ^ 21 + n ≤ 2 ^ 21 ∧
    s.translate k.tag va .wr = .here la ∧
    (s.mbTotal m (cdiv n 65536)).writeVa none k.tag reachMemory 0x0302 (va + 0) (sliceBytes (k.data.getD []) 0 n) = (none, u)) :=
  ⟨⟨5, st31, _, ⟨rfl, rfl, rfl, by decide +kernel⟩, by decide +kernel⟩,
    ⟨5, st33, _, ⟨rfl, rfl, rfl, by decide +kernel⟩, by decide +kernel⟩,
    ⟨5, st32, _, ⟨rfl, rfl, rfl, by decide +kernel⟩, by decide +kernel⟩,
    ⟨5, st34, _, ⟨rfl, rfl, rfl, by decide +kernel⟩, by decide +kernel⟩,
    ⟨5, st36, _, ⟨rfl, rfl, rfl, by decide +kernel⟩, by decide +kernel⟩,
    ⟨5, st38, _, ⟨rfl, rfl, rfl, by decide +kernel⟩, by decide +kernel⟩,
    ⟨5, st39, _, ⟨rfl, rfl, rfl, by decide +kernel⟩, by decide +kernel⟩,
    ⟨5, st41, _, by decide +kernel, by decide +kernel, ⟨rfl, rfl, rfl, by decide +kernel⟩, by decide +kernel,
    by decide +kernel, 1289, st41, by decide +kernel⟩,
    ⟨5, st42, _, by decide +kernel, by decide +kernel, ⟨rfl, rfl, rfl, by decide +kernel⟩, by decide +kernel⟩,
    ⟨5, st43, _, by decide +kernel, by decide +kernel, ⟨rfl, rfl, rfl, by decide +kernel⟩, by decide +kernel⟩,
    ⟨5, st44, _, by decide +kernel, by decide +kernel, ⟨rfl, rfl, rfl, by decide +kernel⟩, by decide +kernel⟩,
    ⟨5, st45, _, by decide +kernel, by decide +kernel, ⟨rfl, rfl, rfl, by decide +kernel⟩, by decide +kernel⟩,
    ⟨5, st46, _, ⟨rfl, rfl, rfl, by decide +kernel⟩⟩,
    ⟨5, st47, _, ⟨rfl, rfl, rfl, by decide +kernel⟩, by decide +kernel⟩,
    ⟨5, st48, _, ⟨rfl, rfl, rfl, by decide +kernel⟩, by decide +kernel⟩,
    ⟨5, st49, _, ⟨rfl, rfl, rfl, by decide +kernel⟩, by decide +kernel⟩,
    ⟨5, st50, _, rfl, by decide +kernel⟩,
    ⟨5, st51, _, ⟨rfl, rfl, rfl, by decide +kernel⟩, by decide +kernel⟩,
    ⟨5, st52, _, ⟨rfl, rfl, rfl, by decide +kernel⟩, by decide +kernel, 770, by decide +kernel⟩,
    ⟨5, st53, _, ⟨rfl, rfl, rfl, by decide +kernel⟩, by decide +kernel, 137648668800, _, head4 (by decide +kernel) (pair_of_fst (by decide +kernel))⟩⟩

end Sys2Proof.Tests.CommandStates

/-! ### States for the statements on span, context, shard and settings commands -/

namespace Sys2Proof.Tests.SpanStates
open Sys2Proof Sys2Proof.Machine Sys2Proof.Tests

def cl0 : Collective := { Collective.reset with state := .opn, op := 0, sfmt := 11, dfmt := 11, tag := tg, len := 64, n := 2, rank := 0, owner := 0, round := 3, epoch := 9, all := true, dst := 0, group := 5 }
def grp (s : State) : State := s.updKs fun k => { k with groups := [(5, [0, 9])] }
def cd : List (Nat × Nat) := [(0,7),(8,5),(10,0),(11,0xBB),(16,0),(24,64),(28,3),(30,0),(32,2),(34,0),(36,9),(40,tg)]
def pr (p : Nat) (s : State) : State := s.updPier p fun x => { x with ready := true }
def up (p : Nat) (s : State) : State := (pr p s).updStack p fun x => { x with up := true }
def sr : StepRun :=
  { mb := some 6, desc := bs 128 [], number := 1, twin := false, evalPiers := 0, stepPiers := 4, openStamp := 0, epoch := 0,
    rank := 0, main := [], deferred := [], eval := [], taskFault := false, evalFault := none, uncorrected := false,
    sealed := [], leaves := [], late := [], root := none, contributed := none, result := none, causes := 0,
    localStamp := 0, gap := [], fill := [], delay := [] }
def te (p : Nat) : List (Nat × Nat) := [(0,1),(8,p),(10,0x89),(12,3),(16,64),(24,16),(28,7)]
def jh : List Byte := toBytes tg 3 ++ [0] ++ toBytes 1 2 ++ [0xAA, 0] ++ toBytes 0 8 ++ toBytes (la0 + 4096) 6 ++ toBytes 0 6 ++ toBytes 5 1 ++ toBytes 6 1 ++ toBytes 65535 2 ++ toBytes 0 32
def jp : List Byte := toBytes (2^40 + 2^29 + 64) 6 ++ toBytes 0 2 ++ toBytes 64 4 ++ toBytes 1 4 ++ toBytes 64 4 ++ toBytes 0 2 ++ toBytes tg 3 ++ [0] ++ toBytes (2^40 + 2^29 + 4096) 6 ++ toBytes 64 4 ++ toBytes 0 28
def jb : ReshardJob := { addr := la0, header := jh, mb := none, waiting := [], rowsDone := 0, rowsTotal := 0, pieces := 0, report := ConvReport.reset, failed := none, bad := [] }
def jm (s : State) : State := { s with mem := Memory.writeList (Memory.writeList (Memory.writeList [] la0 jh) (la0 + 4096) jp) (2^40 + 2^29 + 64) [1,2,3,4,5,6,7] }
def own (s : State) : State := { s with routes := [(0, BitVec.ofNat 32 (3 * 2^24))] }
def cfgOk (s : State) : State := own s
def st0 : State := cmdAt { tk 0x403 [(0,5),(2,2)] with ask := some (64,4), data := some (bs 4 [(0,3),(2,9)]) } id
def st1 : State := cmdAt { tk 0x403 [(0,5),(2,2)] with ask := some (64,4), data := some (bs 4 [(0,3),(2,9)]) } fun s => s.updColl 7 fun _ => cl0
def st2 : State := cmdAt (tk 0x404 cd) id
def st3 : State := cmdAt (tk 0x404 cd) grp
def st4 : State := cmdAt (tk 0x404 [(0,7)]) grp
def st5 : State := cmdAt (tk 0x405 [(0,7),(4,9),(8,2),(10,0),(12,1)]) fun s => grp (s.updColl 7 fun _ => { cl0 with state := .abandoned })
def st6 : State := cmdAt (tk 0x405 [(0,7),(4,9),(8,2),(10,0),(12,1)]) fun s => grp (s.updColl 7 fun _ => { cl0 with tag := 3 })
def st7 : State := cmdAt (tk 0x406 [(0,7)]) fun s => grp (s.updColl 7 fun _ => cl0)
def st8 : State := cmdAt (tkP 0x407 [(0,8)]) fun s => s.setReg (zlOff 3 + 0xC) 0
def st9 : State := cmdAt (tkP 0x407 [(0,2^23)]) fun s => s.updLink 23 fun l => { l with phase := .up, txSeq := 9 }
def st10 : State := cmdAt (tkP 0x501 [(0,64)]) id
def st11 : State := cmdAt (tk 0x501 [(0,1)]) id
def st53 : State := cmdAt (tkP 0x501 [(0,1)]) id
def st12 : State := cmdAt (tk 0x501 [(0,1)]) fun s => s.updCtx 1 fun c => { c with phase := .free }
def st13 : State := cmdAt (tk 0x502 [(0,1)]) id
def st14 : State := cmdAt (tk 0x502 [(0,1)]) fun s => s.updKs fun k => { k with fenceDead := true }
def st15 : State := cmdAt (tk 0x503 [(0,8)]) id
def st16 : State := cmdAt (tk 0x503 [(0,8)]) (up 3)
def st17 : State := cmdAt (tk 0x503 [(0,8)]) fun s => (up 3 s).updPier 3 fun x => { x with serves := some 2 }
def st18 : State := cmdAt (tk 0x503 [(2,8)]) id
def st19 : State := cmdAt (tk 0x504 [(0,8)]) id
def st54 : State := cmdAt (tk 0x504 [(0,8)]) fun s => s.updPier 3 fun x => { x with power := 0 }
def st20 : State := cmdAt (tk 0x504 [(0,8)]) fun s => (up 3 s).updCtx 1 fun c => { c with lastRaise := some 0 }
def st22 : State := cmdAt (tk 0x504 [(0,4)]) fun s => s.updCtx 1 fun c => { c with step := some sr }
def st23 : State := cmdAt (tk 0x505 (te 3)) id
def st24 : State := cmdAt (tk 0x505 (te 2)) id
def st25 : State := cmdAt (tk 0x505 (te 2)) fun s => s.updCtx 1 fun c => { c with step := some sr }
def st27 : State := cmdAt (tk 0x506 []) fun s => s.updCtx 1 fun c => { c with step := some sr, stepWait := [9] }
def st30 : State := cmdAt (tk 0x507 [(0,2^40),(8,256)]) id
def st31 : State := cmdAt (tk 0x508 [(0,64),(8,256)]) id
def st32 : State := cmdAt (tk 0x509 [(0,64),(8,2^22),(16,7),(20,1)]) id
def st33 : State := cmdAt (tk 0x509 [(0,64),(8,2^21),(16,7),(20,1)]) id
def st34 : State := cmdAt (tk 0x50A [(0,15),(1,1),(2,3),(3,4),(4,3),(8,128),(16,4096),(20,2048)]) id
def st35 : State := cmdAt (tk 0x50A [(0,15),(1,1),(2,3),(3,4),(4,3),(8,2^30),(16,4096),(20,2048)]) id
def st36 : State := cmdAt (tk 0x50A [(0,15)]) fun s => [0,1,2,3].foldl (fun s d => s.setReg (rshOff d + 0x100 + 32 * 15 + 16) (BitVec.ofNat 32 (2^30 + tg))) s
def st37 : State := cmdAt (tk 0x50B [(0,2),(8,la0)]) jm
def st38 : State := cmdAt (tk 0x50B [(0,2),(8,la0)]) fun s => jm (s.updDie 2 fun d => { d with jobs := List.replicate 8 jb })
def st39 : State := cmdAt (tkP 0x101 [(0,1),(8,0x2B024),(12,0x0032FFFF)]) id
def st40 : State := cmdAt (tkP 0x101 [(0,1),(8,0x2B004),(12,0x0032FFFF)]) id
def st41 : State := cmdAt (tkP 0x103 []) fun s => s.updKs fun k => { k with staged := [(cfgOff + 0x24, 9)] }
def st42 : State := cmdAt { tkP 0x401 [(0,8190),(2,2)] with ask := some (64,8), data := some (bs 8 [(0,77),(4,88)]) } id
def st43 : State := cmdAt { tkP 0x401 [(0,8190),(2,3)] with ask := some (64,8), data := some (bs 8 [(0,77),(4,88)]) } id
def st44 : State := cmdAt { tkP 0x402 [(0,23)] with ask := some (64,512), data := some (bs 512 [(0,77),(510,0xFFFF)]) } id
def st45 : State := cmdAt { tkP 0x402 [(0,24)] with ask := some (64,512), data := some (bs 512 [(0,77),(510,0xFFFF)]) } id
def st46 : State := cmdAt (tkP 0x102 []) fun s => s.setReg (mgtOff + 4) 1
def st47 : State := cmdAt (tkP 0x102 []) fun s => s.updKs fun k => { k with commit := some { mb := 9, words := [], routes := [], fast := [] } }
def st48 : State := cmdAt (tkP 0x102 []) id
def st49 : State := cmdAt (tkP 0x102 []) cfgOk
def st51 : State := cmdAt { tkP 0x102 [] with waits := true } fun s => s.updKs fun k => { k with commit := some { mb := 5, words := [(cfgOff + 0x24, 0x0032C4B0)], routes := [], fast := [] } }
def st52 : State := { State.reset with phys := { Physical.reset with input := true }, ks := { Keystone.reset with bringup := 3 } }

theorem witness_SpanCommands :
    (∃ (m : Mbx), ∃ (s : State), ∃ (k : Taken), s.cmd m 0x0403 k ∧
    let g := k.arg 0 2; let n := k.arg 2 2; let l := (List.range n).map fun i => leAt (k.data.getD []) (2 * i) 2; g ≤ 1023 ∧
    1 ≤ n ∧ n ≤ 8192 ∧ (∀ x ∈ l, x ≤ 8191) ∧ (∃ x ∈ s.colls, x.2.state = .opn ∧ x.2.group = g)) ∧
    (∃ (m : Mbx), ∃ (s : State), ∃ (k : Taken), s.cmd m 0x0403 k ∧
    let g := k.arg 0 2; let n := k.arg 2 2; let l := (List.range n).map fun i => leAt (k.data.getD []) (2 * i) 2; g ≤ 1023 ∧
    1 ≤ n ∧ n ≤ 8192 ∧ (∀ x ∈ l, x ≤ 8191) ∧ (∀ x ∈ s.colls, ¬(x.2.state = .opn ∧ x.2.group = g))) ∧
    (∃ (m : Mbx), ∃ (s : State), ∃ (k : Taken), s.cmd m 0x0404 k ∧
    let b := sliceBytes k.args 8 64; leAt b 32 4 % 2 ^ 18 ≠ k.tag) ∧
    (∃ (m : Mbx), ∃ (s : State), ∃ (k : Taken), s.cmd m 0x0404 k ∧
    let b := sliceBytes k.args 8 64; leAt b 32 4 % 2 ^ 18 = k.tag ∧ (s.coll (k.arg 0 1)).state = .closed ∧
    s.collRejects b = false) ∧
    (∃ (m : Mbx), ∃ (s : State), ∃ (k : Taken), s.cmd m 0x0404 k ∧
    let b := sliceBytes k.args 8 64; leAt b 32 4 % 2 ^ 18 = k.tag ∧ (s.coll (k.arg 0 1)).state = .closed ∧
    s.collRejects b = true) ∧
    (∃ (m : Mbx), ∃ (s : State), ∃ (k : Taken), s.cmd m 0x0405 k ∧ let d := k.arg 0 1; (s.coll d).state ≠ .closed ∧
    (s.coll d).tag ≠ k.tag) ∧
    (∃ (m : Mbx), ∃ (s : State), ∃ (k : Taken), s.cmd m 0x0405 k ∧
    let d := k.arg 0 1; let n := k.arg 8 2; (s.coll d).state = .abandoned ∧ (s.coll d).tag = k.tag ∧ 1 ≤ n ∧ n ≤ 8192 ∧
    k.arg 10 2 < n ∧ k.arg 12 2 < n ∧ s.groupOk (s.coll d).group n (k.arg 10 2) = true) ∧
    (∃ (m : Mbx), ∃ (s : State), ∃ (k : Taken), s.cmd m 0x0406 k ∧ let d := k.arg 0 1; (s.coll d).state ≠ .closed ∧
    (s.coll d).tag = k.tag ∧ (s.coll d).written = []) ∧
    (∃ (m : Mbx), ∃ (s : State), ∃ (k : Taken), ∃ (l : Lnk), s.cmd m 0x0407 k ∧ k.arg 0 4 = 2 ^ l.val ∧ k.arg 4 1 = 0 ∧
    (∀ i, (s.link i).ctrlMb = none) ∧ (s.link l).phase = .up) ∧
    (∃ (m : Mbx), ∃ (s : State), ∃ (k : Taken), ∃ (l : Lnk), s.cmd m 0x0407 k ∧ k.arg 0 4 = 2 ^ l.val ∧ k.arg 4 1 = 0 ∧
    (∀ i, (s.link i).ctrlMb = none) ∧ (s.link l).phase = .down ∧ s.isRunning = true ∧ s.linkOff l = false ∧
    (s.link l).roleBad = false) :=
  ⟨⟨5, st1, _, ⟨rfl, rfl, rfl, by decide +kernel⟩, by decide +kernel⟩,
    ⟨5, st0, _, ⟨rfl, rfl, rfl, by decide +kernel⟩, by decide +kernel⟩,
    ⟨5, st4, _, ⟨rfl, rfl, rfl, by decide +kernel⟩, by decide +kernel⟩,
    ⟨5, st3, _, ⟨rfl, rfl, rfl, by decide +kernel⟩, by decide +kernel⟩,
    ⟨5, st2, _, ⟨rfl, rfl, rfl, by decide +kernel⟩, by decide +kernel⟩,
    ⟨5, st6, _, ⟨rfl, rfl, rfl, by decide +kernel⟩, by decide +kernel⟩,
    ⟨5, st5, _, ⟨rfl, rfl, rfl, by decide +kernel⟩, by decide +kernel⟩,
    ⟨5, st7, _, ⟨rfl, rfl, rfl, by decide +kernel⟩, by decide +kernel⟩,
    ⟨5, st9, _, 23, ⟨rfl, rfl, rfl, by decide +kernel⟩, by decide +kernel, by decide +kernel,
    Tab.all_get (P := fun x : LinkState => x.ctrlMb = none) (by decide +kernel) (by decide +kernel), by decide +kernel⟩,
    ⟨5, st8, _, 3, ⟨rfl, rfl, rfl, by decide +kernel⟩, by decide +kernel, by decide +kernel,
    Tab.all_get (P := fun x : LinkState => x.ctrlMb = none) (by decide +kernel) (by decide +kernel), by decide +kernel⟩⟩

theorem witness_ContextCommands :
    (∃ (m : Mbx), ∃ (s : State), ∃ (k : Taken), s.cmd m 0x0501 k ∧ let c := k.arg 0 1; 63 < c) ∧
    (∃ (m : Mbx), ∃ (s : State), ∃ (k : Taken), s.cmd m 0x0501 k ∧ let c := k.arg 0 1; c ≤ 63 ∧ k.ctx ≠ c) ∧
    (∃ (m : Mbx), ∃ (s : State), ∃ (k : Taken), s.cmd m 0x0501 k ∧ let c := k.arg 0 1; c ≤ 63 ∧ k.ctx = c ∧
    (s.ctx c).phase ≠ .free) ∧
    (∃ (m : Mbx), ∃ (s : State), ∃ (k : Taken), s.cmd m 0x0501 k ∧ let c := k.arg 0 1; c ≤ 63 ∧ k.ctx = c ∧
    (s.ctx c).phase = .free) ∧
    (∃ (m : Mbx), ∃ (s : State), ∃ (k : Taken), s.cmd m 0x0502 k ∧ k.ctx = k.arg 0 1 ∧ k.ctx ≤ 63 ∧
    s.ks.fenceDead = false ∧ s.ks.fence = none ∧ s.ks.fences = []) ∧
    (∃ (m : Mbx), ∃ (s : State), ∃ (k : Taken), s.cmd m 0x0502 k ∧ k.ctx = k.arg 0 1 ∧ k.ctx ≤ 63 ∧
    s.ks.fenceDead = true) ∧
    (∃ (m : Mbx), ∃ (s : State), ∃ (k : Taken), ∃ (p : Pier), s.cmd m 0x0503 k ∧ k.arg 0 2 = 2 ^ p.val ∧ k.arg 2 2 = 0 ∧
    s.ks.fence = none ∧ s.ks.fences = [] ∧ s.placeable p = false) ∧
    (∃ (m : Mbx), ∃ (s : State), ∃ (k : Taken), ∃ (p : Pier), s.cmd m 0x0503 k ∧ k.arg 0 2 = 2 ^ p.val ∧ k.arg 2 2 = 0 ∧
    s.ks.fence = none ∧ s.ks.fences = [] ∧ s.placeable p = true ∧ s.pierTaken k.ctx p = true) ∧
    (∃ (m : Mbx), ∃ (s : State), ∃ (k : Taken), ∃ (p : Pier), s.cmd m 0x0503 k ∧ k.arg 0 2 = 2 ^ p.val ∧ k.arg 2 2 = 0 ∧
    s.ks.fence = none ∧ s.ks.fences = [] ∧ s.placeable p = true ∧ s.pierTaken k.ctx p = false) ∧
    (∃ (m : Mbx), ∃ (s : State), ∃ (k : Taken), ∃ (p : Pier), s.cmd m 0x0503 k ∧ k.arg 0 2 = 0 ∧ k.arg 2 2 = 2 ^ p.val ∧
    (s.pier p).serves ≠ some k.ctx) ∧
    (∃ (m : Mbx), ∃ (s : State), ∃ (k : Taken), ∃ (p : Pier), s.cmd m 0x0504 k ∧ k.arg 0 2 = 2 ^ p.val ∧
    s.ks.fenceDead = false ∧ s.placeable p = false ∧ (s.pier p).serves ≠ some k.ctx ∧ (s.pier p).power = 0) ∧
    (∃ (m : Mbx), ∃ (s : State), ∃ (k : Taken), ∃ (p : Pier), s.cmd m 0x0504 k ∧ k.arg 0 2 = 2 ^ p.val ∧
    s.ks.fenceDead = false ∧ s.placeable p = false ∧ ((s.pier p).serves = some k.ctx ∨ (s.pier p).power ≠ 0)) ∧
    (∃ (m : Mbx), ∃ (s : State), ∃ (k : Taken), ∃ (p : Pier), s.cmd m 0x0504 k ∧ k.arg 0 2 = 2 ^ p.val ∧
    s.ks.fenceDead = false ∧ ∃ x, s.placeable p = true ∧ (s.ctx k.ctx).lastRaise = some x ∧ s.elapsed < x + 1000000) ∧
    (∃ (m : Mbx), ∃ (s : State), ∃ (k : Taken), ∃ (p : Pier), s.cmd m 0x0504 k ∧ k.arg 0 2 = 2 ^ p.val ∧
    s.ks.fenceDead = false ∧ s.placeable p = true ∧ ((s.pier p).serves = none ∨ (s.pier p).serves = some k.ctx) ∧
    (s.ctx k.ctx).lastRaise = none ∧ s.ks.fence = none ∧ s.ks.fences = [] ∧ (s.ctx k.ctx).step ≠ none) ∧
    (∃ (m : Mbx), ∃ (s : State), ∃ (k : Taken), s.cmd m 0x0505 k ∧ k.arg 0 1 = 1 ∧
    let d := sliceBytes k.args 8 32; let e := parseEntry d; entryClean d = true ∧ e.kind = 0 ∧
    (s.pier e.pier).serves ≠ some k.ctx) ∧
    (∃ (m : Mbx), ∃ (s : State), ∃ (k : Taken), s.cmd m 0x0505 k ∧ k.arg 0 1 = 1 ∧
    let d := sliceBytes k.args 8 32; let e := parseEntry d; entryClean d = true ∧ e.kind = 0 ∧
    (s.pier e.pier).serves = some k.ctx ∧ s.stepPier e.pier = true) ∧
    (∃ (m : Mbx), ∃ (s : State), ∃ (k : Taken), s.cmd m 0x0505 k ∧ k.arg 0 1 = 1 ∧
    let d := sliceBytes k.args 8 32; let e := parseEntry d; entryClean d = true ∧ e.kind = 0 ∧
    (s.pier e.pier).serves = some k.ctx ∧ s.stepPier e.pier = false) ∧
    (∃ (m : Mbx), ∃ (s : State), ∃ (k : Taken), s.cmd m 0x0506 k) :=
  ⟨⟨5, st10, _, ⟨rfl, rfl, rfl, by decide +kernel⟩, by decide +kernel⟩,
    ⟨5, st53, _, ⟨rfl, rfl, rfl, by decide +kernel⟩, by decide +kernel⟩,
    ⟨5, st11, _, ⟨rfl, rfl, rfl, by decide +kernel⟩, by decide +kernel⟩,
    ⟨5, st12, _, ⟨rfl, rfl, rfl, by decide +kernel⟩, by decide +kernel⟩,
    ⟨5, st13, _, ⟨rfl, rfl, rfl, by decide +kernel⟩, by decide +kernel⟩,
    ⟨5, st14, _, ⟨rfl, rfl, rfl, by decide +kernel⟩, by decide +kernel⟩,
    ⟨5, st15, _, 3, ⟨rfl, rfl, rfl, by decide +kernel⟩, by decide +kernel⟩,
    ⟨5, st17, _, 3, ⟨rfl, rfl, rfl, by decide +kernel⟩, by decide +kernel⟩,
    ⟨5, st16, _, 3, ⟨rfl, rfl, rfl, by decide +kernel⟩, by decide +kernel⟩,
    ⟨5, st18, _, 3, ⟨rfl, rfl, rfl, by decide +kernel⟩, by decide +kernel⟩,
    ⟨5, st54, _, 3, ⟨rfl, rfl, rfl, by decide +kernel⟩, by decide +kernel⟩,
    ⟨5, st19, _, 3, ⟨rfl, rfl, rfl, by decide +kernel⟩, by decide +kernel⟩,
    ⟨5, st20, _, 3, ⟨rfl, rfl, rfl, by decide +kernel⟩, by decide +kernel, by decide +kernel, 0, by decide +kernel⟩,
    ⟨5, st22, _, 2, ⟨rfl, rfl, rfl, by decide +kernel⟩, by decide +kernel⟩,
    ⟨5, st23, _, ⟨rfl, rfl, rfl, by decide +kernel⟩, by decide +kernel⟩,
    ⟨5, st25, _, ⟨rfl, rfl, rfl, by decide +kernel⟩, by decide +kernel⟩,
    ⟨5, st24, _, ⟨rfl, rfl, rfl, by decide +kernel⟩, by decide +kernel⟩,
    ⟨5, st27, _, ⟨rfl, rfl, rfl, by decide +kernel⟩⟩⟩

theorem witness_ShardCommands :
    (∃ (m : Mbx), ∃ (s : State), ∃ (k : Taken), s.cmd m 0x0507 k ∧ ∃ f u,
    (s.mbTotal m (cdiv (k.arg 8 8) 65536)).sealShard k.tag (k.arg 0 8) (k.arg 8 8) = (f, u) ∧
    (∀ c, f = some c → c < 2 ^ 16)) ∧
    (∃ (m : Mbx), ∃ (s : State), ∃ (k : Taken), s.cmd m 0x0508 k) ∧
    (∃ (m : Mbx), ∃ (s : State), ∃ (k : Taken), s.cmd m 0x0509 k ∧ k.ctx ≤ 63 ∧ k.arg 20 1 ≤ 1 ∧
    s.stackRun k.tag (k.arg 0 8) (k.arg 8 8) = none) ∧
    (∃ (m : Mbx), ∃ (s : State), ∃ (k : Taken), s.cmd m 0x0509 k ∧ k.ctx ≤ 63 ∧ k.arg 20 1 ≤ 1 ∧ ∃ g n,
    s.stackRun k.tag (k.arg 0 8) (k.arg 8 8) = some (g, n)) ∧
    (∃ (m : Mbx), ∃ (s : State), ∃ (k : Taken), s.cmd m 0x050A k ∧
    let i := k.arg 0 1; let va := k.arg 8 8; let len := k.arg 16 4; i ≤ 15 ∧ k.arg 2 1 ≤ 15 ∧ k.arg 3 1 ≤ 63 ∧
    k.arg 4 1 ≤ 3 ∧ va % 64 = 0 ∧ len % 64 = 0 ∧ (s.lrValid 0 i = false ∨ s.lrTag 0 i = k.tag) ∧ k.arg 1 1 = 0) ∧
    (∃ (m : Mbx), ∃ (s : State), ∃ (k : Taken), s.cmd m 0x050A k ∧
    let i := k.arg 0 1; let va := k.arg 8 8; let len := k.arg 16 4; i ≤ 15 ∧ k.arg 2 1 ≤ 15 ∧ k.arg 3 1 ≤ 63 ∧
    k.arg 4 1 ≤ 3 ∧ va % 64 = 0 ∧ len % 64 = 0 ∧ (s.lrValid 0 i = false ∨ s.lrTag 0 i = k.tag) ∧ k.arg 1 1 = 1 ∧
    s.landingRun k.tag va len = none) ∧
    (∃ (m : Mbx), ∃ (s : State), ∃ (k : Taken), s.cmd m 0x050A k ∧
    let i := k.arg 0 1; let va := k.arg 8 8; let len := k.arg 16 4; let slot := k.arg 20 4; i ≤ 15 ∧ k.arg 2 1 ≤ 15 ∧
    k.arg 3 1 ≤ 63 ∧ k.arg 4 1 ≤ 3 ∧ va % 64 = 0 ∧ len % 64 = 0 ∧ (s.lrValid 0 i = false ∨ s.lrTag 0 i = k.tag) ∧ ∃ la,
    k.arg 1 1 = 1 ∧ s.landingRun k.tag va len = some la ∧
    (∀ j, j < 16 → j ≠ i → s.lrValid 0 j = true → overlaps la len (s.lrBase 0 j) (s.lrLen 0 j) = false) ∧ slot % 64 = 0 ∧
    64 ≤ slot ∧ slot ≤ 2 ^ 31 ∧ slot ≤ len) ∧
    (∃ (m : Mbx), ∃ (s : State), ∃ (k : Taken), s.cmd m 0x050B k ∧ k.arg 0 1 ≤ 3 ∧ k.arg 8 6 % 64 = 0 ∧
    8 ≤ (s.die (k.arg 0 1)).jobs.length) ∧
    (∃ (m : Mbx), ∃ (s : State), ∃ (k : Taken), s.cmd m 0x050B k ∧ k.arg 0 1 ≤ 3 ∧ k.arg 8 6 % 64 = 0 ∧
    ∃ h u, (s.die (k.arg 0 1)).jobs.length < 8 ∧ (s.mbWait m fun t => t).jobCheck (k.arg 8 6) = (some h, u)) :=
  ⟨⟨5, st30, _, ⟨rfl, rfl, rfl, by decide +kernel⟩, (some 1323), _, pair_of_fst (by decide +kernel), by decide +kernel⟩,
    ⟨5, st31, _, ⟨rfl, rfl, rfl, by decide +kernel⟩⟩,
    ⟨5, st32, _, ⟨rfl, rfl, rfl, by decide +kernel⟩, by decide +kernel⟩,
    ⟨5, st33, _, ⟨rfl, rfl, rfl, by decide +kernel⟩, by decide +kernel, by decide +kernel, 65636, 2, by decide +kernel⟩,
    ⟨5, st36, _, ⟨rfl, rfl, rfl, by decide +kernel⟩, by decide +kernel⟩,
    ⟨5, st35, _, ⟨rfl, rfl, rfl, by decide +kernel⟩, by decide +kernel⟩,
    ⟨5, st34, _, ⟨rfl, rfl, rfl, by decide +kernel⟩, head4 (by decide +kernel) (head3 (by decide +kernel) ⟨137648668800, by decide +kernel⟩)⟩,
    ⟨5, st38, _, ⟨rfl, rfl, rfl, by decide +kernel⟩, by decide +kernel⟩,
    ⟨5, st37, _, ⟨rfl, rfl, rfl, by decide +kernel⟩, by decide +kernel, by decide +kernel,
    ((toBytes 0xffff060500000000000000200c801000000000000000000000aa000100001001 64)), _, by decide +kernel,
    pair_of_fst (by decide +kernel)⟩⟩
def st55 : State := cmdAt (tkP 0x101 [(0,241)]) id
def st56 : State := cmdAt (tkP 0x103 []) fun s => s.updKs fun k => { k with commit := some { mb := 9, words := [], routes := [], fast := [] } }
/-- A fast table whose entries are empty or module i at place i. -/
def st57 : State := cmdAt { tkP 0x402 [(0,23)] with
  ask := some (64,512), data := some ((List.range 256).map fun i => toBytes (if i % 2 = 0 then i + 256 else 0xFFFF) 2).flatten } id
/-- What reading one copy of the settings store gives. -/
def copyOf (ok : Bool) (seq fmt : Nat) (words routes : Tab Word32) : StoreCopy :=
  { verifies := ok, seq := BitVec.ofNat 64 seq, fmt := BitVec.ofNat 16 fmt, words := words, routes := routes, fast := [] }

theorem witness_SettingsCommands :
    (∃ (m : Mbx), ∃ (s : State), ∃ (k : Taken), s.cmd m 0x0101 k ∧ let n := k.arg 0 4; (n = 0 ∨ 240 < n)) ∧
    (∃ (m : Mbx), ∃ (s : State), ∃ (k : Taken), s.cmd m 0x0101 k ∧ let n := k.arg 0 4; let l := (List.range n).map fun i => (k.arg (8 + 8 * i) 4, k.arg (12 + 8 * i) 4);
    ∃ x ∈ l, rwcMask x.1 = 0) ∧
    (∃ (m : Mbx), ∃ (s : State), ∃ (k : Taken), s.cmd m 0x0101 k ∧ let n := k.arg 0 4; let l := (List.range n).map fun i => (k.arg (8 + 8 * i) 4, k.arg (12 + 8 * i) 4);
    1 ≤ n ∧ n ≤ 240 ∧ ∀ x ∈ l, rwcMask x.1 ≠ 0) ∧
    (∃ (m : Mbx), ∃ (s : State), ∃ (k : Taken), s.cmd m 0x0103 k ∧ s.ks.commit = none) ∧
    (∃ (m : Mbx), ∃ (s : State), ∃ (k : Taken), s.cmd m 0x0103 k ∧ ∃ c, s.ks.commit = some c) ∧
    (∃ (m : Mbx), ∃ (s : State), ∃ (k : Taken), s.cmd m 0x0401 k ∧ let first := k.arg 0 2; let n := k.arg 2 2; (n = 0 ∨ 8192 < first + n)) ∧
    (∃ (m : Mbx), ∃ (s : State), ∃ (k : Taken), s.cmd m 0x0401 k ∧ let first := k.arg 0 2; let n := k.arg 2 2; 1 ≤ n ∧ first + n ≤ 8192) ∧
    (∃ (m : Mbx), ∃ (s : State), ∃ (k : Taken), s.cmd m 0x0402 k ∧ 23 < k.arg 0 1) ∧
    (∃ (m : Mbx), ∃ (s : State), ∃ (k : Taken), s.cmd m 0x0402 k ∧ let l := k.arg 0 1; let id := fun i : Nat => leAt (k.data.getD []) (2 * i) 2; l ≤ 23 ∧
    ∃ i, i < 256 ∧ id i ≠ 0xFFFF ∧ (8191 < id i ∨ id i % 256 ≠ i)) ∧
    (∃ (m : Mbx), ∃ (s : State), ∃ (k : Taken), s.cmd m 0x0402 k ∧ let l := k.arg 0 1; let id := fun i : Nat => leAt (k.data.getD []) (2 * i) 2; l ≤ 23 ∧
    ∀ i, i < 256 → id i = 0xFFFF ∨ (id i ≤ 8191 ∧ id i % 256 = i)) ∧
    (∃ (m : Mbx), ∃ (s : State), ∃ (k : Taken), s.cmd m 0x0102 k ∧ s.tripped = true) ∧
    (∃ (m : Mbx), ∃ (s : State), ∃ (k : Taken), s.cmd m 0x0102 k ∧ s.tripped = false ∧ s.ks.commit ≠ none) ∧
    (∃ (m : Mbx), ∃ (s : State), ∃ (k : Taken), s.cmd m 0x0102 k ∧ ∃ r off, s.tripped = false ∧ s.ks.commit = none ∧ s.failingRule = some (r, off)) ∧
    (∃ (m : Mbx), ∃ (s : State), ∃ (k : Taken), s.cmd m 0x0102 k ∧ s.tripped = false ∧ s.ks.commit = none ∧ s.failingRule = none) ∧
    (∃ (s : State), s.ks.commit = none ∨ s.tripped = true) ∧
    (∃ (s : State), ∃ c, s.ks.commit = some c ∧ s.tripped = false) ∧
    (∃ (s : State), ∃ c v, s.ks.commit = some c ∧ s.tripped = false ∧ c.words = [(cfgOff + 0x24, v)] ∧ c.routes = [] ∧
    c.fast = []) ∧
    (∃ (s : State), s.ks.bringup ≠ 3 ∨ s.ks.phase ≠ .boot) ∧
    (∃ (a b : StoreCopy), ∃ (s : State), s.ks.bringup = 3 ∧ s.ks.phase = .boot ∧ let ca := s.ks.storeA.copy a; let cb := s.ks.storeB.copy b; let v := s.updKs fun k => { k with storeA := ca, storeB := cb, bringup := 4 };
    let c := if ca.seq < cb.seq then cb else ca; let o := if ca.seq < cb.seq then ca else cb; c.valid = false ∧ o.valid = false) ∧
    (∃ (a b : StoreCopy), ∃ (s : State), s.ks.bringup = 3 ∧ s.ks.phase = .boot ∧ let ca := s.ks.storeA.copy a; let cb := s.ks.storeB.copy b; let v := s.updKs fun k => { k with storeA := ca, storeB := cb, bringup := 4 };
    let c := if ca.seq < cb.seq then cb else ca; let o := if ca.seq < cb.seq then ca else cb; c.valid = false ∧ o.valid = true) ∧
    (∃ (a b : StoreCopy), ∃ (s : State), s.ks.bringup = 3 ∧ s.ks.phase = .boot ∧ let ca := s.ks.storeA.copy a; let cb := s.ks.storeB.copy b; let v := s.updKs fun k => { k with storeA := ca, storeB := cb, bringup := 4 };
    let c := if ca.seq < cb.seq then cb else ca; let o := if ca.seq < cb.seq then ca else cb; c.valid = true ∧ c.fmt = s.ks.fw.setFmt ∧ (v.stageCopy c).failingRule ≠ none) ∧
    (∃ (a b : StoreCopy), ∃ (s : State), s.ks.bringup = 3 ∧ s.ks.phase = .boot ∧ let ca := s.ks.storeA.copy a; let cb := s.ks.storeB.copy b; let v := s.updKs fun k => { k with storeA := ca, storeB := cb, bringup := 4 };
    let c := if ca.seq < cb.seq then cb else ca; let o := if ca.seq < cb.seq then ca else cb; c.valid = true ∧ c.fmt ≠ s.ks.fw.setFmt) ∧
    (∃ (a b : StoreCopy), ∃ (s : State), s.ks.bringup = 3 ∧ s.ks.phase = .boot ∧ let ca := s.ks.storeA.copy a; let cb := s.ks.storeB.copy b; let v := s.updKs fun k => { k with storeA := ca, storeB := cb, bringup := 4 };
    let c := if ca.seq < cb.seq then cb else ca; let o := if ca.seq < cb.seq then ca else cb; c.valid = true ∧ c.fmt = s.ks.fw.setFmt ∧ (v.stageCopy c).failingRule = none) ∧
    (∃ (a b : StoreCopy), ∃ (s : State), s.ks.bringup = 3 ∧ s.ks.phase = .boot ∧ let ca := s.ks.storeA.copy a; let cb := s.ks.storeB.copy b; let v := s.updKs fun k => { k with storeA := ca, storeB := cb, bringup := 4 };
    let c := if ca.seq < cb.seq then cb else ca; let o := if ca.seq < cb.seq then ca else cb; ca.seq < cb.seq ∧ c.valid = true ∧ c.fmt = s.ks.fw.setFmt ∧ (v.stageCopy c).failingRule = none) :=
  ⟨⟨5, st55, _, ⟨rfl, rfl, rfl, by decide +kernel⟩, by decide +kernel⟩,
    ⟨5, st40, _, ⟨rfl, rfl, rfl, by decide +kernel⟩, by decide +kernel⟩,
    ⟨5, st39, _, ⟨rfl, rfl, rfl, by decide +kernel⟩, by decide +kernel⟩,
    ⟨5, st41, _, ⟨rfl, rfl, rfl, by decide +kernel⟩, by decide +kernel⟩,
    ⟨5, st56, _, ⟨rfl, rfl, rfl, by decide +kernel⟩, ⟨_, rfl⟩⟩,
    ⟨5, st43, _, ⟨rfl, rfl, rfl, by decide +kernel⟩, by decide +kernel⟩,
    ⟨5, st42, _, ⟨rfl, rfl, rfl, by decide +kernel⟩, by decide +kernel⟩,
    ⟨5, st45, _, ⟨rfl, rfl, rfl, by decide +kernel⟩, by decide +kernel⟩,
    ⟨5, st44, _, ⟨rfl, rfl, rfl, by decide +kernel⟩, by decide +kernel, 0, by decide +kernel⟩,
    ⟨5, st57, _, ⟨rfl, rfl, rfl, by decide +kernel⟩, by decide +kernel⟩,
    ⟨5, st46, _, ⟨rfl, rfl, rfl, by decide +kernel⟩, by decide +kernel⟩,
    ⟨5, st47, _, ⟨rfl, rfl, rfl, by decide +kernel⟩, by decide +kernel⟩,
    ⟨5, st48, _, ⟨rfl, rfl, rfl, by decide +kernel⟩, 7, 176160, by decide +kernel⟩,
    ⟨5, st49, _, ⟨rfl, rfl, rfl, by decide +kernel⟩, by decide +kernel⟩,
    ⟨st52, by decide +kernel⟩,
    ⟨st51, _, rfl, by decide +kernel⟩,
    ⟨st51, { mb := 5, words := [(16953380, 0x32c4b0)], routes := [], fast := [] }, (0x0032c4b0#32), by decide +kernel⟩,
    ⟨demo, by decide +kernel⟩,
    ⟨copyOf false 0 0 [] [], copyOf false 0 0 [] [], st52, by decide +kernel⟩,
    ⟨copyOf true 5 0 [(16953380, 0x32c4b0)] [(0, 0x3000000)], copyOf false 9 0 [] [], st52, by decide +kernel⟩,
    ⟨copyOf true 5 0 [] [], copyOf false 0 0 [] [], st52, by decide +kernel⟩,
    ⟨copyOf true 9 1 [] [], copyOf true 9 1 [] [], st52, by decide +kernel⟩,
    ⟨copyOf true 5 0 [(16953380, 0x32c4b0)] [(0, 0x3000000)], copyOf false 0 0 [] [], st52, by decide +kernel⟩,
    ⟨copyOf false 0 0 [] [], copyOf true 5 0 [(16953380, 0x32c4b0)] [(0, 0x3000000)], st52, by decide +kernel⟩⟩

end Sys2Proof.Tests.SpanStates

/-! ### States for the statements on firmware, serving commands and the Load Test -/

namespace Sys2Proof.Tests.UpdateStates
open Sys2Proof Sys2Proof.Machine Sys2Proof.Tests

def pcs : List Byte := List.replicate 65536 3
def man0 (flags fmt : Nat) : List Byte := bs 2103 ([(0, 0x4D555743), (4, 1), (6, flags), (8, 7), (12, 1), (14, fmt), (16, 1), (20, 77), (2097, 4)] ++ ([0, 1, 2, 3].map fun i => [(96 + 32 * i, i), (100 + 32 * i, 1), (104 + 32 * i, 9)]).flatten)
/-- a manifest whose piece 0 is the byte 5 -/
def man5 : List Byte := (man0 0 0).take 256 ++ shake256 [5] 32 ++ (man0 0 0).drop 288
def wrap0 : List Byte := List.replicate 1616 0
def fwS (k : Taken) (f : Firmware → Firmware) (g : State → State) : State := cmdAt k fun s => g (s.updFw f)
def slot (fmt : Nat) : ImageSlot := { ImageSlot.reset with manifest := man0 0 fmt, wrap := wrap0, pieces := [(0, [5])] }
def ask (k : Taken) (d : List Byte) : Taken := { k with ask := some (64, d.length), data := some d }
def act (i : Nat) (g : State → State) : State := fwS { tkP 0x603 [] with waits := true, total := 37 } (fun x => { x with activation := some (5, i), slotB := slot 0 }) g
def ssd : List (Nat × Nat) := [(0,0x2000),(8,1),(12,64),(14,1),(16,8),(18,64),(20,2),(21,2),(22,1),(28,16),(34,4),(36,4096),(40,0x4000),(48,0x5000),(56,0x6000),(64,0x7000),(72,0x8000),(80,0x9000),(88,0xA000),(96,0xB000),(104,4),(112,0),(120,2^21)]
def sv : Serve := { desc := bs 128 ssd, nextDesc := none, wgen := 4, stepNo := 11, steps := [], lanePtr := 0, blocked := false, swap := none }
def le : ListEntry := { pier := 2, kind := 0, gtc := 9, gated := false, gvalue := 3, start := 64, len := 4, taskId := 9, layer := 0, held := false, ser := none, status := none }
def sy : ServeStep := { number := 11, desc := bs 128 ssd, wgen := 4, slots := [], entries := [le] }
def mm (s : State) : State := withMem [(0x2000, bs 32 [(0,2),(1,4),(8,64),(16,4),(20,9)])] s
def serve (k : Taken) (v : Serve) (g : State → State) : State := cmdAt k fun s => g (mm (s.updCtx 1 fun c => { c with serve := some v }))
def laned (s : State) : State := s.updLane 2 fun _ => { ctx := some 1, weight := 1, par := 1, deficit := 0, queue := [7] }
def rng (s : State) : State := s.updStream 1 fun x => { x with ring := some (bs 32 [(0,4096),(8,64),(12,65535),(14,1)]), gen := 65535 }
def stp : Stream := { Stream.reset with phase := .decode, gen := 3, spepoch := 8, ctx := 1, lane := 2, req := bs 64 [], promptLen := 5, maxNew := 10, committed := 6, emitted := 1, ring := some (bs 32 [(0,4096),(8,64),(12,65535),(14,1)]), prod := 3, cons := 1 }
def ad (n : Nat) : Adapter := { id := 77, version := 1, tag := tg, state := n, refs := 0, steps := 0, addr := 128, bytes := 64 }
def chal : List Byte := bs 16 [(0,123)]
def token (mi : Nat) : List Byte := bs 64 [(0, 0x314B544C), (4, 127), (6, mi), (8, 123), (32, 4)]
def tka (mi n : Nat) : Taken := tkP 0x803 [(0,64),(2,n),(8, ofBytes (token mi))]
def ch (s : State) : State := s.updKs fun k => { k with challenge := some chal }
def st0 : State := fwS (ask (tkP 0x601 []) (man0 0 0 ++ wrap0)) (fun x => { x with activation := some (5,3) }) id
def st1 : State := fwS (ask (tkP 0x601 []) (bs 2103 [(0,5)])) id id
def st2 : State := fwS (ask (tkP 0x601 []) (man0 0 0 ++ wrap0)) id id
def st3 : State := fwS (ask (tkP 0x602 [(0,1)]) [5]) (fun x => { x with slotB := { slot 0 with pieces := [] } }) id
def st4 : State := fwS (ask (tkP 0x602 [(0,0)]) [5]) (fun x => { x with slotB := { slot 0 with pieces := [] } }) id
def st5 : State := fwS (ask (tkP 0x602 [(0,0)]) [5]) (fun x => { x with slotB := { slot 0 with pieces := [] } }) id
def st6 : State := fwS (tkP 0x603 []) (fun x => { x with activation := some (5,3) }) id
def st7 : State := fwS (tkP 0x603 []) (fun x => { x with slotB := { slot 0 with pieces := [] } }) id
def st8 : State := fwS (tkP 0x603 []) (fun x => { x with slotB := slot 0 }) id
def st9 : State := fwS (tkP 0x603 []) (fun x => { x with slotB := slot 1 }) id
def st10 : State := fwS (ask (tkP 0x604 []) (bs 2103 [(0,5)])) id fun s => s.updKs fun k => { k with phase := .recovery }
def st11 : State := fwS (ask (tkP 0x604 []) (man0 1 0 ++ pcs)) id fun s => s.updKs fun k => { k with phase := .recovery }
def st12 : State := cmdAt (tkP 0x605 [(0,77)]) id
def st70 : State := fwS (ask (tkP 0x602 [(0,0)]) [5]) (fun x => { x with activation := some (5,3) }) id
def st71 : State := fwS (ask (tkP 0x602 [(0,0)]) [5]) (fun x => { x with slotB := slot 0 }) id
def st72 : State := fwS (ask (tkP 0x602 [(0,0)]) [5]) (fun x => { x with slotB := { slot 0 with manifest := man5, pieces := [] } }) id
def st73 : State := fwS (tkP 0x603 []) (fun x => { x with slotA := { x.slotA with counter := 5 }, slotB := slot 0 }) id
def st74 : State := fwS (ask (tkP 0x604 []) (man0 1 0 ++ pcs)) (fun x => { x with activation := some (5,3) }) id
def st75 : State := cmdAt (tkP 0x605 [(0,77),(32,4096)]) fun s => { s with hp := { s.hp with up := false } }
def st76 : State := cmdAt (tkP 0x605 [(0,77),(32,4096)]) id
def st77 : State := act 18 fun s => s.updPier 2 fun x => { x with serves := none }
def st78 : State := demo.updFw fun x => { x with activation := some (5, 3) }
def st79 : State := fwS (ask (tkP 0x601 []) (man0 1 0 ++ wrap0)) id id
def st80 : State := fwS (ask (tkP 0x604 []) (man0 0 0 ++ pcs)) id id
def st81 : State := fwS (ask (tkP 0x604 []) (man0 1 0 ++ pcs)) id id
def st82 : State := fwS (ask (tkP 0x601 []) (man0 0 0 ++ wrap0)) (fun x => { x with slotB := slot 0 }) id
def st14 : State := act 15 id
def st15 : State := act 18 id
def st17 : State := act 36 id
def st18 : State := demo.updFw fun x => { x with recoveryAt := some 5 }
def st20 : State := State.reset.updKs fun k => { k with bringup := 1, fw := { k.fw with activeB := true } }
def st21 : State := cmdAt (tk 0x701 ssd) mm
def st22 : State := cmdAt (tk 0x701 ssd) id
def st23 : State := serve (tk 0x701 ssd) { sv with blocked := true } id
def st24 : State := cmdAt (tk 0x702 [(0,63),(1,1),(2,16)]) id
def st25 : State := serve (tk 0x702 [(0,63),(1,1),(2,16)]) sv id
def st26 : State := serve (tk 0x702 [(0,63),(1,1),(2,16)]) sv fun s => s.updStream 3 fun x => { x with phase := .decode, lane := 63, ctx := 2 }
def st27 : State := serve (tk 0x703 [(0,1),(2,2),(4,5),(16,10)]) sv id
def st28 : State := serve (tk 0x703 [(0,1),(2,2),(4,5),(16,10)]) sv fun s => rng (laned s)
def st29 : State := serve (tk 0x704 [(0,4)]) sv id
def st30 : State := serve (tk 0x704 [(0,3)]) sv id
def st31 : State := serve (tk 0x704 [(0,3),(8,4096),(16,64),(20,65535),(22,1)]) sv id
def st32 : State := serve (tk 0x705 [(0,3),(2,9)]) sv id
def st33 : State := serve (tk 0x705 [(0,3),(2,0)]) sv id
def st34 : State := serve (tk 0x705 [(0,3),(2,3)]) sv fun s => s.updStream 3 fun _ => stp
def st35 : State := serve (tk 0x705 [(0,3),(2,3)]) sv fun s => s.updStream 3 fun _ => { stp with rides := true }
def st36 : State := cmdAt (tk 0x706 [(0,77),(4,1),(8,2^30),(16,64)]) id
def st38 : State := cmdAt (tk 0x706 [(0,78),(4,1),(8,128),(16,64)]) fun s => s.updKs fun k => { k with adapters := (List.range 1024).map fun i => (i, ad 2) }
def st39 : State := cmdAt (tk 0x706 [(0,78),(4,1),(8,128),(16,64)]) fun s => s.updKs fun k => { k with adapters := [(0, ad 1)] }
def st40 : State := cmdAt (tk 0x707 [(0,77)]) id
def st41 : State := cmdAt (tk 0x707 [(0,77)]) fun s => s.updKs fun k => { k with adapters := [(9, ad 1)] }
def st42 : State := cmdAt (tk 0x707 [(0,77)]) fun s => s.updKs fun k => { k with adapters := [(9, { ad 1 with refs := 2 })] }
def st43 : State := cmdAt (tk 0x708 []) id
def st44 : State := serve (tk 0x708 []) { sv with swap := some (9,1) } id
def st45 : State := serve (tk 0x708 []) { sv with steps := [sy] } id
def st46 : State := serve (tk 0x708 []) { sv with steps := [{ sy with wgen := 3 }] } id
def st47 : State := cmdAt (tkP 0x803 [(2,56)]) id
def st48 : State := cmdAt (tkP 0x803 []) id
def st49 : State := cmdAt (tkP 0x803 [(0,0xFFFF),(2,1),(8,8),(12,5)]) id
def st50 : State := cmdAt (tkP 0x803 [(0,0xFFFF),(2,1),(8,8),(12,5)]) fun s => s.setReg ltOff 0x50001
def st51 : State := cmdAt (tkP 0x803 [(0,0xFFFF),(2,1),(8,0x18),(12,5)]) fun s => s.setReg ltOff 0x500FF
def st52 : State := cmdAt (tka 5 0) id
def st53 : State := cmdAt (tka 5 0) ch
def st54 : State := cmdAt (tka 0 0) ch
def st55 : State := cmdAt (tka 2000 0) ch
def st56 : State := cmdAt (tkP 0x804 [(0,4)]) id
def st57 : State := cmdAt (tkP 0x804 [(0,8),(2,5)]) id
def st58 : State := cmdAt (tkP 0x804 [(0,4),(2,5),(4,1)]) id
def st59 : State := cmdAt (tkP 0x804 [(0,4),(2,1000),(4,1)]) fun s => s.updPier 2 fun x => { x with serves := none }
def st60 : State := (demo.setReg ltOff 0x500FF).setReg (ltOff + 0x1C) 0x00050009
def st61 : State := demo

theorem length_toBytes (v n : Nat) : (toBytes v n).length = n := by
  induction n generalizing v with
  | zero => rfl
  | succ n ih => simp [toBytes, ih]

theorem length_man0 (f g : Nat) : (man0 f g).length = 2103 := length_toBytes _ _

theorem manLen_man0 (f g : Nat) (l : List Byte) (h : manLen (man0 f g ++ l) = 2103) : manLen (man0 f g ++ l) ≤ (man0 f g ++ l).length := by
  rw [h, List.length_append, length_man0]; exact Nat.le_add_right _ _

/-- A manifest of man0 that its signature covers passes every check. -/
theorem manStatus_man0 (x : Firmware) (f : Nat) (l : List Byte) (h : signatureOk (man0 f 0 ++ l) = true)
    (hl : manPieces (man0 f 0 ++ l) = 1 ∧ manLen (man0 f 0 ++ l) = 2103) (hf : fieldsOk (man0 f 0 ++ l) = true)
    (he : ¬leAt (man0 f 0 ++ l) 12 2 < x.floor) : x.manStatus (man0 f 0 ++ l) = 0 := by
  unfold Firmware.manStatus
  rw [if_neg, h, hf, if_neg (by decide), if_neg (by decide), if_neg he]
  rw [hl.1]
  exact fun e => e.elim (by decide) fun e => e.elim (by decide) (Nat.not_lt.2 (manLen_man0 _ _ _ hl.2))

theorem get_range {α : Type} (d x : α) (n a : Nat) (h : a < n) : Tab.get d ((List.range n).map fun i => (i, x)) a = x := by
  have key : ∀ (l : List Nat), a ∈ l → Tab.get d (l.map fun i => (i, x)) a = x := by
    intro l
    induction l with
    | nil => simp
    | cons b r ih =>
      intro hm
      simp only [List.map_cons, Tab.get]
      split_ifs with hb
      · rfl
      · exact ih (by simpa [hb] using hm)
  exact key _ (by simpa using h)


theorem witness_FirmwareUpdates :
    (∃ (m : Mbx), ∃ (s : State), ∃ (k : Taken), let x := s.ks.fw; s.cmd m 0x0601 k ∧ x.activation ≠ none) ∧
    (∃ (m : Mbx), ∃ (s : State), ∃ (k : Taken), let x := s.ks.fw; let d := k.data.getD []; s.cmd m 0x0601 k ∧
    x.activation = none ∧ x.manStatus d ≠ 0) ∧
    (∃ (m : Mbx), ∃ (s : State), ∃ (k : Taken), let x := s.ks.fw; s.cmd m 0x0602 k ∧
    let i := k.arg 0 4; let y := x.target; x.activation = none ∧ (y.manifest = [] ∨ manPieces y.manifest ≤ i)) ∧
    (∃ (m : Mbx), ∃ (s : State), ∃ (k : Taken), let x := s.ks.fw; s.cmd m 0x0602 k ∧ x.activation ≠ none) ∧
    (∃ (m : Mbx), ∃ (s : State), ∃ (k : Taken), let x := s.ks.fw; s.cmd m 0x0602 k ∧ let i := k.arg 0 4; let y := x.target;
    x.activation = none ∧ y.manifest ≠ [] ∧ i < manPieces y.manifest ∧ y.pieces.find i ≠ none) ∧
    (∃ (m : Mbx), ∃ (s : State), ∃ (k : Taken), let x := s.ks.fw; let d := k.data.getD []; s.cmd m 0x0602 k ∧
    let i := k.arg 0 4; let y := x.target; x.activation = none ∧ y.manifest ≠ [] ∧ i < manPieces y.manifest ∧
    y.pieces.find i = none ∧ pieceDigest d ≠ (manEntry y.manifest i).take 32) ∧
    (∃ (m : Mbx), ∃ (s : State), ∃ (k : Taken), let x := s.ks.fw; let d := k.data.getD []; s.cmd m 0x0602 k ∧
    let i := k.arg 0 4; let y := x.target; x.activation = none ∧ y.manifest ≠ [] ∧ i < manPieces y.manifest ∧
    y.pieces.find i = none ∧ pieceDigest d = (manEntry y.manifest i).take 32) ∧
    (∃ (m : Mbx), ∃ (s : State), ∃ (k : Taken), let x := s.ks.fw; s.cmd m 0x0603 k ∧ x.activation ≠ none) ∧
    (∃ (m : Mbx), ∃ (s : State), ∃ (k : Taken), let x := s.ks.fw; s.cmd m 0x0603 k ∧ let y := x.target;
    x.activation = none ∧ y.manifest ≠ [] ∧ (∀ i, i < manPieces y.manifest → y.pieces.find i ≠ none) ∧
    leAt y.manifest 12 2 < x.floor) ∧
    (∃ (m : Mbx), ∃ (s : State), ∃ (k : Taken), let x := s.ks.fw; s.cmd m 0x0604 k ∧ x.activation ≠ none) ∧
    (∃ (m : Mbx), ∃ (s : State), ∃ (k : Taken), let x := s.ks.fw; s.cmd m 0x0603 k ∧
    let y := x.target; x.activation = none ∧ (y.manifest = [] ∨ ∃ i, i < manPieces y.manifest ∧ y.pieces.find i = none)) ∧
    (∃ (m : Mbx), ∃ (s : State), ∃ (k : Taken), let x := s.ks.fw; let d := k.data.getD []; s.cmd m 0x0604 k ∧
    x.activation = none ∧ x.manStatus d ≠ 0) ∧
    (∃ (m : Mbx), ∃ (s : State), ∃ (k : Taken), s.cmd m 0x0605 k ∧ k.arg 32 8 = 0) ∧
    (∃ (m : Mbx), ∃ (s : State), ∃ (k : Taken), s.cmd m 0x0605 k ∧ k.arg 32 8 ≠ 0 ∧ s.hostOk = false) ∧
    (∃ (m : Mbx), ∃ (s : State), ∃ (k : Taken), s.cmd m 0x0605 k ∧ k.arg 32 8 ≠ 0 ∧ s.hostOk = true) ∧
    (∃ (s : State), let x := s.ks.fw; x.activation = none) ∧
    (∃ (s : State), let x := s.ks.fw; ∃ (m : Mbx), ∃ i, x.activation = some (m.val, i) ∧ s.tripped = false ∧
    s.ks.resetting = false ∧ i < 36 ∧ ∃ (p : Pier), i = 16 + p.val ∧ (s.pier p).serves = none ∧ (s.pier p).power = 0) ∧
    (∃ (s : State), ∃ (p : Pier), s.ks.fw.activation = none ∨ (s.pier p).serves = none ∨ (s.pier p).power ≠ 0) ∧
    (∃ (s : State), s.ks.bringup ≠ 1 ∨ s.ks.phase ≠ .boot) ∧
    (∃ (s : State), s.ks.bringup = 1 ∧ s.ks.phase = .boot) ∧
    (∃ (s : State), let x := s.ks.fw; ∃ (m : Mbx), ∃ i, x.activation = some (m.val, i) ∧ s.tripped = false ∧
    s.ks.resetting = false ∧ i < 16) ∧
    (∃ (s : State), let x := s.ks.fw; ∃ (m : Mbx), ∃ i, x.activation = some (m.val, i) ∧ s.tripped = false ∧
    s.ks.resetting = false ∧ ∃ (p : Pier), i = 16 + p.val ∧ (s.pier p).power = 0 ∧ (s.pier p).serves ≠ none) ∧
    (∃ (s : State), let x := s.ks.fw; ∃ (m : Mbx), ∃ i, x.activation = some (m.val, i) ∧ s.tripped = false ∧
    s.ks.resetting = false ∧ i = 36) ∧
    (∃ (s : State), let x := s.ks.fw; ∃ (p : Pier), ∃ m i c, x.activation = some (m, i) ∧ (s.pier p).serves = some c ∧
    (s.pier p).power = 0 ∧ i = 16 + p.val) ∧
    (∃ (s : State), let x := s.ks.fw; ∃ (p : Pier), ∃ m i c, x.activation = some (m, i) ∧ (s.pier p).serves = some c ∧
    (s.pier p).power = 0 ∧ i ≠ 16 + p.val) ∧
    (∃ (s : State), let x := s.ks.fw; x.recoveryAt = none) ∧
    (∃ (s : State), let x := s.ks.fw; x.recoveryAt ≠ none ∧ s.phys.input = true ∧ s.tripped = false) ∧
    (∃ (s : State), let x := s.ks.fw; ∃ (a b : SlotCheck), s.ks.bringup = 1 ∧ s.ks.phase = .boot ∧
    let st (o : Bool) : Nat := x.slotStatus o (if o then b else a); st false ≠ 0 ∧ st true ≠ 0) ∧
    (∃ (s : State), let x := s.ks.fw; ∃ (a b : SlotCheck), s.ks.bringup = 1 ∧ s.ks.phase = .boot ∧
    let st (o : Bool) : Nat := x.slotStatus o (if o then b else a); st x.activeB = 0) ∧
    (∃ (s : State), let x := s.ks.fw; ∃ (a b : SlotCheck), s.ks.bringup = 1 ∧ s.ks.phase = .boot ∧
    let st (o : Bool) : Nat := x.slotStatus o (if o then b else a); st x.activeB ≠ 0 ∧ st (!x.activeB) = 0) :=
  ⟨⟨5, st0, _, ⟨rfl, rfl, rfl, by decide +kernel⟩, by decide +kernel⟩,
    ⟨5, st1, _, ⟨rfl, rfl, rfl, by decide +kernel⟩, by decide +kernel⟩,
    ⟨5, st3, _, ⟨rfl, rfl, rfl, by decide +kernel⟩, by decide +kernel⟩,
    ⟨5, st70, _, ⟨rfl, rfl, rfl, by decide +kernel⟩, by decide +kernel⟩,
    ⟨5, st71, _, ⟨rfl, rfl, rfl, by decide +kernel⟩, by decide +kernel⟩,
    ⟨5, st5, _, ⟨rfl, rfl, rfl, by decide +kernel⟩, by decide +kernel⟩,
    ⟨5, st72, _, ⟨rfl, rfl, rfl, by decide +kernel⟩, by decide +kernel⟩,
    ⟨5, st6, _, ⟨rfl, rfl, rfl, by decide +kernel⟩, by decide +kernel⟩,
    ⟨5, st73, _, ⟨rfl, rfl, rfl, by decide +kernel⟩, by decide +kernel⟩,
    ⟨5, st74, _, ⟨rfl, rfl, rfl, by decide +kernel⟩, by decide +kernel⟩,
    ⟨5, st7, _, ⟨rfl, rfl, rfl, by decide +kernel⟩, by decide +kernel⟩,
    ⟨5, st10, _, ⟨rfl, rfl, rfl, by decide +kernel⟩, by decide +kernel⟩,
    ⟨5, st12, _, ⟨rfl, rfl, rfl, by decide +kernel⟩, by decide +kernel⟩,
    ⟨5, st75, _, ⟨rfl, rfl, rfl, by decide +kernel⟩, by decide +kernel⟩,
    ⟨5, st76, _, ⟨rfl, rfl, rfl, by decide +kernel⟩, by decide +kernel⟩,
    ⟨st61, by decide +kernel⟩,
    ⟨st77, 5, 18, by decide +kernel⟩,
    ⟨st78, 3, by decide +kernel⟩,
    ⟨st61, by decide +kernel⟩,
    ⟨st20, by decide +kernel⟩,
    ⟨st14, 5, 15, by decide +kernel⟩,
    ⟨st15, 5, 18, head3 (by decide +kernel) ⟨2, by decide +kernel⟩⟩,
    ⟨st17, 5, 36, by decide +kernel⟩,
    ⟨st15, 2, 5, 18, 1, by decide +kernel⟩,
    ⟨st17, 2, 5, 36, 1, by decide +kernel⟩,
    ⟨st61, by decide +kernel⟩,
    ⟨st18, by decide +kernel⟩,
    ⟨st20, { manifest := true, key := false, pieces := true }, { manifest := true, key := false, pieces := true },
    by decide +kernel⟩,
    ⟨st20, { manifest := true, key := false, pieces := true }, { manifest := true, key := true, pieces := true },
    by decide +kernel⟩,
    ⟨st20, { manifest := true, key := true, pieces := true }, { manifest := true, key := false, pieces := true },
    by decide +kernel⟩⟩

/-- As far as the uninterpreted cryptography decides: the answers it would have to give are the hypotheses. -/
theorem witness_FirmwareUpdates_manifest_taken (h : signatureOk (man0 0 0 ++ wrap0) = true)
    (hk : ({ ImageSlot.reset with manifest := (man0 0 0 ++ wrap0).take 2103,
                                  wrap := sliceBytes (man0 0 0 ++ wrap0) 2103 1616 } : ImageSlot).imageKey ≠ none) :
    ∃ (m : Mbx), ∃ (s : State), ∃ (k : Taken), let x := s.ks.fw; let d := k.data.getD []; s.cmd m 0x0601 k ∧
    let man := d.take (manLen d); let new : ImageSlot := { ImageSlot.reset with manifest := man, wrap := sliceBytes d (manLen d) 1616, counter := x.target.counter }; x.activation = none ∧
    x.manStatus d = 0 ∧ manPlain man = false ∧ manLen d + 1616 ≤ d.length ∧ new.imageKey ≠ none ∧
    x.target.manifest.take (manSigned man) ≠ man.take (manSigned man) :=
  by
  have hm : manLen (man0 0 0 ++ wrap0) = 2103 := by decide +kernel
  have hl : (man0 0 0 ++ wrap0).length = 3719 := by
    rw [List.length_append, length_man0, wrap0, List.length_replicate]
  refine ⟨5, st2, _, ⟨rfl, rfl, rfl, by decide +kernel⟩, by decide +kernel, ?_, by decide +kernel, ?_, ?_, by decide +kernel⟩
  · exact manStatus_man0 _ _ _ h (by decide +kernel) (by decide +kernel) (by decide +kernel)
  · show manLen (man0 0 0 ++ wrap0) + 1616 ≤ (man0 0 0 ++ wrap0).length
    rw [hl, hm]
  · show ImageSlot.imageKey { ImageSlot.reset with
      manifest := (man0 0 0 ++ wrap0).take (manLen (man0 0 0 ++ wrap0)),
      wrap := sliceBytes (man0 0 0 ++ wrap0) (manLen (man0 0 0 ++ wrap0)) 1616, counter := 0 } ≠ none
    rw [hm]; exact hk

/-- As far as the uninterpreted cryptography decides: the answers it would have to give are the hypotheses. -/
theorem witness_FirmwareUpdates_live_activation (key : List Byte) (h : (slot 0).imageKey = some key) (hp : (slot 0).pieceOk key 0 = true) :
    ∃ (m : Mbx), ∃ (s : State), ∃ (k : Taken), let x := s.ks.fw; s.cmd m 0x0603 k ∧ let y := x.target; ∃ key,
    x.activation = none ∧ y.manifest ≠ [] ∧ (∀ i, i < manPieces y.manifest → y.pieces.find i ≠ none) ∧
    x.floor ≤ leAt y.manifest 12 2 ∧ y.imageKey = some key ∧ (∀ i, i < manPieces y.manifest → y.pieceOk key i = true) ∧
    x.live y.manifest = true :=
  by
  have hm : manPieces st8.ks.fw.target.manifest = 1 := by decide +kernel
  refine ⟨5, st8, _, ⟨rfl, rfl, rfl, by decide +kernel⟩, key, head4 (by decide +kernel) ⟨h, ?_, by decide +kernel⟩⟩
  intro i hi
  obtain rfl : i = 0 := by omega
  exact hp

/-- As far as the uninterpreted cryptography decides: the answers it would have to give are the hypotheses. -/
theorem witness_FirmwareUpdates_cold_activation (key : List Byte) (h : (slot 1).imageKey = some key) (hp : (slot 1).pieceOk key 0 = true) :
    ∃ (m : Mbx), ∃ (s : State), ∃ (k : Taken), let x := s.ks.fw; s.cmd m 0x0603 k ∧ let y := x.target; ∃ key,
    x.activation = none ∧ y.manifest ≠ [] ∧ (∀ i, i < manPieces y.manifest → y.pieces.find i ≠ none) ∧
    x.floor ≤ leAt y.manifest 12 2 ∧ y.imageKey = some key ∧ (∀ i, i < manPieces y.manifest → y.pieceOk key i = true) ∧
    x.live y.manifest = false ∧ s.phys.input = true ∧ s.tripped = false :=
  by
  have hm : manPieces st9.ks.fw.target.manifest = 1 := by decide +kernel
  refine ⟨5, st9, _, ⟨rfl, rfl, rfl, by decide +kernel⟩, key, head4 (by decide +kernel) ⟨h, ?_, by decide +kernel⟩⟩
  intro i hi
  obtain rfl : i = 0 := by omega
  exact hp

/-- As far as the uninterpreted cryptography decides: the answers it would have to give are the hypotheses. -/
theorem witness_FirmwareUpdates_recovery_image (h : signatureOk (man0 1 0 ++ pcs) = true)
    (hp : pieceDigest ((imagePieces (man0 1 0 ++ pcs)).getD 0 []) = List.replicate 32 0) :
    ∃ (m : Mbx), ∃ (s : State), ∃ (k : Taken), let x := s.ks.fw; let d := k.data.getD []; s.cmd m 0x0604 k ∧
    x.activation = none ∧ x.manStatus d = 0 ∧ manPlain d = true ∧ manLen d + 65536 * manPieces d ≤ d.length ∧
    s.ks.phase = .recovery ∧ (∀ i, i < manPieces d → pieceDigest ((imagePieces d).getD i []) = (manEntry d i).take 32) :=
  by
  have hm : manLen (man0 1 0 ++ pcs) = 2103 := by decide +kernel
  have hn : manPieces (man0 1 0 ++ pcs) = 1 := by decide +kernel
  have hl : (man0 1 0 ++ pcs).length = 67639 := by
    rw [List.length_append, length_man0, pcs, List.length_replicate]
  refine ⟨5, st11, _, ⟨rfl, rfl, rfl, by decide +kernel⟩, by decide +kernel, ?_, by decide +kernel, ?_, by decide +kernel, ?_⟩
  · exact manStatus_man0 _ _ _ h (by decide +kernel) (by decide +kernel) (by decide +kernel)
  · show manLen (man0 1 0 ++ pcs) + 65536 * manPieces (man0 1 0 ++ pcs) ≤ (man0 1 0 ++ pcs).length
    rw [hl, hm, hn]
  · intro i hi
    obtain rfl : i = 0 := by
      have : i < 1 := hn ▸ hi
      omega
    exact hp.trans (by decide +kernel)

/-- As far as the uninterpreted cryptography decides: the answers it would have to give are the hypotheses. -/
theorem witness_FirmwareUpdates_recovery_running (h : signatureOk (man0 1 0 ++ pcs) = true)
    (hp : pieceDigest ((imagePieces (man0 1 0 ++ pcs)).getD 0 []) = List.replicate 32 0) :
    ∃ (m : Mbx), ∃ (s : State), ∃ (k : Taken), let x := s.ks.fw; let d := k.data.getD []; s.cmd m 0x0604 k ∧
    x.activation = none ∧ x.manStatus d = 0 ∧ manPlain d = true ∧ manLen d + 65536 * manPieces d ≤ d.length ∧
    s.ks.phase ≠ .recovery ∧ s.phys.input = true ∧ s.tripped = false ∧ (∀ i, i < manPieces d → pieceDigest ((imagePieces d).getD i []) = (manEntry d i).take 32) :=
  by
  have hm : manLen (man0 1 0 ++ pcs) = 2103 := by decide +kernel
  have hn : manPieces (man0 1 0 ++ pcs) = 1 := by decide +kernel
  have hl : (man0 1 0 ++ pcs).length = 67639 := by
    rw [List.length_append, length_man0, pcs, List.length_replicate]
  refine ⟨5, st81, _, ⟨rfl, rfl, rfl, by decide +kernel⟩, by decide +kernel, ?_, by decide +kernel, ?_, head3 (by decide +kernel) ?_⟩
  · exact manStatus_man0 _ _ _ h (by decide +kernel) (by decide +kernel) (by decide +kernel)
  · show manLen (man0 1 0 ++ pcs) + 65536 * manPieces (man0 1 0 ++ pcs) ≤ (man0 1 0 ++ pcs).length
    rw [hl, hm, hn]
  · intro i hi
    obtain rfl : i = 0 := by
      have : i < 1 := hn ▸ hi
      omega
    exact hp.trans (by decide +kernel)

/-- As far as the uninterpreted cryptography decides: the answers it would have to give are the hypotheses. -/
theorem witness_FirmwareUpdates_recovery_bad_piece (h : signatureOk (man0 1 0 ++ pcs) = true)
    (hp : pieceDigest ((imagePieces (man0 1 0 ++ pcs)).getD 0 []) ≠ (manEntry (man0 1 0 ++ pcs) 0).take 32) :
    ∃ (m : Mbx), ∃ (s : State), ∃ (k : Taken), let x := s.ks.fw; let d := k.data.getD []; s.cmd m 0x0604 k ∧
    x.activation = none ∧ x.manStatus d = 0 ∧ manPlain d = true ∧
    ∃ i, i < manPieces d ∧ pieceDigest ((imagePieces d).getD i []) ≠ (manEntry d i).take 32 :=
  ⟨5, st11, _, ⟨rfl, rfl, rfl, by decide +kernel⟩, by decide +kernel,
    manStatus_man0 _ _ _ h (by decide +kernel) (by decide +kernel) (by decide +kernel), by decide +kernel, 0,
    by decide +kernel, hp⟩

/-- As far as the uninterpreted cryptography decides: the answers it would have to give are the hypotheses. -/
theorem witness_FirmwareUpdates_same_manifest (h : signatureOk (man0 0 0 ++ wrap0) = true) :
    ∃ (m : Mbx), ∃ (s : State), ∃ (k : Taken), let x := s.ks.fw; let d := k.data.getD []; s.cmd m 0x0601 k ∧
    let man := d.take (manLen d); x.activation = none ∧ x.manStatus d = 0 ∧ manPlain man = false ∧
    x.target.manifest.take (manSigned man) = man.take (manSigned man) :=
  ⟨5, st82, _, ⟨rfl, rfl, rfl, by decide +kernel⟩, by decide +kernel,
    manStatus_man0 _ _ _ h (by decide +kernel) (by decide +kernel) (by decide +kernel), by decide +kernel, by decide +kernel⟩

/-- As far as the uninterpreted cryptography decides: the answers it would have to give are the hypotheses. -/
theorem witness_FirmwareUpdates_manifest_plain (h : signatureOk (man0 1 0 ++ wrap0) = true) :
    ∃ (m : Mbx), ∃ (s : State), ∃ (k : Taken), let x := s.ks.fw; let d := k.data.getD []; s.cmd m 0x0601 k ∧
    x.activation = none ∧ x.manStatus d = 0 ∧ manPlain (d.take (manLen d)) = true :=
  ⟨5, st79, _, ⟨rfl, rfl, rfl, by decide +kernel⟩, by decide +kernel,
    manStatus_man0 _ _ _ h (by decide +kernel) (by decide +kernel) (by decide +kernel), by decide +kernel⟩

/-- As far as the uninterpreted cryptography decides: the answers it would have to give are the hypotheses. -/
theorem witness_FirmwareUpdates_recovery_not_plain (h : signatureOk (man0 0 0 ++ pcs) = true) :
    ∃ (m : Mbx), ∃ (s : State), ∃ (k : Taken), let x := s.ks.fw; let d := k.data.getD []; s.cmd m 0x0604 k ∧
    x.activation = none ∧ x.manStatus d = 0 ∧ manPlain d = false :=
  ⟨5, st80, _, ⟨rfl, rfl, rfl, by decide +kernel⟩, by decide +kernel,
    manStatus_man0 _ _ _ h (by decide +kernel) (by decide +kernel) (by decide +kernel), by decide +kernel⟩

/-- As far as the uninterpreted cryptography decides: the answers it would have to give are the hypotheses. -/
theorem witness_FirmwareUpdates_keyless (h : (slot 0).imageKey = none) :
    ∃ (m : Mbx), ∃ (s : State), ∃ (k : Taken), let x := s.ks.fw; s.cmd m 0x0603 k ∧ let y := x.target; x.activation = none ∧
    y.manifest ≠ [] ∧ (∀ i, i < manPieces y.manifest → y.pieces.find i ≠ none) ∧ x.floor ≤ leAt y.manifest 12 2 ∧
    y.imageKey = none :=
  ⟨5, st8, _, ⟨rfl, rfl, rfl, by decide +kernel⟩, head4 (by decide +kernel) h⟩

/-- As far as the uninterpreted cryptography decides: the answers it would have to give are the hypotheses. -/
theorem witness_FirmwareUpdates_bad_piece (key : List Byte) (h : (slot 0).imageKey = some key)
    (hp : (slot 0).pieceOk key 0 = false) :
    ∃ (m : Mbx), ∃ (s : State), ∃ (k : Taken), let x := s.ks.fw; s.cmd m 0x0603 k ∧ let y := x.target; ∃ key i,
    x.activation = none ∧ y.manifest ≠ [] ∧ (∀ i, i < manPieces y.manifest → y.pieces.find i ≠ none) ∧
    x.floor ≤ leAt y.manifest 12 2 ∧ y.imageKey = some key ∧ i < manPieces y.manifest ∧ y.pieceOk key i = false ∧
    (∀ j, j < i → y.pieceOk key j = true) :=
  ⟨5, st8, _, ⟨rfl, rfl, rfl, by decide +kernel⟩, key, 0, head4 (by decide +kernel) ⟨h, by decide +kernel, hp, fun _ hj => absurd hj (Nat.not_lt_zero _)⟩⟩

theorem witness_ServingCommands :
    (∃ (m : Mbx), ∃ (s : State), ∃ (k : Taken), let c := k.ctx; s.cmd m 0x0701 k ∧ let d := sliceBytes k.args 0 128; ∃ u,
    s.serveCheck c d = (false, u)) ∧
    (∃ (m : Mbx), ∃ (s : State), ∃ (k : Taken), let c := k.ctx; s.cmd m 0x0701 k ∧ let d := sliceBytes k.args 0 128; ∃ u,
    s.serveCheck c d = (true, u) ∧ (s.ctx c).serve = none) ∧
    (∃ (m : Mbx), ∃ (s : State), ∃ (k : Taken), let c := k.ctx; s.cmd m 0x0701 k ∧
    let d := sliceBytes k.args 0 128; ∃ u v, s.serveCheck c d = (true, u) ∧ (s.ctx c).serve = some v) ∧
    (∃ (m : Mbx), ∃ (s : State), ∃ (k : Taken), let c := k.ctx; s.cmd m 0x0702 k ∧
    let l := k.arg 0 1; let w := k.arg 1 1; let par := k.arg 2 1; l ≤ 63 ∧ 1 ≤ w ∧ 1 ≤ par ∧ par ≤ 16 ∧
    (s.ctx c).serve = none) ∧
    (∃ (m : Mbx), ∃ (s : State), ∃ (k : Taken), let c := k.ctx; s.cmd m 0x0702 k ∧
    let l := k.arg 0 1; let w := k.arg 1 1; let par := k.arg 2 1; l ≤ 63 ∧ 1 ≤ w ∧ 1 ≤ par ∧ par ≤ 16 ∧
    (s.ctx c).serve ≠ none ∧ s.laneBusy c l false = true) ∧
    (∃ (m : Mbx), ∃ (s : State), ∃ (k : Taken), let c := k.ctx; s.cmd m 0x0702 k ∧
    let l := k.arg 0 1; let w := k.arg 1 1; let par := k.arg 2 1; l ≤ 63 ∧ 1 ≤ w ∧ 1 ≤ par ∧ par ≤ 16 ∧
    (s.ctx c).serve ≠ none ∧ s.laneBusy c l false = false ∧ (s.lane l).ctx = none) ∧
    (∃ (m : Mbx), ∃ (s : State), ∃ (k : Taken), let c := k.ctx; s.cmd m 0x0703 k ∧
    let q := sliceBytes k.args 0 64; s.admitCheck c q ≠ 0) ∧
    (∃ (m : Mbx), ∃ (s : State), ∃ (k : Taken), let c := k.ctx; s.cmd m 0x0703 k ∧
    let q := sliceBytes k.args 0 64; s.admitCheck c q = 0 ∧ rqAdapter q = false) ∧
    (∃ (m : Mbx), ∃ (s : State), ∃ (k : Taken), let c := k.ctx; s.cmd m 0x0704 k ∧
    let i := k.arg 0 2; s.freeIn c i = false) ∧
    (∃ (m : Mbx), ∃ (s : State), ∃ (k : Taken), let c := k.ctx; s.cmd m 0x0704 k ∧
    let i := k.arg 0 2; let d := sliceBytes k.args 8 32; s.freeIn c i = true ∧ ringOk d = false) ∧
    (∃ (m : Mbx), ∃ (s : State), ∃ (k : Taken), let c := k.ctx; s.cmd m 0x0704 k ∧
    let i := k.arg 0 2; let d := sliceBytes k.args 8 32; s.freeIn c i = true ∧ ringOk d = true) ∧
    (∃ (m : Mbx), ∃ (s : State), ∃ (k : Taken), let c := k.ctx; ∃ v, s.cmd m 0x0705 k ∧ (s.ctx c).serve = some v ∧
    let i := k.arg 0 2; let x := s.stream i; sdSbase v.desc ≤ i ∧ i < sdSbase v.desc + sdScount v.desc ∧
    x.gen ≠ k.arg 2 2) ∧
    (∃ (m : Mbx), ∃ (s : State), ∃ (k : Taken), let c := k.ctx; ∃ v, s.cmd m 0x0705 k ∧ (s.ctx c).serve = some v ∧
    let i := k.arg 0 2; let x := s.stream i; sdSbase v.desc ≤ i ∧ i < sdSbase v.desc + sdScount v.desc ∧
    x.gen = k.arg 2 2 ∧ (x.phase = .free ∨ x.phase = .ending)) ∧
    (∃ (m : Mbx), ∃ (s : State), ∃ (k : Taken), let c := k.ctx; ∃ v, s.cmd m 0x0705 k ∧ (s.ctx c).serve = some v ∧
    let i := k.arg 0 2; let x := s.stream i; sdSbase v.desc ≤ i ∧ i < sdSbase v.desc + sdScount v.desc ∧
    x.gen = k.arg 2 2 ∧ x.phase ≠ .free ∧ x.phase ≠ .ending ∧ s.ks.recs = [] ∧ x.rides = true) ∧
    (∃ (m : Mbx), ∃ (s : State), ∃ (k : Taken), let c := k.ctx; ∃ v, s.cmd m 0x0705 k ∧ (s.ctx c).serve = some v ∧
    let i := k.arg 0 2; let x := s.stream i; sdSbase v.desc ≤ i ∧ i < sdSbase v.desc + sdScount v.desc ∧
    x.gen = k.arg 2 2 ∧ x.phase ≠ .free ∧ x.phase ≠ .ending ∧ s.ks.recs = [] ∧ x.rides = false) ∧
    (∃ (m : Mbx), ∃ (s : State), ∃ (k : Taken), let c := k.ctx; let tag := s.ctxTag c; s.cmd m 0x0706 k ∧
    s.currentAdapter tag (k.arg 0 4) = none ∧ s.pagesOk tag (k.arg 8 8) (k.arg 16 8) 2 [0, 1] = false) ∧
    (∃ (m : Mbx), ∃ (s : State), ∃ (k : Taken), let c := k.ctx; let tag := s.ctxTag c; s.cmd m 0x0706 k ∧
    s.currentAdapter tag (k.arg 0 4) = none ∧ s.pagesOk tag (k.arg 8 8) (k.arg 16 8) 2 [0, 1] = true ∧
    (∀ a, a < 1024 → (s.adapter a).state ≠ 0)) ∧
    (∃ (m : Mbx), ∃ (s : State), ∃ (k : Taken), let c := k.ctx; let tag := s.ctxTag c; s.cmd m 0x0706 k ∧
    s.currentAdapter tag (k.arg 0 4) = none ∧ s.pagesOk tag (k.arg 8 8) (k.arg 16 8) 2 [0, 1] = true ∧ ∃ a, a < 1024 ∧
    (s.adapter a).state = 0 ∧ (∀ b, b < a → (s.adapter b).state ≠ 0)) ∧
    (∃ (m : Mbx), ∃ (s : State), ∃ (k : Taken), let c := k.ctx; let tag := s.ctxTag c; s.cmd m 0x0707 k ∧
    s.currentAdapter tag (k.arg 0 4) = none) ∧
    (∃ (m : Mbx), ∃ (s : State), ∃ (k : Taken), let c := k.ctx; let tag := s.ctxTag c; s.cmd m 0x0707 k ∧ ∃ a,
    s.currentAdapter tag (k.arg 0 4) = some a ∧ (s.adapter a).refs = 0 ∧ (s.adapter a).steps = 0) ∧
    (∃ (m : Mbx), ∃ (s : State), ∃ (k : Taken), let c := k.ctx; let tag := s.ctxTag c; s.cmd m 0x0707 k ∧ ∃ a,
    s.currentAdapter tag (k.arg 0 4) = some a ∧ (s.adapter a).refs ≠ 0) ∧
    (∃ (m : Mbx), ∃ (s : State), ∃ (k : Taken), let c := k.ctx; s.cmd m 0x0708 k ∧ (s.ctx c).serve = none) ∧
    (∃ (m : Mbx), ∃ (s : State), ∃ (k : Taken), let c := k.ctx; s.cmd m 0x0708 k ∧ ∃ v, (s.ctx c).serve = some v ∧
    v.swap ≠ none) ∧
    (∃ (m : Mbx), ∃ (s : State), ∃ (k : Taken), let c := k.ctx; s.cmd m 0x0708 k ∧ ∃ v, (s.ctx c).serve = some v ∧
    v.swap = none ∧ (∃ y ∈ v.steps, y.wgen = v.wgen)) ∧
    (∃ (m : Mbx), ∃ (s : State), ∃ (k : Taken), let c := k.ctx; s.cmd m 0x0708 k ∧ ∃ v, (s.ctx c).serve = some v ∧
    v.swap = none ∧ (∀ y ∈ v.steps, y.wgen ≠ v.wgen)) :=
  ⟨⟨5, st22, _, ⟨rfl, rfl, rfl, by decide +kernel⟩, _, pair_of_fst (by decide +kernel)⟩,
    ⟨5, st21, _, ⟨rfl, rfl, rfl, by decide +kernel⟩, _, pair_of_fst (by decide +kernel), by decide +kernel⟩,
    ⟨5, st23, _, ⟨rfl, rfl, rfl, by decide +kernel⟩, _, _, pair_of_fst (by decide +kernel), rfl⟩,
    ⟨5, st24, _, ⟨rfl, rfl, rfl, by decide +kernel⟩, by decide +kernel⟩,
    ⟨5, st26, _, ⟨rfl, rfl, rfl, by decide +kernel⟩, by decide +kernel⟩,
    ⟨5, st25, _, ⟨rfl, rfl, rfl, by decide +kernel⟩, by decide +kernel⟩,
    ⟨5, st27, _, ⟨rfl, rfl, rfl, by decide +kernel⟩, by decide +kernel⟩,
    ⟨5, st28, _, ⟨rfl, rfl, rfl, by decide +kernel⟩, by decide +kernel⟩,
    ⟨5, st29, _, ⟨rfl, rfl, rfl, by decide +kernel⟩, by decide +kernel⟩,
    ⟨5, st30, _, ⟨rfl, rfl, rfl, by decide +kernel⟩, by decide +kernel⟩,
    ⟨5, st31, _, ⟨rfl, rfl, rfl, by decide +kernel⟩, by decide +kernel⟩,
    ⟨5, st32, _, _, ⟨rfl, rfl, rfl, by decide +kernel⟩, rfl, by decide +kernel⟩,
    ⟨5, st33, _, _, ⟨rfl, rfl, rfl, by decide +kernel⟩, rfl, by decide +kernel⟩,
    ⟨5, st35, _, _, ⟨rfl, rfl, rfl, by decide +kernel⟩, rfl, by decide +kernel⟩,
    ⟨5, st34, _, _, ⟨rfl, rfl, rfl, by decide +kernel⟩, rfl, by decide +kernel⟩,
    ⟨5, st36, _, ⟨rfl, rfl, rfl, by decide +kernel⟩, by decide +kernel⟩,
    ⟨5, st38, _, ⟨rfl, rfl, rfl, by decide +kernel⟩, by decide +kernel, by decide +kernel,
    fun a ha => by
    have h : st38.adapter a = ad 2 := get_range _ _ _ _ ha
    rw [h]; decide⟩,
    ⟨5, st39, _, ⟨rfl, rfl, rfl, by decide +kernel⟩, by decide +kernel, by decide +kernel, 1, by decide +kernel⟩,
    ⟨5, st40, _, ⟨rfl, rfl, rfl, by decide +kernel⟩, by decide +kernel⟩,
    ⟨5, st41, _, ⟨rfl, rfl, rfl, by decide +kernel⟩, 9, by decide +kernel⟩,
    ⟨5, st42, _, ⟨rfl, rfl, rfl, by decide +kernel⟩, 9, by decide +kernel⟩,
    ⟨5, st43, _, ⟨rfl, rfl, rfl, by decide +kernel⟩, by decide +kernel⟩,
    ⟨5, st44, _, ⟨rfl, rfl, rfl, by decide +kernel⟩, _, rfl, by decide +kernel⟩,
    ⟨5, st45, _, ⟨rfl, rfl, rfl, by decide +kernel⟩, _, rfl, by decide +kernel⟩,
    ⟨5, st46, _, ⟨rfl, rfl, rfl, by decide +kernel⟩, _, rfl, by decide +kernel⟩⟩

theorem witness_LoadTests :
    (∃ (m : Mbx), ∃ (s : State), ∃ (k : Taken), s.cmd m 0x0803 k ∧ let n := k.arg 2 2; 55 < n) ∧
    (∃ (m : Mbx), ∃ (s : State), ∃ (k : Taken), s.cmd m 0x0803 k ∧ let tlen := k.arg 0 2; let n := k.arg 2 2; tlen = 0 ∧
    n = 0) ∧
    (∃ (m : Mbx), ∃ (s : State), ∃ (k : Taken), s.cmd m 0x0803 k ∧
    let tlen := k.arg 0 2; let n := k.arg 2 2; tlen = 0xFFFF ∧ n ≤ 55 ∧ s.ltOn = false) ∧
    (∃ (m : Mbx), ∃ (s : State), ∃ (k : Taken), s.cmd m 0x0803 k ∧ let tlen := k.arg 0 2; let n := k.arg 2 2; ∃ b,
    tlen = 0xFFFF ∧ n = 1 ∧ s.ltOn = true ∧ ltBit (k.arg 8 4) = some b ∧ bit s.ltMask b = false) ∧
    (∃ (m : Mbx), ∃ (s : State), ∃ (k : Taken), s.cmd m 0x0803 k ∧ let tlen := k.arg 0 2; let n := k.arg 2 2; ∃ b,
    tlen = 0xFFFF ∧ n = 1 ∧ s.ltOn = true ∧ ltBit (k.arg 8 4) = some b ∧ bit s.ltMask b = true) ∧
    (∃ (m : Mbx), ∃ (s : State), ∃ (k : Taken), s.cmd m 0x0803 k ∧ let tlen := k.arg 0 2; let n := k.arg 2 2; 1 ≤ tlen ∧
    tlen ≤ 1536 ∧ n = 0 ∧ s.ks.challenge = none) ∧
    (∃ (m : Mbx), ∃ (s : State), ∃ (k : Taken), s.cmd m 0x0803 k ∧
    let tlen := k.arg 0 2; let n := k.arg 2 2; let tok := sliceBytes k.args 8 tlen; 1 ≤ tlen ∧ tlen ≤ 1536 ∧ n = 0 ∧ ∃ c,
    s.ks.challenge = some c ∧ tokenOk tok c = false) ∧
    (∃ (m : Mbx), ∃ (s : State), ∃ (k : Taken), s.cmd m 0x0804 k ∧
    let rounds := k.arg 2 2; (rounds = 0 ∨ 1000 < rounds ∨ 1 < k.arg 4 1)) ∧
    (∃ (m : Mbx), ∃ (s : State), ∃ (k : Taken), s.cmd m 0x0804 k ∧
    let l := setBits (k.arg 0 2) 16; let rounds := k.arg 2 2; 1 ≤ rounds ∧ rounds ≤ 1000 ∧ k.arg 4 1 ≤ 1 ∧
    (∃ p ∈ l, s.placeable p = false)) ∧
    (∃ (m : Mbx), ∃ (s : State), ∃ (k : Taken), s.cmd m 0x0804 k ∧
    let l := setBits (k.arg 0 2) 16; let rounds := k.arg 2 2; 1 ≤ rounds ∧ rounds ≤ 1000 ∧ k.arg 4 1 ≤ 1 ∧
    (∀ p ∈ l, s.placeable p = true) ∧ (∃ p ∈ l, (s.pier p).serves ≠ none)) ∧
    (∃ (m : Mbx), ∃ (s : State), ∃ (k : Taken), s.cmd m 0x0804 k ∧
    let l := setBits (k.arg 0 2) 16; let rounds := k.arg 2 2; 1 ≤ rounds ∧ rounds ≤ 1000 ∧ k.arg 4 1 ≤ 1 ∧
    (∀ p ∈ l, s.placeable p = true) ∧ (∀ p ∈ l, (s.pier p).serves = none)) ∧
    (∃ (s : State), s.ltOn = false) ∧
    (∃ (s : State), s.ltOn = true) ∧
    (∃ (s : State), (s.ltOn = false ∨ s.rfld (ltOff + 0x1C) 0 16 = 0)) ∧
    (∃ (p : Pier), ∃ (s : State), s.ltOn = true ∧ bit s.ltMask 4 = true ∧ s.rfld (ltOff + 0x1C) 0 16 ≠ 0 ∧
    bit (s.reg (ltOff + 0x1C)).toNat (16 + p) = true) :=
  ⟨⟨5, st47, _, ⟨rfl, rfl, rfl, by decide +kernel⟩, by decide +kernel⟩,
    ⟨5, st48, _, ⟨rfl, rfl, rfl, by decide +kernel⟩, by decide +kernel⟩,
    ⟨5, st49, _, ⟨rfl, rfl, rfl, by decide +kernel⟩, by decide +kernel⟩,
    ⟨5, st50, _, ⟨rfl, rfl, rfl, by decide +kernel⟩, 0, by decide +kernel⟩,
    ⟨5, st51, _, ⟨rfl, rfl, rfl, by decide +kernel⟩, 3, by decide +kernel⟩,
    ⟨5, st52, _, ⟨rfl, rfl, rfl, by decide +kernel⟩, by decide +kernel⟩,
    ⟨5, st55, _, ⟨rfl, rfl, rfl, by decide +kernel⟩, head3 (by decide +kernel) ⟨_, rfl,
    by decide +kernel⟩⟩,
    ⟨5, st56, _, ⟨rfl, rfl, rfl, by decide +kernel⟩, by decide +kernel⟩,
    ⟨5, st57, _, ⟨rfl, rfl, rfl, by decide +kernel⟩, by decide +kernel⟩,
    ⟨5, st58, _, ⟨rfl, rfl, rfl, by decide +kernel⟩, by decide +kernel⟩,
    ⟨5, st59, _, ⟨rfl, rfl, rfl, by decide +kernel⟩, by decide +kernel⟩,
    ⟨st61, by decide +kernel⟩,
    ⟨st60, by decide +kernel⟩,
    ⟨st61, by decide +kernel⟩,
    ⟨2, st60, by decide +kernel⟩⟩

/-- As far as the uninterpreted cryptography decides: the answers it would have to give are the hypotheses. -/
theorem witness_LoadTests_token_ends (h : tokenOk (token 0) chal = true) :
    ∃ (m : Mbx), ∃ (s : State), ∃ (k : Taken), s.cmd m 0x0803 k ∧
    let tlen := k.arg 0 2; let n := k.arg 2 2; let tok := sliceBytes k.args 8 tlen; let minutes := leAt tok 6 2; 1 ≤ tlen ∧
    tlen ≤ 1536 ∧ n = 0 ∧ ∃ c, s.ks.challenge = some c ∧ tokenOk tok c = true ∧ minutes = 0 :=
  ⟨5, st54, _, ⟨rfl, rfl, rfl, by decide +kernel⟩, head3 (by decide +kernel) ⟨_, rfl, (congrArg (fun x => tokenOk x chal) (by decide +kernel)).trans h, by decide +kernel⟩⟩

/-- As far as the uninterpreted cryptography decides: the answers it would have to give are the hypotheses. -/
theorem witness_LoadTests_token_enables (h : tokenOk (token 5) chal = true) :
    ∃ (m : Mbx), ∃ (s : State), ∃ (k : Taken), s.cmd m 0x0803 k ∧
    let tlen := k.arg 0 2; let n := k.arg 2 2; let tok := sliceBytes k.args 8 tlen; let minutes := leAt tok 6 2; 1 ≤ tlen ∧
    tlen ≤ 1536 ∧ n = 0 ∧ ∃ c, s.ks.challenge = some c ∧ tokenOk tok c = true ∧ minutes ≠ 0 :=
  ⟨5, st53, _, ⟨rfl, rfl, rfl, by decide +kernel⟩, head3 (by decide +kernel) ⟨_, rfl, (congrArg (fun x => tokenOk x chal) (by decide +kernel)).trans h, by decide +kernel⟩⟩

end Sys2Proof.Tests.UpdateStates

/-! ### States for the statements on the Truss, the score, bring-up and power -/

namespace Sys2Proof.Tests.TrussStates
open Sys2Proof Sys2Proof.Machine Sys2Proof.Tests

def lk (s : State) : State := s.updLink 5 fun l => { l with phase := .up, peerValid := true, peerModule := 9 }
def nb : Neighbour := { last := 0, agent := 0, agentSince := 0, epoch := 0, notice := 0, digest := [], digestBad := none, state := 0, score := 5, suspected := none, suspectSince := 0, stamp := 0 }
def tr (s : State) (f : Truss → Truss) : State := s.updKs fun k => { k with truss := f k.truss }
def ms (c : Nat) (d : List Byte) (s : State) : State := s.updDie 2 fun x => { x with msgs := [{ Packet.empty with type := 5, src := 9, dst := 0, spec := toBytes c 16, len := d.length, payload := d }] }
def ch (l : List (Nat × Nat)) : List Byte := bs 64 l
def c8 (kd : Nat) : Change := { kind := kd, origin := 9, subject := 9, stamp := 4000, epoch := 0, score := 3, body := bs 38 [(0,300),(2,2)] }
def mem (s : State) : State := tr s fun t => { t with state := 0 }
def tl (s : State) : State := s.updTs fun t => { t with phase := .locked }
def dd (d : Nat) : State := { demo with piers := (List.range 16).map fun p => (p, { demoPier with power := 0 }), phys := { demo.phys with droop := (List.range 16).map fun p => (p, d) } }
def pd (g : Nat) (x : PierState) (y : StackState) : State := (({ demo with mem := Memory.writeList [] (2 * 2^36 + 5) [1,2,3], piers := [(2, x)], stks := [(2, y)] }).setReg (cfgOff + 0x48) (BitVec.ofNat 32 (g + 0x7C))).updKs fun k => { k with powerDue := [2] }
def st3 : State := tr (lk demo) fun t => { t with state := 1, near := [(9, { nb with suspected := some 7 })] }
def st4 : State := tr (lk demo) fun t => { t with near := [(9, nb)] }
def st7 : State := ms 0x801 (ch [(0,8),(2,9),(4,3),(8,777),(26,300),(28,2)]) (tr demo fun t => { t with wins := [700] })
def st8 : State := ms 0x801 (ch [(0,8),(2,9),(4,3),(8,777),(26,300),(28,2)]) (tr demo fun t => { t with seen := [parseChange (ch [(0,8),(2,9),(4,3),(8,777)])] })
def st9 : State := ms 0x802 [] demo
def st10 : State := ms 0x803 (bs 40 [(0,0)]) demo
def st11 : State := ms 0x803 (bs 40 [(8,4)]) demo
def st13 : State := demo.updKs fun k => { k with resetting := true }
def st14 : State := tr demo fun t => { t with boot := some (256, { TrussRecord.reset with epoch := 1, inst := 77, members := [0, 9] }) }
def st15 : State := tr demo fun t => { t with pending := [c8 8], state := 0, record := { t.record with epoch := 5, members := [0,9] } }
def st16 : State := tr demo fun t => { t with pending := [c8 1], state := 0, record := { t.record with epoch := 5, members := [0,9], twin := true } }
def st17 : State := cmdAt (tkP 0x801 [(0,5)]) id
def st18 : State := cmdAt (tkP 0x801 [(0,0),(8,4096)]) id
def st19 : State := cmdAt (tkP 0x801 [(0,1),(8,4096)]) mem
def st53 : State := cmdAt (tkP 0x801 [(0,0),(8,4096)]) fun s => { s with hp := { s.hp with up := false } }
def st54 : State := cmdAt { tkP 0x801 [(0,1),(16,20000000),(24,0xFFFF),(26,255)] with ask := some (64,1024), data := some (bs 1024 [(0,3)]) }
  fun s => tr (tl s) fun t => { t with boot := some (1, TrussRecord.reset) }
def st20 : State := cmdAt (tkP 0x801 [(0,1),(16,20000000)]) id
def st21 : State := cmdAt { tkP 0x801 [(0,1),(16,20000000),(24,0xFFFF),(26,255)] with ask := some (64,1024), data := some (bs 1024 [(0,3)]) } tl
def st22 : State := cmdAt (tkP 0x801 [(0,2)]) id
def st23 : State := cmdAt (tkP 0x801 [(0,3)]) id
def st24 : State := cmdAt (tkP 0x801 [(0,3)]) mem
def st25 : State := cmdAt (tkP 0x801 [(0,4),(24,300),(26,9)]) mem
def st26 : State := demo.updKs fun k => { k with insp := { k.insp with acc := [(0, 256*600)] } }
def st27 : State := demo.updKs fun k => { k with insp := { k.insp with acc := [(0, 256*600)] }, truss := { k.truss with state := 0 } }
def st30 : State := { (demo.updKs fun k => { k with truss := { k.truss with state := 1 }, insp := { k.insp with acc := [(3, 501)] } }) with piers := [(2, { demoPier with serves := none })] }
def st31 : State := cmdAt (tkP 0x802 []) fun s => s.updKs fun k => { k with insp := { k.insp with acc := [(5, 501)], score := 77 } }
def st34 : State := { (demo.setReg (mgtOff + 4) 1) with phys := { demo.phys with temps := [(3, 400)] } }
def st35 : State := (demo.setReg (mgtOff + 4) 1).updKs fun k => { k with warmWaits := some .managementPort }
def st36 : State := State.reset
def st37 : State := { State.reset with phys := { Physical.reset with input := true }, ks := { Keystone.reset with bringup := 2 } }
def st38 : State := { demo.setReg (cfgOff + 0x40 + 4) 2 with stks := [(3, { StackState.reset with up := true })], piers := [] }
def st40 : State := { demo with phys := { demo.phys with undervolt := some 395 } }
def st42 : State := dd 0
def st43 : State := dd 1
def st44 : State := dd 2
def st47 : State := pd 2 demoPier { StackState.reset with up := true }
def st48 : State := pd 1 demoPier { StackState.reset with up := true }
def st49 : State := pd 0 { demoPier with power := 1, ready := false } { StackState.reset with up := true, retain := true }
def st51 : State := { demo.setReg mgtOff 0x100 with phys := { demo.phys with pldm := [4, 5], mgAlert := true } }
def st52 : State := { demo with ks := { demo.ks with phase := .held } }
def img : ImageSlot := { ImageSlot.reset with manifest := [1] }
def st55 : State := st52.updFw fun x => { x with slotA := img, slotB := img }

theorem witness_TrussProtocol :
    (∃ (l : Lnk), ∃ (f : List Byte), ∃ (s : State), ((s.link l).phase ≠ .up ∨ sideOk f = false ∨ leAt f 0 1 ≠ 1)) ∧
    (∃ (l : Lnk), ∃ (f : List Byte), ∃ (s : State), (s.link l).phase = .up ∧ sideOk f = true ∧ leAt f 0 1 = 1) ∧
    (∃ (n : BitVec 13), ∃ (s : State), s.ks.truss.near.find n.toNat = none) ∧
    (∃ (n : BitVec 13), ∃ (s : State), ∃ y, s.ks.truss.near.find n.toNat = some y ∧ y.suspected = none ∧
    s.ks.resetting = false) ∧
    (∃ (n : BitVec 13), ∃ (s : State), ∃ y, s.ks.truss.near.find n.toNat = some y ∧ y.suspected ≠ none ∧
    s.ks.resetting = false ∧ s.ks.truss.member = true ∧ s.ks.truss.state ≠ 4) ∧
    (∃ (k : Die), ∃ (s : State), s.msgFirst k 0x0801 = none) ∧
    (∃ (k : Die), ∃ (s : State), s.msgFirst k 0x0802 = none) ∧
    (∃ (k : Die), ∃ (s : State), s.msgFirst k 0x0803 = none) ∧
    (∃ (k : Die), ∃ (s : State), ∃ p, s.msgFirst k 0x0801 = some p ∧
    let c := parseChange p.payload; (s.ks.truss.seen.any c.same) = true) ∧
    (∃ (k : Die), ∃ (s : State), ∃ p, s.msgFirst k 0x0801 = some p ∧
    let c := parseChange p.payload; (s.ks.truss.seen.any c.same) = false ∧ s.ks.resetting = false) ∧
    (∃ (k : Die), ∃ (s : State), ∃ p, s.msgFirst k 0x0802 = some p ∧ s.ks.resetting = false) ∧
    (∃ (k : Die), ∃ (s : State), ∃ p, s.msgFirst k 0x0803 = some p ∧
    let r := parseRecord p.payload; let own := s.ks.truss.record; (r.epoch < own.epoch ∨ (r.epoch = own.epoch ∧ r.notice ≤ own.notice))) ∧
    (∃ (k : Die), ∃ (s : State), ∃ p, s.msgFirst k 0x0803 = some p ∧
    let r := parseRecord p.payload; let own := s.ks.truss.record; s.ks.resetting = false ∧ r.epoch = own.epoch ∧
    own.notice < r.notice) ∧
    (∃ (s : State), s.ks.resetting = true) ∧
    (∃ (s : State), let x := s.ks.truss; x.boot = none ∧ x.pending = []) ∧
    (∃ (s : State), let x := s.ks.truss; let r := x.record; ∃ b, s.ks.resetting = false ∧ x.boot = some (256, b) ∧
    b.epoch = 1 ∧ r.epoch = 0) ∧
    (∃ (s : State), let x := s.ks.truss; let r := x.record; ∃ c, s.ks.resetting = false ∧ x.boot = none ∧ x.wins = [] ∧
    x.pending = [c] ∧ x.waiting = [] ∧ r.epoch ≠ 0 ∧ c.kind = 8 ∧ r.notice < 65535) ∧
    (∃ (s : State), let x := s.ks.truss; let r := x.record; ∃ c, s.ks.resetting = false ∧ x.boot = none ∧ x.wins = [] ∧
    x.pending = [c] ∧ x.waiting = [] ∧ r.epoch ≠ 0 ∧ c.kind = 1) ∧
    (∃ (m : Mbx), ∃ (s : State), ∃ (k : Taken), s.cmd m 0x0801 k ∧
    let act := k.arg 0 1; let thresh := (memberParams k).1; (4 < act ∨ 1023 < thresh ∨ 1 < k.arg 27 1)) ∧
    (∃ (m : Mbx), ∃ (s : State), ∃ (k : Taken), s.cmd m 0x0801 k ∧
    let act := k.arg 0 1; let thresh := (memberParams k).1; thresh ≤ 1023 ∧ k.arg 27 1 ≤ 1 ∧ act = 0 ∧ s.role = 0 ∧
    s.hp.up = true) ∧
    (∃ (m : Mbx), ∃ (s : State), ∃ (k : Taken), s.cmd m 0x0801 k ∧
    let act := k.arg 0 1; let thresh := (memberParams k).1; thresh ≤ 1023 ∧ k.arg 27 1 ≤ 1 ∧ act = 0 ∧ s.hostOk = false) ∧
    (∃ (m : Mbx), ∃ (s : State), ∃ (k : Taken), s.cmd m 0x0801 k ∧
    let act := k.arg 0 1; let x := s.ks.truss; let thresh := (memberParams k).1; thresh ≤ 1023 ∧ k.arg 27 1 ≤ 1 ∧ act = 1 ∧
    x.member = false ∧ s.ts.phase = .locked ∧ s.ts.count.toNat + 10000000 ≤ k.arg 16 8 ∧ x.boot ≠ none) ∧
    (∃ (m : Mbx), ∃ (s : State), ∃ (k : Taken), s.cmd m 0x0801 k ∧
    let act := k.arg 0 1; let x := s.ks.truss; let thresh := (memberParams k).1; thresh ≤ 1023 ∧ k.arg 27 1 ≤ 1 ∧
    (act = 1 ∨ act = 2) ∧ x.member = true) ∧
    (∃ (m : Mbx), ∃ (s : State), ∃ (k : Taken), s.cmd m 0x0801 k ∧
    let act := k.arg 0 1; let x := s.ks.truss; let thresh := (memberParams k).1; thresh ≤ 1023 ∧ k.arg 27 1 ≤ 1 ∧
    act = 1 ∧ x.member = false ∧ (s.ts.phase ≠ .locked ∨ k.arg 16 8 < s.ts.count.toNat + 10000000)) ∧
    (∃ (m : Mbx), ∃ (s : State), ∃ (k : Taken), s.cmd m 0x0801 k ∧
    let act := k.arg 0 1; let x := s.ks.truss; let thresh := (memberParams k).1; thresh ≤ 1023 ∧ k.arg 27 1 ≤ 1 ∧
    act = 1 ∧ x.member = false ∧ s.ts.phase = .locked ∧ s.ts.count.toNat + 10000000 ≤ k.arg 16 8 ∧ x.boot = none) ∧
    (∃ (m : Mbx), ∃ (s : State), ∃ (k : Taken), s.cmd m 0x0801 k ∧
    let act := k.arg 0 1; let x := s.ks.truss; let thresh := (memberParams k).1; thresh ≤ 1023 ∧ k.arg 27 1 ≤ 1 ∧
    act = 2 ∧ x.member = false) ∧
    (∃ (m : Mbx), ∃ (s : State), ∃ (k : Taken), s.cmd m 0x0801 k ∧
    let act := k.arg 0 1; let x := s.ks.truss; let thresh := (memberParams k).1; thresh ≤ 1023 ∧ k.arg 27 1 ≤ 1 ∧
    (act = 3 ∨ act = 4) ∧ x.member = false) ∧
    (∃ (m : Mbx), ∃ (s : State), ∃ (k : Taken), s.cmd m 0x0801 k ∧
    let act := k.arg 0 1; let x := s.ks.truss; let thresh := (memberParams k).1; thresh ≤ 1023 ∧ k.arg 27 1 ≤ 1 ∧
    act = 3 ∧ x.member = true) ∧
    (∃ (m : Mbx), ∃ (s : State), ∃ (k : Taken), s.cmd m 0x0801 k ∧
    let act := k.arg 0 1; let x := s.ks.truss; let thresh := (memberParams k).1; thresh ≤ 1023 ∧ k.arg 27 1 ≤ 1 ∧
    act = 4 ∧ x.member = true) :=
  ⟨⟨23, ((toBytes 0x1 31)), st52, by decide +kernel⟩,
    ⟨5, ((toBytes 0xfdac9e51000000000000000000000000000000000000000000000000000901 31)), st4, by decide +kernel⟩,
    ⟨(0x0003#13), st52, by decide +kernel⟩,
    ⟨(0x0009#13), st4, _, rfl, by decide +kernel⟩,
    ⟨(0x0009#13), st3, _, rfl, by decide +kernel⟩,
    ⟨3, st52, by decide +kernel⟩,
    ⟨3, st52, by decide +kernel⟩,
    ⟨3, st52, by decide +kernel⟩,
    ⟨2, st8, _, rfl, by decide +kernel⟩,
    ⟨2, st7, _, rfl, by decide +kernel⟩,
    ⟨2, st9, _, rfl, by decide +kernel⟩,
    ⟨2, st10, _, rfl, by decide +kernel⟩,
    ⟨2, st11, _, rfl, by decide +kernel⟩,
    ⟨st13, by decide +kernel⟩,
    ⟨st52, by decide +kernel⟩,
    ⟨st14,
    { epoch := 1, notice := 0, thresh := 512, budget := 4, twin := false, inst := 77, members := [0, 9], probation := [], removals := [], earlier := 0, neighbours := [] },
    by decide +kernel⟩,
    ⟨st15, _, head3 (by decide +kernel) ⟨rfl, by decide +kernel⟩⟩,
    ⟨st16, _, head3 (by decide +kernel) ⟨rfl, by decide +kernel⟩⟩,
    ⟨5, st17, _, ⟨rfl, rfl, rfl, by decide +kernel⟩, by decide +kernel⟩,
    ⟨5, st18, _, ⟨rfl, rfl, rfl, by decide +kernel⟩, by decide +kernel⟩,
    ⟨5, st53, _, ⟨rfl, rfl, rfl, by decide +kernel⟩, by decide +kernel⟩,
    ⟨5, st54, _, ⟨rfl, rfl, rfl, by decide +kernel⟩, by decide +kernel⟩,
    ⟨5, st19, _, ⟨rfl, rfl, rfl, by decide +kernel⟩, by decide +kernel⟩,
    ⟨5, st20, _, ⟨rfl, rfl, rfl, by decide +kernel⟩, by decide +kernel⟩,
    ⟨5, st21, _, ⟨rfl, rfl, rfl, by decide +kernel⟩, by decide +kernel⟩,
    ⟨5, st22, _, ⟨rfl, rfl, rfl, by decide +kernel⟩, by decide +kernel⟩,
    ⟨5, st23, _, ⟨rfl, rfl, rfl, by decide +kernel⟩, by decide +kernel⟩,
    ⟨5, st24, _, ⟨rfl, rfl, rfl, by decide +kernel⟩, by decide +kernel⟩,
    ⟨5, st25, _, ⟨rfl, rfl, rfl, by decide +kernel⟩, by decide +kernel⟩⟩

theorem witness_Scores :
    (∃ (s : State), s.takes = false) ∧
    (∃ (s : State), let x := s.ks.insp; let v := scoreNow x.acc; s.takes = true ∧ s.ks.truss.record.thresh ≤ v) ∧
    (∃ (s : State), let x := s.ks.insp; let v := scoreNow x.acc; s.takes = true ∧ v < s.ks.truss.record.thresh ∧
    s.ks.truss.member = true ∧ s.ks.truss.lastLow = none) ∧
    (∃ (s : State), let x := s.ks.insp; let v := scoreNow x.acc; s.takes = true ∧ v < s.ks.truss.record.thresh ∧
    s.ks.truss.member = false) ∧
    (∃ (s : State), s.takes = true ∧ s.ks.truss.state = 1) ∧
    (∃ (s : State), s.ks.truss.state ≠ 1) ∧
    (∃ (s : State), let x := s.ks.insp; ∃ n, 1000 ≤ n ∧ s.takes = true ∧ s.ks.truss.state = 1 ∧ x.acc.get 0 3 < 2 ^ 32 ∧
    (∃ p, p < 16 ∧ s.placeable p = true ∧ (s.pier p).serves = none)) ∧
    (∃ (m : Mbx), ∃ (s : State), ∃ (k : Taken), s.cmd m 0x0802 k) :=
  ⟨⟨st37, by decide +kernel⟩,
    ⟨st52, by decide +kernel⟩,
    ⟨st27, by decide +kernel⟩,
    ⟨st26, by decide +kernel⟩,
    ⟨st30, by decide +kernel⟩,
    ⟨st52, by decide +kernel⟩,
    ⟨st30, 1023, by decide +kernel⟩,
    ⟨5, st31, _, ⟨rfl, rfl, rfl, by decide +kernel⟩⟩⟩

theorem witness_BringUp :
    (∃ (s : State), s.phys.input = true) ∧
    (∃ (s : State), s.phys.input = false) ∧
    (∃ (s : State), s.phys.input = true ∧ s.tripped = true ∧ s.hotSensor = true) ∧
    (∃ (s : State), s.phys.input = true ∧ (s.tripped = false ∨ s.hotSensor = false)) ∧
    (∃ (s : State), s.ks.warmWaits = none) ∧
    (∃ (cause : WarmCause), ∃ (s : State), s.ks.warmWaits = some cause) ∧
    (∃ (s : State), (s.ks.bringup ≠ 2 ∨ s.ks.phase ≠ .boot)) ∧
    (∃ (s : State), s.ks.bringup = 2 ∧ s.ks.phase = .boot ∧
    (s.ks.fw.slot s.ks.fw.bootedB).componentGood 2 = true ∧ s.phys.input = true ∧ s.tripped = false) ∧
    (∃ (n : Stk), ∃ (s : State), (s.ks.bringup < 4 ∨ s.tripped = true ∨ s.pierGoal n = 2 ∨ (s.stack n).up = true ∨
    (s.stack n).retain = true ∨ (s.stack n).dead = true)) ∧
    (∃ (n : Stk), ∃ (s : State), 4 ≤ s.ks.bringup ∧ s.tripped = false ∧ s.pierGoal n = 0 ∧ (s.stack n).up = false ∧
    (s.stack n).retain = false ∧ (s.stack n).dead = false ∧ (s.ks.fw.slot s.ks.fw.bootedB).componentGood 0 = true ∧
    (s.ks.fw.slot s.ks.fw.bootedB).componentGood 1 = true) ∧
    (∃ (p : Pier), ∃ (s : State),
    (s.ks.bringup < 4 ∨ s.tripped = true ∨ s.pierGoal p ≠ 0 ∨ (s.pier p).power ≠ 2 ∨ s.stackUp p = false ∨
    p.val ∈ s.ks.powerDue)) ∧
    (∃ (p : Pier), ∃ (s : State), 4 ≤ s.ks.bringup ∧ s.tripped = false ∧ s.pierGoal p = 0 ∧ (s.pier p).power = 2 ∧
    s.stackUp p = true ∧ p.val ∉ s.ks.powerDue) :=
  ⟨⟨st52, by decide +kernel⟩,
    ⟨st36, by decide +kernel⟩,
    ⟨st34, by decide +kernel⟩,
    ⟨st52, by decide +kernel⟩,
    ⟨st52, by decide +kernel⟩,
    ⟨WarmCause.managementPort, st35, by decide +kernel⟩,
    ⟨st52, by decide +kernel⟩,
    ⟨st37, by decide +kernel⟩,
    ⟨15, st37, by decide +kernel⟩,
    ⟨15, st52, by decide +kernel⟩,
    ⟨15, st52, by decide +kernel⟩,
    ⟨3, st38, by decide +kernel⟩⟩

/-- As far as the uninterpreted cryptography decides: the answer it would have to give is the hypothesis. -/
theorem witness_BringUp_bad_image (h : img.imageKey = none) :
    ∃ (n : Stk), ∃ (s : State), 4 ≤ s.ks.bringup ∧ s.tripped = false ∧ s.pierGoal n ≠ 2 ∧ (s.stack n).up = false ∧
    (s.stack n).retain = false ∧ (s.stack n).dead = false ∧ s.phys.input = true ∧
    (s.ks.fw.slot s.ks.fw.bootedB).componentGood 0 = false :=
  ⟨15, st55, head4 (by decide +kernel) (head3 (by decide +kernel) (by
      show ImageSlot.componentGood img 0 = false
      unfold ImageSlot.componentGood; rw [h]; decide))⟩

theorem witness_PowerAndTemperature :
    (∃ (v : BitVec 16), ∃ (s : State), (s.phys.input = false ∨ v.toNat < 380 ∨ 400 ≤ v.toNat)) ∧
    (∃ (v : BitVec 16), ∃ (s : State), s.phys.input = true ∧ 380 ≤ v.toNat ∧ v.toNat < 400 ∧ s.phys.undervolt = none) ∧
    (∃ (v : BitVec 16), ∃ (s : State), s.phys.input = true ∧ 380 ≤ v.toNat ∧ v.toNat < 400 ∧ ∃ low,
    s.phys.undervolt = some low) ∧
    (∃ (v : BitVec 16), ∃ (s : State), (v.toNat < 400 ∨ s.phys.undervolt = none)) ∧
    (∃ (v : BitVec 16), ∃ (s : State), 400 ≤ v.toNat ∧ s.phys.undervolt ≠ none) ∧
    (∃ (s : State), (s.phys.input = false ∨ s.tripped = true)) ∧
    (∃ (s : State), s.phys.input = true ∧ s.tripped = false) ∧
    (∃ (s : State), ∃ x, (tripLimit x = none ∨ s.phys.input = false)) ∧
    (∃ (s : State), ∃ x, ∃ (r : BitVec 16), ∃ cause limit, tripLimit x = some (cause, limit) ∧ s.phys.input = true ∧
    r.toInt < limit) ∧
    (∃ (s : State), ∃ x, ∃ (r : BitVec 16), ∃ cause limit, tripLimit x = some (cause, limit) ∧ s.phys.input = true ∧
    limit ≤ r.toInt ∧ s.tripped = false) ∧
    (∃ (s : State), s.phys.input = false) ∧
    (∃ (v : BitVec 16), ∃ (s : State), s.phys.input = true ∧ 320 < v.toInt) ∧
    (∃ (v : BitVec 16), ∃ (s : State), s.phys.input = true ∧ v.toInt ≤ 320) ∧
    (∃ (v : BitVec 16), ∃ (s : State), s.phys.input = true ∧ v.toInt < 408) ∧
    (∃ (p : Pier), ∃ (v : BitVec 16), ∃ (s : State), s.phys.input = true ∧ 420 < v.toInt ∧
    s.phys.dieHot.get false p = false) ∧
    (∃ (p : Pier), ∃ (v : BitVec 16), ∃ (s : State), s.phys.input = true ∧ 408 ≤ v.toInt ∧
    (v.toInt ≤ 420 ∨ s.phys.dieHot.get false p = true)) ∧
    (∃ (p : Pier), ∃ (s : State), s.dieOn p = false) ∧
    (∃ (p : Pier), ∃ (s : State), let d := s.phys.droop.get 0 p; d ≠ 0) ∧
    (∃ (p : Pier), ∃ (s : State), let d := s.phys.droop.get 0 p; d ≠ 1) ∧
    (∃ (p : Pier), ∃ (s : State), let d := s.phys.droop.get 0 p; d = 0) ∧
    (∃ (p : Pier), ∃ (s : State), let d := s.phys.droop.get 0 p; s.dieOn p = true ∧ d = 0) ∧
    (∃ (p : Pier), ∃ (s : State), let d := s.phys.droop.get 0 p; s.dieOn p = true ∧ d = 1) ∧
    (∃ (p : Pier), ∃ (s : State), let d := s.phys.droop.get 0 p; s.dieOn p = true ∧ d ≠ 0) ∧
    (∃ (s : State), (s.ks.bringup < 4 ∨ s.tripped = true)) ∧
    (∃ (s : State), 4 ≤ s.ks.bringup ∧ s.tripped = false) ∧
    (∃ (p : Pier), ∃ (s : State), (s.tripped = true ∨ p.val ∉ s.ks.powerDue)) ∧
    (∃ (p : Pier), ∃ (s : State), s.tripped = false ∧ p.val ∈ s.ks.powerDue ∧ s.pierGoal p = 2) ∧
    (∃ (p : Pier), ∃ (s : State), s.tripped = false ∧ p.val ∈ s.ks.powerDue ∧ s.pierGoal p = 1 ∧ (s.pier p).power = 0) ∧
    (∃ (p : Pier), ∃ (s : State), s.tripped = false ∧ p.val ∈ s.ks.powerDue ∧ s.pierGoal p = 0 ∧ (s.pier p).power = 1 ∧
    (s.stack p).oos = false ∧ (s.stack p).dead = false) ∧
    (∃ (id : BitVec 6), ∃ (s : State),
    (id.toNat = 0 ∨ 59 < id.toNat ∨ s.sensorOn id.toNat = false ∨ (s.reg mgtOff).getLsbD 8 = false)) ∧
    (∃ (id : BitVec 6), ∃ (s : State), 1 ≤ id.toNat ∧ id.toNat ≤ 59 ∧ s.sensorOn id.toNat = true ∧
    (s.reg mgtOff).getLsbD 8 = true) ∧
    (∃ (i : TapInsn), i ≠ .idcode) :=
  ⟨⟨(0x0028#16), st52, by decide +kernel⟩,
    ⟨(0x018f#16), st52, by decide +kernel⟩,
    ⟨(0x018f#16), st40, head3 (by decide +kernel) ⟨395, by decide +kernel⟩⟩,
    ⟨(0x0028#16), st52, by decide +kernel⟩,
    ⟨(0x0bb8#16), st40, by decide +kernel⟩,
    ⟨st36, by decide +kernel⟩,
    ⟨st52, by decide +kernel⟩,
    ⟨st52, Sensor.power, by decide +kernel⟩,
    ⟨st52, (Sensor.lid 1), (0x0028#16), 5, 360, by decide +kernel⟩,
    ⟨st52, (Sensor.lid 1), (0x0bb8#16), 5, 360, by decide +kernel⟩,
    ⟨st36, by decide +kernel⟩,
    ⟨(0x0bb8#16), st52, by decide +kernel⟩,
    ⟨(0x0028#16), st52, by decide +kernel⟩,
    ⟨(0x0028#16), st52, by decide +kernel⟩,
    ⟨15, (0x0bb8#16), st52, by decide +kernel⟩,
    ⟨15, (0x019a#16), st52, by decide +kernel⟩,
    ⟨15, st52, by decide +kernel⟩,
    ⟨15, st44, by decide +kernel⟩,
    ⟨15, st52, by decide +kernel⟩,
    ⟨15, st52, by decide +kernel⟩,
    ⟨15, st42, by decide +kernel⟩,
    ⟨15, st43, by decide +kernel⟩,
    ⟨15, st44, by decide +kernel⟩,
    ⟨st37, by decide +kernel⟩,
    ⟨st52, by decide +kernel⟩,
    ⟨15, st52, by decide +kernel⟩,
    ⟨2, st47, by decide +kernel⟩,
    ⟨2, st48, by decide +kernel⟩,
    ⟨2, st49, by decide +kernel⟩,
    ⟨(0x3c#6), st52, by decide +kernel⟩,
    ⟨(0x3b#6), st51, by decide +kernel⟩,
    ⟨TapInsn.samplePreload, by decide +kernel⟩⟩

end Sys2Proof.Tests.TrussStates

/-! ### States for the statements on the watchdog and the resets -/

namespace Sys2Proof.Tests.ResetStates
open Sys2Proof Sys2Proof.Machine Sys2Proof.Tests

def noS (x : PierState) : PierState := { x with serves := none }
def run1 (f : PierState → PierState) : State := demo.updPier 2 fun x => f { x with seq := .running, lastProgress := 1 }
def tw (w : Nat) : State := run1 fun x => { x with waitMs := w, hold := some (.twait 5 9 3), run := some demoRun }
def fnc (k : FenceKind) (w : Bool) : Fence := { kind := k, ctx := 1, tag := 0, written := w, writtenAt := 0 }
def wf (f : Fence) (s : State) : State := s.updKs fun k => { k with fence := some f }
def om (s : State) : State := s.updKs fun k => { k with mbs := [(5, { Mailbox.reset with owner := true }), (7, { Mailbox.reset with owner := true })], resetMb := some 7, resetting := true }
def st2 : State := run1 id
def st3 : State := run1 fun x => { x with lastProgress := 0 }
def st4 : State := run1 fun x => { x with stuckMs := 99, serves := none }
def st5 : State := tw 3
def st6 : State := tw 99
def st9 : State := wf (fnc (.teardown 5) false) demo
def st11 : State := wf (fnc (.teardown 5) true) (demo.updDie 3 fun x => { x with quiet := false })
def st13 : State := om demo
def st14 : State := (om demo).updPier 2 fun x => { x with started := [started 0 1] }
def st15 : State := cmdAt (tkP 6 [(0,3)]) id
def st16 : State := cmdAt (tkP 6 []) id
def st17 : State := cmdAt (tkP 6 [(0,1)]) id
def st18 : State := cmdAt (tkP 6 [(0,2),(1,2)]) fun s => s.updPier 2 noS
def st19 : State := cmdAt (tk 1 []) id

theorem witness_WatchdogAndResets :
    (∃ (s : State), s.takes = false) ∧
    (∃ (p : Pier), ∃ (s : State), let x := s.pier p; s.takes = true ∧ x.seq ≠ .running ∧ x.seq ≠ .halting) ∧
    (∃ (p : Pier), ∃ (s : State), let x := s.pier p; let now := s.reg64 (psqOff p + 0x58) + 1; s.takes = true ∧
    (x.seq = .running ∨ x.seq = .halting) ∧ x.lastProgress ≠ now) ∧
    (∃ (p : Pier), ∃ (s : State), let x := s.pier p; let now := s.reg64 (psqOff p + 0x58) + 1; s.takes = true ∧
    (x.seq = .running ∨ x.seq = .halting) ∧ x.lastProgress = now ∧ s.twaits p = [] ∧ x.engineWaits = [] ∧ x.stuckMs < 99) ∧
    (∃ (p : Pier), ∃ (s : State), let x := s.pier p; let now := s.reg64 (psqOff p + 0x58) + 1; s.takes = true ∧
    (x.seq = .running ∨ x.seq = .halting) ∧ x.lastProgress = now ∧ s.twaits p = [] ∧ x.engineWaits = [] ∧
    x.stuckMs = 99 ∧ s.ks.fence = none ∧ s.ks.fences = [] ∧ x.serves = none) ∧
    (∃ (p : Pier), ∃ (s : State), let x := s.pier p; let now := s.reg64 (psqOff p + 0x58) + 1; s.takes = true ∧
    (x.seq = .running ∨ x.seq = .halting) ∧ x.lastProgress = now ∧ s.twaits p ≠ [] ∧ x.waitMs < 99) ∧
    (∃ (p : Pier), ∃ (s : State), let x := s.pier p; let now := s.reg64 (psqOff p + 0x58) + 1; s.takes = true ∧
    (x.seq = .running ∨ x.seq = .halting) ∧ x.lastProgress = now ∧ s.twaits p ≠ [] ∧ x.waitMs = 99) ∧
    (∃ (p : Pier), ∃ (s : State), s.ks.fence = none ∧ s.ks.fences = [] ∧ (s.pier p).serves = none) ∧
    (∃ (p : Pier), ∃ (s : State), ∃ c, s.ks.fence = none ∧ s.ks.fences = [] ∧ (s.pier p).serves = some c ∧
    s.ks.fenceDead = false) ∧
    (∃ (s : State), ∃ g, s.ks.fence = some g ∧ g.written = true) ∧
    (∃ (s : State), s.ks.fence = none) ∧
    (∃ (s : State), ∃ f, s.ks.fence = some f ∧ f.written = false ∧
    (s.updCtx f.ctx fun x => { x with lastRaise := none }).fenceReady f = true) ∧
    (∃ (s : State), ∃ f, s.ks.fence = some f ∧ (f.written = false ∨ s.allQuiet = true)) ∧
    (∃ (s : State), ∃ f, s.ks.fence = some f ∧ f.written = true ∧ s.allQuiet = false ∧ s.ks.fences = []) ∧
    (∃ (s : State), (s.phys.input = false ∨ s.ks.phase = .boot ∨ s.ks.resetting = true)) ∧
    (∃ (s : State), s.phys.input = true ∧ s.ks.phase ≠ .boot ∧ s.ks.resetting = false ∧ s.ks.fw.activation = none) ∧
    (∃ (s : State), s.ks.resetting = false) ∧
    (∃ (s : State), (∃ p : Pier, (s.pier p).started ≠ []) ∧ s.ks.resetting = true) ∧
    (∃ (s : State), (∀ p : Pier, (s.pier p).drained = true) ∧ (∀ m, (s.mb m).taken = none) ∧ s.ks.resetting = true ∧
    s.ks.fence = none ∧ s.ks.fences = [] ∧ (∀ c, (s.ctx c).step = none ∧ (s.ctx c).serve = none)) ∧
    (∃ (m : Mbx), ∃ (s : State), ∃ (k : Taken), s.cmd m 0x0006 k ∧
    let kind := k.arg 0 1; let p := k.arg 1 1; (2 < kind ∨ (kind ≠ 2 ∧ p ≠ 0) ∨ 15 < p)) ∧
    (∃ (m : Mbx), ∃ (s : State), ∃ (k : Taken), s.cmd m 0x0006 k ∧ let kind := k.arg 0 1; let p := k.arg 1 1; kind = 0 ∧
    p = 0 ∧ s.phys.input = true ∧ s.tripped = false) ∧
    (∃ (m : Mbx), ∃ (s : State), ∃ (k : Taken), s.cmd m 0x0006 k ∧ let kind := k.arg 0 1; let p := k.arg 1 1; kind = 1 ∧
    p = 0 ∧ s.phys.input = true ∧ s.ks.phase ≠ .boot ∧ s.ks.resetting = false ∧ s.ks.fw.activation = none) ∧
    (∃ (m : Mbx), ∃ (s : State), ∃ (k : Taken), s.cmd m 0x0006 k ∧ let kind := k.arg 0 1; let p := k.arg 1 1; kind = 2 ∧
    p ≤ 15 ∧ s.ks.fence = none ∧ s.ks.fences = [] ∧ (s.pier p).serves = none ∧ s.ks.lists = []) :=
  ⟨⟨st14, by decide +kernel⟩,
    ⟨15, st19, by decide +kernel⟩,
    ⟨2, st3, by decide +kernel⟩,
    ⟨2, st2, by decide +kernel⟩,
    ⟨2, st4, by decide +kernel⟩,
    ⟨2, st5, by decide +kernel⟩,
    ⟨2, st6, by decide +kernel⟩,
    ⟨15, st19, by decide +kernel⟩,
    ⟨2, st19, 1, by decide +kernel⟩,
    ⟨st11, { kind := FenceKind.teardown 5, ctx := 1, tag := 0, written := true, writtenAt := 0 }, by decide +kernel⟩,
    ⟨st19, by decide +kernel⟩,
    ⟨st9, { kind := FenceKind.teardown 5, ctx := 1, tag := 0, written := false, writtenAt := 0 }, by decide +kernel⟩,
    ⟨st9, { kind := FenceKind.teardown 5, ctx := 1, tag := 0, written := false, writtenAt := 0 }, by decide +kernel⟩,
    ⟨st11, { kind := FenceKind.teardown 5, ctx := 1, tag := 0, written := true, writtenAt := 0 }, by decide +kernel⟩,
    ⟨st14, by decide +kernel⟩,
    ⟨st19, by decide +kernel⟩,
    ⟨st19, by decide +kernel⟩,
    ⟨st14, by decide +kernel⟩,
    ⟨st13, by decide +kernel,
    Tab.all_get (P := fun x : Mailbox => x.taken = none) (by decide +kernel) (by decide +kernel), head3 (by decide +kernel) (Tab.all_get (P := fun x : Context => x.step = none ∧ x.serve = none) (by decide +kernel) (by decide +kernel))⟩,
    ⟨5, st15, _, ⟨rfl, rfl, rfl, by decide +kernel⟩, by decide +kernel⟩,
    ⟨5, st16, _, ⟨rfl, rfl, rfl, by decide +kernel⟩, by decide +kernel⟩,
    ⟨5, st17, _, ⟨rfl, rfl, rfl, by decide +kernel⟩, by decide +kernel⟩,
    ⟨5, st18, _, ⟨rfl, rfl, rfl, by decide +kernel⟩, by decide +kernel⟩⟩

theorem witness_ResetValues :
    (∃ v, v < 2048) ∧
    (∃ i, i < 80) :=
  ⟨⟨772, by decide +kernel⟩,
    ⟨65, by decide +kernel⟩⟩

end Sys2Proof.Tests.ResetStates

namespace Sys2Proof.Tests

/-- The hypotheses of StepTakesFront's idle clause. -/
theorem witness_StepTakesFront : ∃ s : Machine.State, s.pending = [] := ⟨demo, rfl⟩

/-- A state whose memory lists bytes and from which step answers a next state. -/
theorem witness_MemoryStaysCanonical :
    ∃ s t : Machine.State, s.memOk ∧ Machine.step s = .next t ∧ s.mem ≠ [] :=
  ⟨running [4], _, by show Machine.Memory.wf _ = true; decide +kernel, rfl, by decide +kernel⟩

end Sys2Proof.Tests

end
end

section
/-! Proofs. The classes of a pass (R36): what `passClass` answers, what a class takes per slot, and the fault of a pair of
no class at dispatch. -/
namespace Sys2Proof.Proofs
open Sys2Proof Sys2Proof.Machine

/-- The table of R36, row by row: the pairs of each class and kind, and no other pair has a class. -/
theorem passClass_eq_some_iff {a b c : Nat} {i : Bool} : passClass a b = some (c, i) ↔
    (c = 0 ∧ i = false ∧ a ≤ 2 ∧ b ≤ 2) ∨
    (c = 0 ∧ i = true ∧ a = 9 ∧ b = 9) ∨
    (c = 1 ∧ i = false ∧ a ≤ 4 ∧ b ≤ 4 ∧ (3 ≤ a ∨ 3 ≤ b)) ∨
    (c = 1 ∧ i = true ∧ ((a = 10 ∧ b = 10) ∨ (a = 10 ∧ b = 9) ∨ (a = 9 ∧ b = 10))) ∨
    (c = 2 ∧ i = false ∧ (a = 5 ∨ a = 6) ∧ (b = 5 ∨ b = 6)) ∨
    (c = 3 ∧ i = false ∧ a = 7 ∧ b = 7) ∨
    (c = 4 ∧ i = false ∧ a = 8 ∧ b = 8) := by
  -- each branch of `passClass` is one row of the table; its guard and the failed ones before it decide the other rows
  unfold passClass
  cases i with
  | false => split_ifs <;> simp <;> omega
  | true => split_ifs <;> simp <;> omega

/-- Every row of the table is unordered. -/
theorem passClass_comm (a b : Nat) : passClass a b = passClass b a := by
  refine Option.ext fun ⟨c, i⟩ => ?_
  rw [passClass_eq_some_iff, passClass_eq_some_iff]
  cases i with
  | false => simp; omega
  | true => simp; omega

theorem passClass_le_four {a b c : Nat} {i : Bool} (h : passClass a b = some (c, i)) : c ≤ 4 := by
  rw [passClass_eq_some_iff] at h
  omega

theorem passClass_none_or_le_four (a b : Nat) :
    passClass a b = none ∨ ∃ c, c ≤ 4 ∧ (passClass a b = some (c, false) ∨ passClass a b = some (c, true)) := by
  cases h : passClass a b with
  | none => exact .inl rfl
  | some x =>
    obtain ⟨c, i⟩ := x
    refine .inr ⟨c, passClass_le_four h, ?_⟩
    cases i <;> simp

/-- The formats of a pair are checked behind the reserved codes and the drain descriptor's presence, and before
everything else (R554). -/
theorem passCheck_of_passClass_none {e : Entry} {d : Option Nat} (hacc : e.accMode ≠ 3) (hsrc : e.statSrc ≠ 3)
    (hgauge : e.gauge ≠ 3) (hd : e.drainOut = true → d ≠ none) (hc : passClass e.statFmt e.strmFmt = none) :
    e.passCheck d = some 0x0221 := by
  have hpresent : ¬ (e.drainOut && d.isNone) = true := by simpa using hd
  simp [Entry.passCheck, hacc, hsrc, hgauge, hpresent, hc]

/-- A PASS of an array that is on and that fails a check of R554 faults its task with the check's code. -/
theorem exec_pass_of_passCheck {p : Pier} {s u : State} {r : RunTask} {w0 w1 c : Nat} (hat : s.atInstr p r w0 w1 u)
    (hop : opc w0 = 0x40) (hon : bit (u.pier p).arrOn ((entryOf r w0 w1).passArray / 2) = true)
    (hcheck : (entryOf r w0 w1).passCheck (((u.pier p).descs.get none (fld w1 2 6)).map fun b => b.toNat) = some c) :
    exec (.pass p) s = .next
      (u.seqFaultCode p r.task.ser 13 r.pc c (passBits p (entryOf r w0 w1).passArray c)) := by
  change execPass p s = _
  rw [execPass, State.dispatch_at hat (by simp [hop])]
  simp [hon, passDd, hcheck]

/-- A sequencer's first fault leaves the arrays of its pier as they are. -/
theorem array_pier_seqFaultCode {s : State} {p ser qsel word code : Nat} {bits : List (Nat × Nat)}
    (h : (s.pier p).fault = none) (a : Nat) :
    ((s.seqFaultCode p ser qsel word code bits).pier p).array a = (s.pier p).array a := by
  simp [State.seqFaultCode, State.seqFault_first h, PierState.stopFrom, PierState.array]

/-- Settles O13: the table's row-by-row reading gives the classes, and a pair of no class is the first check that fails
at dispatch. -/
theorem passClasses : Obligations.PassClasses := by
  unfold Obligations.PassClasses
  refine ⟨fun a b => ?_, ⟨rfl, rfl, by decide, fun _ => rfl⟩, ?_⟩
  · refine ⟨passClass_comm a b, ?_, ?_, ?_, ?_, ?_, ?_, ?_, passClass_none_or_le_four a b⟩ <;>
      simp [passClass_eq_some_iff, Fin.ext_iff, Fin.le_def]
  · intro p s u r w0 w1 hat hop x e hon hfault hacc hsrc hgauge hd hc
    have hcheck : e.passCheck ((x.descs.get none (fld w1 2 6)).map fun b => b.toNat) = some 0x0221 :=
      passCheck_of_passClass_none hacc hsrc hgauge (by simpa using hd) hc
    obtain ⟨hseq, -, -, -, f, hf, -, hcode, -⟩ := State.pier_seqFaultCode (ser := r.task.ser) (qsel := 13)
      (word := r.pc) (code := 0x0221) (bits := passBits p e.passArray 0x0221) hfault
    exact ⟨_, f, exec_pass_of_passCheck hat hop hon hcheck, hseq, hf, hcode, array_pier_seqFaultCode hfault⟩

end Sys2Proof.Proofs
end

section
/-! Proofs. The tally counters of a pier (R134): when a wait holds, and what a counter reads after a write or an
increment. -/
namespace Sys2Proof.Proofs
open Sys2Proof Sys2Proof.Machine

/-- A residue modulo 2^n is not negative, so `wrap`'s passage through `Nat` keeps it. -/
theorem coe_wrap (i : Int) (n : Nat) : (wrap i n : Int) = i % (2 ^ n : Int) := by
  have hpos : (0 : Int) ≤ i % (2 ^ n : Nat) := Int.emod_nonneg _ (by positivity)
  rw [wrap, Int.toNat_of_nonneg hpos]
  norm_cast

/-- On 32-bit words the model's test is the wrapping difference of R134. -/
theorem tcHolds_toNat_iff (tc value : BitVec 32) :
    tcHolds tc.toNat value.toNat = true ↔ (tc - value).toNat < 2 ^ 31 := by
  have hvalue : value.toNat % 2 ^ 32 = value.toNat := Nat.mod_eq_of_lt value.isLt
  have hdiff : (tc - value).toNat = (tc.toNat + 2 ^ 32 - value.toNat) % 2 ^ 32 := by
    rw [BitVec.toNat_sub]
    omega
  rw [tcHolds, decide_eq_true_eq, hvalue, hdiff]

theorem tc_tcSet (s : State) (p k j v : Nat) :
    (s.tcSet p k v).tc p j = if j = k then v % 2 ^ 32 else s.tc p j := by
  rw [State.tcSet, State.tc, State.pier_updPier_same, Tab.get_put]
  rfl

theorem tc_tcAdd (s : State) (p k j : Nat) (inc : Int) :
    (s.tcAdd p k inc).tc p j = if j = k then wrap (s.tc p k + inc) 32 else s.tc p j := by
  rw [State.tcAdd, State.tc, State.pier_updPier_same, Tab.get_put]
  rfl

theorem exec_psqTcnWrite (p : Pier) (k : Tc) (v : Word32) (s : State) :
    exec (.psqTcnWrite p k v) s = .next (s.tcSet p k v.toNat) := rfl

/-- Settles O6: the wait is the wrapping difference, and a write and an increment reach the counter they name and no
other. -/
theorem tallyWait : Obligations.TallyWait := by
  unfold Obligations.TallyWait
  refine ⟨tcHolds_toNat_iff, fun p k j v s => ⟨_, exec_psqTcnWrite p k v s, ?_⟩, fun p k j inc s => ?_⟩
  · rw [tc_tcSet, Nat.mod_eq_of_lt v.isLt]
    simp only [Fin.ext_iff]
  · rw [tc_tcAdd, apply_ite Nat.cast, coe_wrap]
    simp only [Fin.ext_iff]

end Sys2Proof.Proofs
end
